-- ==== Sys2Proof/Word.lean ====
section
/-!
DEFINITION. The word types of the VXJ7-640 and their plainest arithmetic (R1, R2, R54, R103).
-/
namespace Sys2Proof

/-- A byte of memory. -/
abbrev Byte := BitVec 8

/-- A 64-bit general or scalar register value (R103, R214). -/
abbrev Word := BitVec 64

/-- A 48-bit fabric word or integer lane (R54, R59). -/
abbrev FW := BitVec 48

/-- The 64 lanes of a wide token or a vector register (R54, R214). -/
abbrev Lanes := Vector FW 64

end Sys2Proof
end

