-- ==== Sys2Proof/Syntax.lean ====
section
/-!
DEFINITION. The syntax: one constructor per row of the operation and event table of the spec.
Control-core words (R93 to R101), the scalar and vector slot operations of firing words
(R104 to R107), and the machine's own indivisible steps (the rows without an encoding,
95_what_each_step_holds.md). A step that the outside causes carries what it brings (a message, a
store, a token); an internal step carries nothing, and the turn that starts it names the unit and
the pending thing it concerns (the state's schedule).
-/
namespace Sys2Proof

/-- A general register number, 0 to 31 (R103). -/
abbrev Reg := Fin 32
/-- A scalar register number of a tile (R103). -/
abbrev SReg := Fin 16
/-- A predicate number of a tile (R103). -/
abbrev QReg := Fin 8
/-- A lane-mask number of a tile (R103). -/
abbrev MReg := Fin 8
/-- A vector register number of a tile (R103). -/
abbrev VReg := Fin 32

/-- Memory scopes (R6), narrowest first. -/
inductive Scope where
  | tile | die | mod | pod | sys
  deriving DecidableEq, Repr, Inhabited

/-- Access sizes of the KM and SYNCMEM formats (R95). -/
inductive Size where
  | b | h | w | d
  deriving DecidableEq, Repr, Inhabited

/-- Cache hints (R95, R275). -/
inductive Hint where
  | normal | evictFirst | noAllocate | retainClass
  deriving DecidableEq, Repr, Inhabited

/-- Orders of a read-modify-write (R367). -/
inductive Order where
  | relaxed | acq | rel | acqRel
  deriving DecidableEq, Repr, Inhabited

/-- Rounding modes of R58 as the vector slot encodes them (R106). -/
inductive Rnd where
  | rne | rz | rd | ru
  deriving DecidableEq, Repr, Inhabited

/-- The eleven read-modify-write operations (R224, R367). -/
inductive AtomOp where
  | add | and | or | xor | min | max | minu | maxu | swp | cas | fadd
  deriving DecidableEq, Repr, Inhabited

/-- Accumulator kinds (R206). -/
inductive AcKind where
  | int | fw | umax | umin
  deriving DecidableEq, Repr, Inhabited

/-- What a host party asks of a stream's home (R297, R298): a load or store of n bytes at byte x of an alias window of a
size, a load of a control page, a write of its CREST or of a slot's TOE, or of LZERO and SDISC. -/
inductive HostStream where
  | load (size x n : Nat)
  | store (size x n data : Nat)
  | page (offset n : Nat)
  | crest (c : Nat)
  | toe (k t : Nat)
  | clear
  deriving DecidableEq, Repr, Inhabited

/-- What a party of a stream asks of a home on another module (R299): a read, a store of the bytes that a mask selects, a
STREAM word with its number, slot, argument and flag, the span of a command with CURS (R318), what a host party does
through a VF, or what a stream call the unloading of an occupant or the end of a VF does there (R301, R405). -/
inductive LlStream where
  | read (n : Nat)
  | store (n data mask : Nat)
  | op (f k : Nat) (arg : Word) (flag : Bool)
  | span (bytes : Nat)
  | host (vf : Nat) (h : HostStream)
  | attach (k vf : Nat) (crest gate : Bool) (gsel : Nat)
  | detach (k : Nat)
  | stall (e : Nat)
  | stat
  | leave
  | vfLeave (vf : Nat)
  deriving DecidableEq, Repr, Inhabited

/-- What a Llynren token asks of the module it goes to (R335, R336): a memory token reads, writes the bytes that a mask selects
and fills the words of a bit map, counted from the word of its address (R324), modifies or
combines one RED element of n bytes by an operation, waits until a word is full (R365) or on a word for an expected value,
or reaches a stream's home (R299); a word on which a record of the module waits has been written (R373); a mirror takes or returns
the granules of an allocation (R342, R343), applies what the primary has written (R343), or changes places with it (R347);
mappings of freed granules go (R346); or a peer token (R338). -/
inductive LlReq where
  | read (ga n : Nat)
  | write (ga n data mask full : Nat)
  | rmw (op : AtomOp) (ga : Nat) (operand expected : Word)
  | red (op ga n data : Nat)
  | sync (ga : Nat) (keep : Bool)
  | waita (ga : Nat) (expected : Word)
  | stream (num occ off : Nat) (act : LlStream)
  | wake (ga : Nat)
  | mirror (gas : List Nat) (take : Bool)
  | apply (ga n data : Nat)
  | swap (gas : List Nat)
  | unmap (ga n : Nat)
  | peer (side row value : Nat)
  deriving DecidableEq, Repr, Inhabited

/-- The flit of a message of no partition as it arrives (R38): its link, whether its tag verifies under the link key, or, where
`old` holds, under the key before a re-key. -/
structure LlFlit where
  link  : Nat
  tagOk : Bool
  old   : Bool := false
  deriving DecidableEq, Repr, Inhabited
/-- What another module's service unit says of a pod partition key (R37): the secret of the SPDM session that it says it
in, the partition, and in an answer the key, or none where it refuses. -/
structure PodSay where
  secret : Nat
  part   : Nat
  key    : Option Nat := none
  deriving DecidableEq, Repr, Inhabited
/-- A switch die of the pod (R344). -/
structure PodDie where
  module : Nat
  die    : Nat
  deriving DecidableEq, Repr, Inhabited

/-- A token that arrives over a Llynren link (R337, R338): its source module, its partition, the traffic key
under which its sender sealed it, whether its flit's tag verifies and whether under the key before a
re-key (R38), its route tag, its pacing class (R339) and its request. -/
structure LlToken where
  source : Nat
  part   : Nat
  key    : Option Nat
  tagOk  : Bool
  old    : Bool := false
  cls    : Nat := 0
  tag    : BitVec 12
  req    : LlReq
  deriving DecidableEq, Repr, Inhabited

/-- The instructions: one constructor per row of the operation and event table, those with operands
first. -/
inductive Instr where
  /-- RECOVERY_DOORBELL (R24). A host store of 0x5A5A to offset 0x018 of the module control page through host port 0 resets the module; any other store there is ignored. -/
  | recoveryDoorbell (port : Nat) (value : Nat)
  /-- REGISTER_WRITE (R22). A host store to a module control page register that has no behaviour of its own is ignored. -/
  | registerWrite (offset : Nat) (value : Nat)
  /-- POWER_WINDOW_END (R21). At the end of each 1,000,000-cycle window the service unit compares measured power with the cap and adjusts the throttle level. -/
  | powerWindowEnd (watts : Nat)
  /-- GET_VERSION (R33). The SPDM responder answers GET_VERSION. -/
  | getVersion (port : Nat)
  /-- GET_CAPABILITIES (R33). The SPDM responder answers GET_CAPABILITIES. -/
  | getCapabilities (port : Nat)
  /-- NEGOTIATE_ALGORITHMS (R33). The SPDM responder negotiates ECDSA P-384 and SHA-384. -/
  | negotiateAlgorithms (port : Nat)
  /-- GET_DIGESTS (R33). The SPDM responder returns the digest of certificate slot 0. -/
  | getDigests (port : Nat)
  /-- GET_CERTIFICATE (R33). The SPDM responder returns the certificate chain of slot 0. -/
  | getCertificate (port : Nat)
  /-- CHALLENGE (R33). The SPDM responder answers a challenge signed by the alias key. -/
  | challenge (port : Nat) (nonce : List Byte)
  /-- GET_MEASUREMENTS (R33). The SPDM responder reports MR0 to MR7 at indices 1 to 8 and BSTS at index 9. -/
  | getMeasurements (port : Nat) (index : Nat) (nonce : List Byte)
  /-- KEY_EXCHANGE (R33). The SPDM responder performs a session key exchange. -/
  | keyExchange (port : Nat) (share : List Byte)
  /-- FINISH (R33). The SPDM responder completes session establishment. -/
  | finish (port : Nat) (mac : List Byte)
  /-- END_SESSION (R33). The SPDM responder ends a session. -/
  | endSession (port : Nat)
  /-- IDE_KM_QUERY (R39). An IDE_KM QUERY inside an SPDM session is answered. -/
  | ideKmQuery (port : Nat)
  /-- KEY_PROG (R39). An IDE_KM KEY_PROG inside a session programs an IDE key for a host port. -/
  | keyProg (port : Nat) (stream : Nat) (key : List Byte)
  /-- K_SET_GO (R39). An IDE_KM K_SET_GO inside a session starts use of a programmed key set. -/
  | kSetGo (port : Nat) (stream : Nat)
  /-- K_SET_STOP (R39). An IDE_KM K_SET_STOP inside a session stops use of a key set. -/
  | kSetStop (port : Nat) (stream : Nat)
  /-- UNSUPPORTED_REQUEST (R33). Any other SPDM request, or a vendor request outside a session, is answered with ERROR UnsupportedRequest. -/
  | unsupportedRequest (port : Nat) (code : Nat)
  /-- LINK_START (R38). At link start a Llynren link key is established by an ECDH P-384 exchange authenticated by both alias keys. -/
  | linkStart (link : Nat) (peer : Nat) (share : List Byte)
  /-- LLYNREN_TOKEN_ARRIVAL (R337). A switch die delivers an arriving token only to the same-numbered partition holding the same pod key, and otherwise drops and counts it. -/
  | llynrenTokenArrival (link : Nat) (tok : LlToken)
  /-- POD_KEY_REQUEST (R37). The defining module sends the pod partition key only if the requester's MR0 to MR4 match one accepted-list entry. -/
  | podKeyRequest (flit : LlFlit) (ask : PodSay) (mrs : List Nat)
  /-- POD_KEY_ARRIVAL (R37). Arrival of the pod partition key completes the waiting PDEF or lets the waiting oasis access proceed. -/
  | podKeyArrival (flit : LlFlit) (ans : PodSay)
  /-- SERVICE_DOORBELL (R143). A host store of a parameter block address to a service doorbell submits a service call and sets the acceptance status. -/
  | serviceDoorbell (port : Nat) (vf : Option Nat) (addr : Nat)
  /-- HOST_MEMORY_ACCESS (R126). A host CXL.mem access to a device-bias page is served at the die's L2 directory. -/
  | hostMemoryAccess (port : Nat) (ga : Nat) (n : Nat) (data : Option Nat)
  /-- SNPDATA (R378). A host SnpData snoop returns the data, writing back an M half, and leaves the half Shared. -/
  | snpData (half : Nat)
  /-- SNPINV (R378). A host SnpInv snoop writes back an M half and invalidates it, waking any monitor on it. -/
  | snpInv (half : Nat)
  /-- SNPCUR (R378). A host SnpCur snoop returns data without changing state. -/
  | snpCur (half : Nat)
  /-- INGRESS_STORE (R134). A host store into an ingress port's token window delivers a packet or token, or is discarded and counted. -/
  | ingressStore (hostport : Nat) (port : Nat) (offset : Nat) (data : List Nat)
  /-- IPSEQ_WRITE (R133). A write to IPSEQ sets ESEQ, discards a partial packet and clears DROPS. -/
  | ipseqWrite (hostport : Nat) (port : Nat) (value : Nat)
  /-- ALIAS_LOAD (R297). A host load in a stream alias window returns visible frame data or zeros counted in LZERO. -/
  | aliasLoad (vf : Nat) (offset : Nat) (n : Nat)
  /-- ALIAS_STORE (R297). A host store in an alias window is performed within the window or discarded and counted in SDISC. -/
  | aliasStore (vf : Nat) (offset : Nat) (n : Nat) (data : Nat)
  /-- CREST_WRITE (R298). A host write of the control page CREST commits as a release at .sys. -/
  | crestWrite (vf : Nat) (stream : Nat) (value : Nat)
  /-- TOE_WRITE (R298). A host write of TOEk by the slot's own VF releases the slot as SREL does. -/
  | toeWrite (vf : Nat) (stream : Nat) (slot : Nat) (value : Nat)
  /-- LZERO_SDISC_WRITE (R298). Any write to the LZERO/SDISC register clears both counters. -/
  | lzeroSdiscWrite (vf : Nat) (stream : Nat)
  /-- PEER_TOKEN_ARRIVAL (R338). A peer token arrives at the corresponding A-tile and is put on no7. -/
  | peerTokenArrival (part : Nat) (side : Nat) (row : Nat) (value : Nat) (tag : Nat)
  /-- LOSS_DECLARATION (R344). A switch-die loss declaration arrives and the module marks the die's oasis range lost. -/
  | lossDeclaration (flit : LlFlit) (lost : PodDie)
  /-- UNREACHABLE_TIMEOUT (R344). A module unreachable on every link for 1,000,000 cycles has its switch dies declared lost. -/
  | unreachableTimeout (module : Nat)
  /-- MOVE_START (R153). A page move creates its forwarding entry in MOVING, waiting for a free entry. -/
  | moveStart (part : Nat) (va : Nat) (dst : Nat)
  /-- TRAP (R209). Ends the run through the trap continuation with fault code 0x00 carrying g[a]. -/
  | trap (a : Reg)
  /-- SVC (R143). Submits a service call block, releasing earlier stores at .mod. -/
  | svc (d : Reg) (a : Reg)
  /-- SRD (R211). Reads a special register into g[d]. -/
  | srd (d : Reg) (n : Fin 32)
  /-- SWR (R211). Writes g[a] to a writable special register. -/
  | swr (a : Reg) (n : Fin 32)
  /-- FENCE (R366). Waits until every earlier load and store completes and fences at its scope. -/
  | fence (scope : Scope)
  /-- FREC (R212). Writes the VA of the trap's fault record, or 0 outside a trap continuation. -/
  | frec (d : Reg)
  /-- ADD (R181). g[d] := A + B. -/
  | add (d : Reg) (a : Reg) (b : Reg)
  /-- SUB (R181). g[d] := A − B. -/
  | sub (d : Reg) (a : Reg) (b : Reg)
  /-- AND (R181). Bitwise and. -/
  | and (d : Reg) (a : Reg) (b : Reg)
  /-- OR (R181). Bitwise or. -/
  | or (d : Reg) (a : Reg) (b : Reg)
  /-- XOR (R181). Bitwise exclusive or. -/
  | xor (d : Reg) (a : Reg) (b : Reg)
  /-- ANDN (R181). A and not B. -/
  | andn (d : Reg) (a : Reg) (b : Reg)
  /-- SHL (R181). Shift left by B[5:0]. -/
  | shl (d : Reg) (a : Reg) (b : Reg)
  /-- SHR (R181). Logical shift right by B[5:0]. -/
  | shr (d : Reg) (a : Reg) (b : Reg)
  /-- SAR (R181). Arithmetic shift right by B[5:0]. -/
  | sar (d : Reg) (a : Reg) (b : Reg)
  /-- MIN (R181). Signed minimum. -/
  | min (d : Reg) (a : Reg) (b : Reg)
  /-- MAX (R181). Signed maximum. -/
  | max (d : Reg) (a : Reg) (b : Reg)
  /-- MINU (R181). Unsigned minimum. -/
  | minu (d : Reg) (a : Reg) (b : Reg)
  /-- MAXU (R181). Unsigned maximum. -/
  | maxu (d : Reg) (a : Reg) (b : Reg)
  /-- SLT (R181). 1 if A < B signed. -/
  | slt (d : Reg) (a : Reg) (b : Reg)
  /-- SLTU (R181). 1 if A < B unsigned. -/
  | sltu (d : Reg) (a : Reg) (b : Reg)
  /-- SEQ (R181). 1 if A = B. -/
  | seq (d : Reg) (a : Reg) (b : Reg)
  /-- CLZ (R181). Counts leading zero bits of A. -/
  | clz (d : Reg) (a : Reg)
  /-- CNTB (R181). Counts one bits of A. -/
  | cntb (d : Reg) (a : Reg)
  /-- SEXTB (R181). Sign-extends A[7:0]. -/
  | sextb (d : Reg) (a : Reg)
  /-- SEXTH (R181). Sign-extends A[15:0]. -/
  | sexth (d : Reg) (a : Reg)
  /-- SEXTW (R181). Sign-extends A[31:0]. -/
  | sextw (d : Reg) (a : Reg)
  /-- ZEXTB (R181). Zero-extends A[7:0]. -/
  | zextb (d : Reg) (a : Reg)
  /-- ZEXTH (R181). Zero-extends A[15:0]. -/
  | zexth (d : Reg) (a : Reg)
  /-- ZEXTW (R181). Zero-extends A[31:0]. -/
  | zextw (d : Reg) (a : Reg)
  /-- MUL (R182). Low 64 bits of A × B. -/
  | mul (d : Reg) (a : Reg) (b : Reg)
  /-- MULH (R182). High 64 bits of signed A × B. -/
  | mulh (d : Reg) (a : Reg) (b : Reg)
  /-- MULHU (R182). High 64 bits of unsigned A × B. -/
  | mulhu (d : Reg) (a : Reg) (b : Reg)
  /-- DIV (R182). Signed division truncated toward zero, with defined results for zero and overflow. -/
  | div (d : Reg) (a : Reg) (b : Reg)
  /-- DIVU (R182). Unsigned division. -/
  | divu (d : Reg) (a : Reg) (b : Reg)
  /-- REM (R182). Signed remainder. -/
  | rem (d : Reg) (a : Reg) (b : Reg)
  /-- REMU (R182). Unsigned remainder. -/
  | remu (d : Reg) (a : Reg) (b : Reg)
  /-- ADDI (R183). A plus sign-extended immediate. -/
  | addi (d : Reg) (a : Reg) (imm : BitVec 16)
  /-- ANDI (R183). A and zero-extended immediate. -/
  | andi (d : Reg) (a : Reg) (imm : BitVec 16)
  /-- ORI (R183). A or zero-extended immediate. -/
  | ori (d : Reg) (a : Reg) (imm : BitVec 16)
  /-- XORI (R183). A xor zero-extended immediate. -/
  | xori (d : Reg) (a : Reg) (imm : BitVec 16)
  /-- SLTI (R183). 1 if A < I signed. -/
  | slti (d : Reg) (a : Reg) (imm : BitVec 16)
  /-- SLTIU (R183). 1 if A < I unsigned. -/
  | sltiu (d : Reg) (a : Reg) (imm : BitVec 16)
  /-- SEQI (R183). 1 if A = I. -/
  | seqi (d : Reg) (a : Reg) (imm : BitVec 16)
  /-- SHLI (R184). Shift left by an immediate amount. -/
  | shli (d : Reg) (a : Reg) (n : Fin 64)
  /-- SHRI (R184). Logical shift right by an immediate amount. -/
  | shri (d : Reg) (a : Reg) (n : Fin 64)
  /-- SARI (R184). Arithmetic shift right by an immediate amount. -/
  | sari (d : Reg) (a : Reg) (n : Fin 64)
  /-- MOVW (R185). g[d] := imm16 shifted to position pos, other bits zero. -/
  | movw (d : Reg) (pos : Fin 4) (imm : BitVec 16)
  /-- MOVK (R185). Replaces one 16-bit field of g[d] with imm16. -/
  | movk (d : Reg) (pos : Fin 4) (imm : BitVec 16)
  /-- BEQ (R186). Branches if equal. -/
  | beq (a : Reg) (b : Reg) (disp : BitVec 16)
  /-- BNE (R186). Branches if not equal. -/
  | bne (a : Reg) (b : Reg) (disp : BitVec 16)
  /-- BLT (R186). Branches if less, signed. -/
  | blt (a : Reg) (b : Reg) (disp : BitVec 16)
  /-- BGE (R186). Branches if greater or equal, signed. -/
  | bge (a : Reg) (b : Reg) (disp : BitVec 16)
  /-- BLTU (R186). Branches if less, unsigned. -/
  | bltu (a : Reg) (b : Reg) (disp : BitVec 16)
  /-- BGEU (R186). Branches if greater or equal, unsigned. -/
  | bgeu (a : Reg) (b : Reg) (disp : BitVec 16)
  /-- JMP (R187). Jumps by a 26-bit displacement. -/
  | jmp (disp : BitVec 26)
  /-- CALL (R187). Jumps and writes the return index to g30. -/
  | call (disp : BitVec 26)
  /-- JR (R187). Jumps to word index g[a]. -/
  | jr (a : Reg)
  /-- LD (R188). Loads 1 to 8 bytes into g[d], counted in LDC. -/
  | ld (d : Reg) (base : Reg) (size : Size) (signed : Bool) (hint : Hint) (off : BitVec 11)
  /-- ST (R189). Stores the low bytes of g[s], counted in STC. -/
  | st (src : Reg) (base : Reg) (size : Size) (hint : Hint) (off : BitVec 11)
  /-- LD_ACQ (R363). Load that is an acquire at its scope. -/
  | ldAcq (d : Reg) (base : Reg) (size : Size) (scope : Scope) (signed : Bool)
  /-- ST_REL (R364). Store that is a release at its scope over earlier loads and stores. -/
  | stRel (src : Reg) (base : Reg) (size : Size) (scope : Scope)
  /-- LDSYN (R365). Waits until a word is full, reads it and empties it, as an acquire. -/
  | ldsyn (d : Reg) (base : Reg) (scope : Scope)
  /-- LDSYN_K (R365). Waits until a word is full and reads it, leaving it full. -/
  | ldsynK (d : Reg) (base : Reg) (scope : Scope)
  /-- AADD (R368). Atomic add at the word's home. -/
  | aadd (d : Reg) (a : Reg) (b : Reg) (scope : Scope) (order : Order)
  /-- AAND (R368). Atomic and. -/
  | aand (d : Reg) (a : Reg) (b : Reg) (scope : Scope) (order : Order)
  /-- AOR (R368). Atomic or. -/
  | aor (d : Reg) (a : Reg) (b : Reg) (scope : Scope) (order : Order)
  /-- AXOR (R368). Atomic exclusive or. -/
  | axor (d : Reg) (a : Reg) (b : Reg) (scope : Scope) (order : Order)
  /-- AMIN (R368). Atomic signed minimum. -/
  | amin (d : Reg) (a : Reg) (b : Reg) (scope : Scope) (order : Order)
  /-- AMAX (R368). Atomic signed maximum. -/
  | amax (d : Reg) (a : Reg) (b : Reg) (scope : Scope) (order : Order)
  /-- AMINU (R368). Atomic unsigned minimum. -/
  | aminu (d : Reg) (a : Reg) (b : Reg) (scope : Scope) (order : Order)
  /-- AMAXU (R368). Atomic unsigned maximum. -/
  | amaxu (d : Reg) (a : Reg) (b : Reg) (scope : Scope) (order : Order)
  /-- ASWP (R368). Atomic swap. -/
  | aswp (d : Reg) (a : Reg) (b : Reg) (scope : Scope) (order : Order)
  /-- ACAS (R368). Atomic compare-and-swap with the expected value in g[d]. -/
  | acas (d : Reg) (a : Reg) (b : Reg) (scope : Scope) (order : Order)
  /-- AFADD (R368). Atomic binary32 add in bytes 0-3. -/
  | afadd (d : Reg) (a : Reg) (b : Reg) (scope : Scope) (order : Order)
  /-- WAITA (R372). Ends the run and parks a continuation on an 8-byte word's monitor. -/
  | waita (a : Reg) (b : Reg) (scope : Scope) (disp : BitVec 13)
  /-- WAIT (R192). Stalls until each class counter is at or below its limit. -/
  | wait (l : Fin 64) (st : Fin 64) (c : Fin 64) (t : Fin 64)
  /-- SPAWN (R195). Creates a record and pushes it at the bottom of this core's deque. -/
  | spawn (c : Reg) (f : Reg) (r : Reg)
  /-- JREC (R196). Creates a join-pending record in the pool and returns its handle. -/
  | jrec (c : Reg) (f : Reg) (r : Reg)
  /-- JDEC (R197). Decrements a join record's count, making it runnable at zero. -/
  | jdec (d : Reg) (h : Reg)
  /-- YIELD (R198). Ends the run and pushes a successor at the top of the deque. -/
  | yieldRun (c : Reg) (f : Reg) (r : Reg)
  /-- CNEW (R202). Allocates a caravan to the instance. -/
  | cnew (d : Reg)
  /-- CJOIN (R202). Adds the strand as a caravan member. -/
  | cjoin (d : Reg) (a : Reg)
  /-- CLEAVE (R202). Removes the strand from a caravan. -/
  | cleave (d : Reg) (a : Reg)
  /-- CWAIT (R203). Arrives at a caravan round and ends the run, parking its continuation. -/
  | cwait (c : Reg) (a : Reg) (r : Reg)
  /-- CFREE (R202). Frees a caravan with no parked records. -/
  | cfree (d : Reg) (a : Reg)
  /-- QPOST (R141). Posts a child launch packet to a VF's child queue as a release at .mod. -/
  | qpost (a : Reg) (b : Reg)
  /-- PUTT (R205). Appends g[a] to a vs port. -/
  | putt (port : Fin 16) (a : Reg)
  /-- TAKT (R205). Takes the oldest token of a vk port into g[a]. -/
  | takt (port : Fin 16) (a : Reg)
  /-- ACRST (R205). Resets an accumulator's value, count and kind. -/
  | acrst (ac : Fin 8) (a : Reg) (kind : AcKind)
  /-- ACRD (R205). Reads an accumulator's value or count. -/
  | acrd (ac : Fin 8) (a : Reg) (count : Bool)
  /-- CTOK (R207). Sends one token on a control line as a release at .mod. -/
  | ctok (line : Fin 8)
  /-- CTWAIT (R207). Waits until a line count reaches n and subtracts n. -/
  | ctwait (line : Fin 8) (a : Reg)
  /-- SIN (R318). Engine command streaming memory elements to a vk port or accumulator. -/
  | sin (port : Fin 16) (a : Reg) (cls : Fin 4) (toAc : Bool)
  /-- SOUT (R318). Engine command writing tokens from a vs port to memory. -/
  | sout (port : Fin 16) (a : Reg) (cls : Fin 4)
  /-- CPY (R318). Engine command copying and converting a 2-D region. -/
  | cpy (x : Reg) (a : Reg) (cls : Fin 4) (nofe : Bool)
  /-- RED (R319). Engine command combining source elements into destinations at their home pipelines. -/
  | red (a : Reg) (cls : Fin 4) (op : Fin 9)
  /-- GATH (R320). Engine command gathering rows through an index array. -/
  | gath (x : Reg) (a : Reg) (cls : Fin 4) (nofe : Bool)
  /-- SCAT (R320). Engine command scattering rows through an index array. -/
  | scat (x : Reg) (a : Reg) (cls : Fin 4) (nofe : Bool)
  /-- PLD (R321). Engine command filling a C-tile panel slot. -/
  | pld (x : Reg) (a : Reg) (cls : Fin 4)
  /-- PLD_F (R252). Panel fill carrying a follow-on matrix command. -/
  | pldF (x : Reg) (a : Reg) (b : Reg) (cls : Fin 4)
  /-- PDR (R321). Engine command draining a panel slot to memory. -/
  | pdr (x : Reg) (a : Reg) (cls : Fin 4) (nofe : Bool)
  /-- SOPEN (R303). Attaches a reader slot to the issuing occupant. -/
  | sopen (a : Reg) (k : Fin 8) (crest : Bool)
  /-- SCLOSE (R304). Detaches the occupant's slot of a stream. -/
  | sclose (a : Reg)
  /-- SCOMMIT (R305). Commits the crest up to an offset as a release. -/
  | scommit (a : Reg)
  /-- SREL (R306). Releases a slot's toe up to an offset as a release. -/
  | srel (a : Reg) (k : Fin 8)
  /-- SRWD (R307). Sets a slot's cursor. -/
  | srwd (a : Reg) (k : Fin 8)
  /-- SQRY (R308). Reads a stream state value into g[d]. -/
  | sqry (d : Reg) (a : Reg) (k : Fin 8) (m : Fin 7)
  /-- SGATE (R309). Sets or clears a slot's gate. -/
  | sgate (a : Reg) (b : Reg) (k : Fin 8) (on : Bool)
  /-- OALLOC (R345). Allocates, zeroes and maps oasis granules. -/
  | oalloc (d : Reg) (a : Reg) (die : Fin 5) (fc : Bool) (mir : Bool)
  /-- OFREE (R346). Returns an oasis allocation and removes its mappings pod-wide. -/
  | ofree (d : Reg) (a : Reg)
  /-- RETAIN (R281). Activates a retention register over a VA range. -/
  | retain (a : Reg) (b : Reg) (n : Fin 8) (w : Fin 9)
  /-- UNPIN (R281). Deactivates a retention register and clears its marks. -/
  | unpin (n : Fin 8)
  /-- CFLUSH (R282). Cleans, or cleans and invalidates, a range at a scope. -/
  | cflush (a : Reg) (b : Reg) (scope : Scope) (inv : Bool)
  /-- RCINV_RANGE (R283). Invalidates the partition's fabric cache lines in a range. -/
  | rcinvRange (a : Reg) (b : Reg)
  /-- S_ADD (R218). s[sd] := A + B. -/
  | sAdd (d : SReg) (a : SReg) (b : SReg)
  /-- S_SUB (R218). s[sd] := A − B. -/
  | sSub (d : SReg) (a : SReg) (b : SReg)
  /-- S_AND (R218). Scalar bitwise and. -/
  | sAnd (d : SReg) (a : SReg) (b : SReg)
  /-- S_OR (R218). Scalar bitwise or. -/
  | sOr (d : SReg) (a : SReg) (b : SReg)
  /-- S_XOR (R218). Scalar bitwise exclusive or. -/
  | sXor (d : SReg) (a : SReg) (b : SReg)
  /-- S_SHL (R218). Scalar shift left. -/
  | sShl (d : SReg) (a : SReg) (b : SReg)
  /-- S_SHR (R218). Scalar logical shift right. -/
  | sShr (d : SReg) (a : SReg) (b : SReg)
  /-- S_SAR (R218). Scalar arithmetic shift right. -/
  | sSar (d : SReg) (a : SReg) (b : SReg)
  /-- S_MUL (R218). Scalar multiply, low 64 bits. -/
  | sMul (d : SReg) (a : SReg) (b : SReg)
  /-- S_MIN (R218). Scalar signed minimum. -/
  | sMin (d : SReg) (a : SReg) (b : SReg)
  /-- S_MAX (R218). Scalar signed maximum. -/
  | sMax (d : SReg) (a : SReg) (b : SReg)
  /-- S_ADDI (R218). A plus sign-extended imm10. -/
  | sAddi (d : SReg) (a : SReg) (imm : BitVec 10)
  /-- MOVI (R218). s[sd] := sign-extended imm10. -/
  | movi (d : SReg) (imm : BitVec 10)
  /-- MOV (R218). s[sd] := A. -/
  | mov (d : SReg) (a : SReg)
  /-- CMPEQ (R219). Predicate := A = B. -/
  | cmpeq (d : QReg) (a : SReg) (b : SReg)
  /-- CMPLT (R219). Predicate := A < B signed. -/
  | cmplt (d : QReg) (a : SReg) (b : SReg)
  /-- CMPLTU (R219). Predicate := A < B unsigned. -/
  | cmpltu (d : QReg) (a : SReg) (b : SReg)
  /-- QAND (R219). Predicate and of optionally complemented sources. -/
  | qand (d : QReg) (a : QReg) (b : QReg) (ca : Bool) (cb : Bool)
  /-- QOR (R219). Predicate or of optionally complemented sources. -/
  | qor (d : QReg) (a : QReg) (b : QReg) (ca : Bool) (cb : Bool)
  /-- TAKES (R220). Takes the oldest token of a narrow input into a scalar register. -/
  | takes (d : SReg) (port : Fin 8)
  /-- PEEKS (R220). Reads the oldest unconsumed narrow token without consuming it. -/
  | peeks (d : SReg) (port : Fin 8)
  /-- PUTS (R220). Puts a scalar as one narrow token. -/
  | puts (port : Fin 8) (a : SReg)
  /-- PUTR (R220). Puts a narrow token carrying a route tag. -/
  | putr (port : Fin 8) (a : SReg) (b : SReg)
  /-- CNTR (R221). Reads a chain level's value. -/
  | cntr (d : SReg) (chain : Fin 4) (level : Fin 6)
  /-- CADV (R221). Steps a counter chain at a level. -/
  | cadv (chain : Fin 4) (level : Fin 6)
  /-- LOOP (R222). Decrements A and branches while non-zero. -/
  | loop (a : SReg) (imm : BitVec 10)
  /-- BRF (R222). Branches within the firing program. -/
  | brf (imm : BitVec 10)
  /-- LDL (R223). Loads 8 bytes of the M-tile's own SRAM. -/
  | ldl (d : SReg) (a : SReg) (imm : BitVec 10)
  /-- STL (R223). Stores 8 bytes to the M-tile's own SRAM. -/
  | stl (a : SReg) (b : SReg) (imm : BitVec 10)
  /-- S_ATOM (R224). Read-modify-write of one SRAM word in the M-tile's atomic pipeline. -/
  | sAtom (d : SReg) (a : SReg) (b : SReg) (op : AtomOp)
  /-- SETPREC (R242). Sets PREC at the matrix issue point. -/
  | setprec (a : SReg)
  /-- GETPREC (R242). Reads PREC, the sparse cursor or the panel table. -/
  | getprec (d : SReg) (sel : Fin 3)
  /-- LIMW (R225). Writes the M-tile's limit register. -/
  | limw (a : SReg)
  /-- LIMR (R225). Reads the M-tile's limit register. -/
  | limr (d : SReg)
  /-- TAKE (R227). Takes a wide token into a vector register, masked. -/
  | take (d : VReg) (port : Fin 4) (m : MReg)
  /-- TAKE_MARK (R227). TAKE that also writes the burst mark to a scalar register. -/
  | takeMark (d : VReg) (port : Fin 4) (k : SReg) (m : MReg)
  /-- PEEK (R227). Reads a wide token without consuming it. -/
  | peek (d : VReg) (port : Fin 4) (m : MReg)
  /-- PEEK_MARK (R227). PEEK that also writes the burst mark. -/
  | peekMark (d : VReg) (port : Fin 4) (k : SReg) (m : MReg)
  /-- PUT (R227). Puts a vector register as a body token. -/
  | put (port : Fin 4) (a : VReg) (m : MReg)
  /-- PUTH (R227). Puts a head token. -/
  | puth (port : Fin 4) (a : VReg) (m : MReg) (empty : Bool)
  /-- PUTE (R227). Puts a tail token. -/
  | pute (port : Fin 4) (a : VReg) (m : MReg)
  /-- DROP (R227). Consumes one wide token unread. -/
  | drop (port : Fin 4)
  /-- VMOV (R228). Copies lanes raw. -/
  | vmov (d : VReg) (a : VReg) (m : MReg)
  /-- VBC (R228). Broadcasts a scalar's low 48 bits to every lane. -/
  | vbc (d : VReg) (k : SReg) (m : MReg)
  /-- VADD (R229). Rounded float add. -/
  | vadd (d : VReg) (a : VReg) (b : VReg) (m : MReg) (r : Rnd)
  /-- VSUB (R229). Rounded float subtract. -/
  | vsub (d : VReg) (a : VReg) (b : VReg) (m : MReg) (r : Rnd)
  /-- VMUL (R229). Rounded float multiply. -/
  | vmul (d : VReg) (a : VReg) (b : VReg) (m : MReg) (r : Rnd)
  /-- VFMA (R229). Fused multiply-add, one rounding. -/
  | vfma (d : VReg) (a : VReg) (b : VReg) (c : VReg) (m : MReg) (r : Rnd)
  /-- VFMS (R229). Fused multiply-subtract, one rounding. -/
  | vfms (d : VReg) (a : VReg) (b : VReg) (c : VReg) (m : MReg) (r : Rnd)
  /-- VMAX (R229). Float maximum with −0 below +0. -/
  | vmax (d : VReg) (a : VReg) (b : VReg) (m : MReg) (r : Rnd)
  /-- VMIN (R229). Float minimum with −0 below +0. -/
  | vmin (d : VReg) (a : VReg) (b : VReg) (m : MReg) (r : Rnd)
  /-- VABS (R229). Absolute value. -/
  | vabs (d : VReg) (a : VReg) (m : MReg) (r : Rnd)
  /-- VNEG (R229). Negation. -/
  | vneg (d : VReg) (a : VReg) (m : MReg) (r : Rnd)
  /-- VCPS (R229). Magnitude of a with the sign of b. -/
  | vcps (d : VReg) (a : VReg) (b : VReg) (m : MReg) (r : Rnd)
  /-- VEXP2 (R230). Two to the power of each lane by the defined polynomial. -/
  | vexp2 (d : VReg) (a : VReg) (m : MReg) (r : Rnd)
  /-- VLOG2 (R231). Correctly rounded base-2 logarithm. -/
  | vlog2 (d : VReg) (a : VReg) (m : MReg) (r : Rnd)
  /-- VRCP (R231). Correctly rounded reciprocal. -/
  | vrcp (d : VReg) (a : VReg) (m : MReg) (r : Rnd)
  /-- VRSQ (R231). Correctly rounded reciprocal square root. -/
  | vrsq (d : VReg) (a : VReg) (m : MReg) (r : Rnd)
  /-- VCVT (R232). Round-trips each lane through a storage format. -/
  | vcvt (d : VReg) (a : VReg) (f : Fin 32) (m : MReg) (r : Rnd)
  /-- VSRND (R232). Round-trips each lane through a format under stochastic rounding. -/
  | vsrnd (d : VReg) (a : VReg) (b : VReg) (f : Fin 32) (m : MReg)
  /-- VFTOI (R232). Converts a fabric word to a saturated integer lane. -/
  | vftoi (d : VReg) (a : VReg) (m : MReg) (r : Rnd)
  /-- VITOF (R232). Converts a signed integer lane to a fabric word. -/
  | vitof (d : VReg) (a : VReg) (m : MReg) (r : Rnd)
  /-- VIADD (R233). Integer lane add modulo 2^48. -/
  | viadd (d : VReg) (a : VReg) (b : VReg) (m : MReg)
  /-- VIMUL (R233). Integer lane multiply, low 48 bits. -/
  | vimul (d : VReg) (a : VReg) (b : VReg) (m : MReg)
  /-- VAND (R233). Lane bitwise and. -/
  | vand (d : VReg) (a : VReg) (b : VReg) (m : MReg)
  /-- VOR (R233). Lane bitwise or. -/
  | vor (d : VReg) (a : VReg) (b : VReg) (m : MReg)
  /-- VXOR (R233). Lane bitwise exclusive or. -/
  | vxor (d : VReg) (a : VReg) (b : VReg) (m : MReg)
  /-- VCMP (R234). Compares lanes into a mask register. -/
  | vcmp (d : MReg) (a : VReg) (b : VReg) (m : MReg) (c : Fin 7)
  /-- VSEL (R234). Selects lanes of a or b by the mask. -/
  | vsel (d : VReg) (a : VReg) (b : VReg) (m : MReg)
  /-- VRED (R235). Reduces 64 lanes by a fixed tree into every lane. -/
  | vred (d : VReg) (a : VReg) (m : MReg) (op : Fin 6)
  /-- VPERM (R236). Permutes lanes by an index vector. -/
  | vperm (d : VReg) (a : VReg) (b : VReg) (m : MReg)
  /-- VROT (R236). Rotates lanes by a scalar amount. -/
  | vrot (d : VReg) (a : VReg) (k : SReg) (m : MReg)
  /-- VLD (R237). Loads lanes from the M-tile's SRAM. -/
  | vld (d : VReg) (k : SReg) (m : MReg)
  /-- VST (R237). Stores lanes to the M-tile's SRAM. -/
  | vst (k : SReg) (b : VReg) (m : MReg)
  /-- VGATH (R237). Gathers lanes from the M-tile's SRAM by index. -/
  | vgath (d : VReg) (k : SReg) (b : VReg) (m : MReg)
  /-- MMA (R256). Adds a 64×64×64 panel or scratch product into a bank. -/
  | mma (z : Fin 4) (a : Fin 8) (b : Fin 8) (aScr : Bool) (bScr : Bool)
  /-- MMAS (R257). Adds a sparse product whose coordinates come from a narrow token. -/
  | mmas (z : Fin 4) (a : Fin 8) (b : Fin 8) (port : Fin 32)
  /-- MZ (R258). Clears every cell of a bank. -/
  | mz (z : Fin 4)
  /-- MRD (R259). Reads a bank row rounded into a vector register. -/
  | mrd (d : VReg) (z : Fin 4) (k : SReg) (m : MReg)
  /-- MRD_STATUS (R259). Reads a bank row's status fields into a vector register. -/
  | mrdStatus (d : VReg) (z : Fin 4) (k : SReg) (m : MReg)
  /-- MANCH (R260). Shifts the anchors of a bank's anchored FA cells. -/
  | manch (z : Fin 4) (k : SReg)
  /-- MANCH_PRESET (R260). Presets the anchor of a bank's unanchored cells. -/
  | manchPreset (z : Fin 4) (k : SReg)
  /-- PFILL (R261). Writes a panel row from a vector register. -/
  | pfill (d : Fin 8) (a : VReg) (r : SReg) (m : MReg)
  /-- PFILL_PORT (R261). Writes a panel row from a token taken on a wide input. -/
  | pfillPort (d : Fin 8) (port : Fin 32) (r : SReg) (m : MReg)
  /-- PEMIT (R262). Puts a whole panel on a wide output, whose port is vd. -/
  | pemit (port : Fin 32) (p : Fin 8)
  /-- PREL (R263). Releases a panel slot. -/
  | prel (p : Fin 8)
  /-- VMRG (R349). Merges two partial attention triples. -/
  | vmrg (d : Fin 16) (a : Fin 16) (b : Fin 16)
  /-- POWER_ON (R24). A power-on resets the module and restarts boot from stage 0, losing every partition, key and instance. -/
  | powerOn
  /-- WATCHDOG_EXPIRY (R24). Expiry of the service unit's watchdog causes a module reset and restarts boot from stage 0. -/
  | watchdogExpiry
  /-- LOCKSTEP_MISMATCH (R23). A lock-step mismatch of the boot pair resets both cores, clears the measurement registers and restarts boot; the third mismatch enters recovery with FAILC 0x05. -/
  | lockstepMismatch
  /-- BOOT_STAGE (R26). A boot stage finishes verifying the next image under R25, measures it into its register and hands over to it. -/
  | bootStage
  /-- WAVE_STEP (R17). Every 100 cycles a wave step releases up to 32 C-tiles and 32 M-tiles from clock gating, shared among rectangles in rotation. -/
  | waveStep
  /-- LINK_REKEY (R38). A link is re-keyed before its counter passes 2^32 flits, accepting straddling flits under the old key until the peer acknowledges. -/
  | linkRekey
  /-- MAP (R330). Service call MAP maps pages all or nothing after ownership and colour checks. -/
  | map
  /-- UNMAP (R330). Service call UNMAP clears entries, writes back stash sectors and invalidates. -/
  | unmap
  /-- PROT (R330). Service call PROT changes page permissions and invalidates. -/
  | prot
  /-- QUERY (R330). Service call QUERY returns the translation entry for a VA and its level. -/
  | query
  /-- INVAL (R331). Service call INVAL removes a range from every TLB of the module. -/
  | inval
  /-- SETROOT (R330). Host call SETROOT creates an empty address space with the given number of table pages. -/
  | setroot
  /-- ALIAS (R297). Service call ALIAS maps a stream's alias window into a VF's BAR2. -/
  | aliasWin
  /-- SYNC (R330). Service call SYNC completes once every earlier INVAL of the partition has completed. -/
  | sync
  /-- STABLE (R286). Host call STABLE sets the base and count of a partition's stream table. -/
  | stable
  /-- SDEF (R301). Service call SDEF defines a stream and sets its descriptor's reset values. -/
  | sdef
  /-- SUNDEF (R301). Service call SUNDEF removes a stream with no attached slot or waiting access. -/
  | sundef
  /-- SATTACH (R301). Service call SATTACH attaches a reader slot to a host VF with its toe and gate. -/
  | sattach
  /-- SDETACH (R301). Service call SDETACH detaches a reader slot, faulting its waiting reads. -/
  | sdetach
  /-- SCTLPG (R298). Service call SCTLPG maps a stream's control page into a VF's BAR2. -/
  | sctlpg
  /-- SSTALL (R301). Service call SSTALL sets a stream's stall interval. -/
  | sstall
  /-- SSTAT (R301). Service call SSTAT copies a stream descriptor as it stood at one point of the home's order. -/
  | sstat
  /-- OQUOTA (R342). Host call OQUOTA sets a partition's oasis quota on one switch die. -/
  | oquota
  /-- OQSTAT (R347). Service call OQSTAT returns quota, granules in use and loss state of a switch die. -/
  | oqstat
  /-- OLOST (R347). Service call OLOST lists the lost switch dies of the pod. -/
  | olost
  /-- OPROMOTE (R347). Service call OPROMOTE swaps the primary and mirror of a mirrored allocation. -/
  | opromote
  /-- BIND (R139). Service call BIND checks an image, copies it to the control area and binds or replaces a CFGID, releasing its parked packets. -/
  | bind
  /-- UNBIND (R139). Service call UNBIND unbinds a CFGID at its commit. -/
  | unbind
  /-- BQUERY (R140). Service call BQUERY reads a binding entry's state and counts. -/
  | bquery
  /-- BTIMEO (R140). Host call BTIMEO sets a VF's binding timeout. -/
  | btimeo
  /-- PRELOAD (R158). Service call PRELOAD loads a bound image as an idle KEEP-resident instance without a launch. -/
  | preload
  /-- EVICT (R407). Service call EVICT unloads idle KEEP-resident instances of a VF. -/
  | evict
  /-- PDEF (R147). Host call PDEF defines a partition, creates or obtains its key and reserves its control area. -/
  | pdef
  /-- PTEAR (R147). Host call PTEAR tears down a partition's VFs, aborts its instances and destroys its key. -/
  | ptear
  /-- PRESIZE (R150). Host call PRESIZE pre-empts the occupants, rewrites routes and resources, and resumes them. -/
  | presize
  /-- VFASSIGN (R125). Host call VFASSIGN assigns a VF to a partition, a host port and its ingress ports. -/
  | vfassign
  /-- VFTEAR (R387). Host call VFTEAR closes a VF's ports, stops its instances, drains and drops their tokens and clears its binding table. -/
  | vftear
  /-- PSLICE (R388). Host call PSLICE sets an occupant slot's slice and the partition's maximum run length. -/
  | pslice
  /-- FQSET (R381). Service call FQSET places the partition's fault queue and clears PI and the wait count. -/
  | fqset
  /-- FRESUME (R383). Service call FRESUME unfreezes a frozen node or resumes a BRK run. -/
  | fresume
  /-- FABORT (R383). Service call FABORT aborts an instance and writes its ABORTED completion. -/
  | fabort
  /-- FQUERY (R383). Service call FQUERY reports an instance's frozen nodes. -/
  | fquery
  /-- FMASK (R383). Service call FMASK masks fault codes from the fault queue. -/
  | fmask
  /-- TSYNC (R178). Service call TSYNC samples SCYC and a host port's PTM time in the same cycle. -/
  | tsync
  /-- CNTSEL (R325). Service call CNTSEL assigns an event to a counter slot and starts it from 0. -/
  | cntsel
  /-- CNTRD (R325). Service call CNTRD copies the 16 counter slots to a buffer. -/
  | cntrd
  /-- CNTCLR (R325). Service call CNTCLR clears the selected counter slots. -/
  | cntclr
  /-- MRECORD (R40). Service call MRECORD extends MR5 to MR7 with a bound image's digest and logs it. -/
  | mrecord
  /-- MLOG (R40). Service call MLOG copies measurement log entries to a buffer. -/
  | mlog
  /-- QUOTE (R40). Service call QUOTE writes a report of measurements and nonce signed by the alias key. -/
  | quote
  /-- KWRAP_WRAP (R40). Service call KWRAP with word 1 bit 0 clear encrypts data under a key derived from the partition key. -/
  | kwrapWrap
  /-- KWRAP_UNWRAP (R40). Service call KWRAP with word 1 bit 0 set decrypts and verifies wrapped data. -/
  | kwrapUnwrap
  /-- BIASGET (R129). Service call BIASGET reads the bias of a run of pages. -/
  | biasget
  /-- BIASDEV (R129). Service call BIASDEV starts flipping pages to device bias. -/
  | biasdev
  /-- BIASHOST (R129). Service call BIASHOST starts flipping pages to host bias. -/
  | biashost
  /-- UNASSIGNED_CALL (R145). A service call numbered 0x30 to 0xFF returns SVC_NOCALL. -/
  | unassignedCall
  /-- BIAS_FLIP_DONE (R128). When all back-invalidate responses or write-backs of a page have arrived its bias is set and held accesses proceed. -/
  | biasFlipDone
  /-- PACKET_ACCEPTANCE (R135). An ingress port checks its next complete packet for BADPKT and SEQ and accepts it, acquiring at .sys. -/
  | packetAcceptance
  /-- BINDING_TIMEOUT (R138). A packet parked for the binding timeout receives its completion with UNBOUND. -/
  | bindingTimeout
  /-- CHILD_ACCEPTANCE (R142). A child packet is taken from a VF's child queue and accepted as an acquire at .mod. -/
  | childAcceptance
  /-- PLACEMENT (R155). The head of a partition's placement queue is placed in a KEEP-resident instance, a free slot or an evicted slot. -/
  | placement
  /-- INSTANCE_START (R157). Once its last tile has left gating and every code store is written, an instance's ENTRY record enters the injection queue. -/
  | instanceStart
  /-- FIRING_SELECT (R163). A tile's arbiter selects the first eligible actor in rotating order and starts its firing. -/
  | firingSelect
  /-- GENERATOR_FIRING (R82). A generator slot fires, putting one Philox random token on its output for 4 cycles. -/
  | generatorFiring
  /-- TOKEN_ARRIVAL (R162). A forward token reaches its consumer's input FIFO and counts towards eligibility from the next selection. -/
  | tokenArrival
  /-- REQUEST_ARRIVAL (R161). A request token reaches its producer and adds one to outstanding demand. -/
  | requestArrival
  /-- CONTROL_TOKEN_ARRIVAL (R168). A control token on line k reaches a tile and adds to the pending count of the chain started by that input. -/
  | controlTokenArrival
  /-- LINE_COUNT_ARRIVAL (R207). A control token reaches the region controller's line count, which serves waiting CTWAITs in arrival order. -/
  | lineCountArrival
  /-- CHAIN_START (R168). An IDLE chain with a non-zero pending count becomes RUNNING with indices 0. -/
  | chainStart
  /-- KV_REQUEST_EXAMINE (R348). An M-tile examines a key/value request against LIMIT and delivers it, forwards it, or both. -/
  | kvRequestExamine
  /-- PATTERN_BASE_TAKE (R311). A pattern holding no base takes its base token(s) and adds a pending start to its chain. -/
  | patternBaseTake
  /-- PATTERN_LOAD_STEP (R313). A load pattern issues the reads of one step against demand on its data port. -/
  | patternLoadStep
  /-- PATTERN_READ_RETURN (R313). Completed reads are converted and put as tokens in step order with burst marks. -/
  | patternReadReturn
  /-- PATTERN_STORE_STEP (R314). A store pattern takes a token, converts it and stores one step's elements. -/
  | patternStoreStep
  /-- PATTERN_RUN_END (R311). When every access of a completed run is performed the pattern drops its base and the chain sends DONE. -/
  | patternRunEnd
  /-- COMMAND_ARRIVAL (R322). An engine command reaches its A-tile and is accepted in acceptance order. -/
  | commandArrival
  /-- COMMAND_COMPLETION (R322). An engine command leaves CPC or PNC once every write, RMW, delivery and follow-on it made is performed. -/
  | commandCompletion
  /-- FILL_RESERVATION (R250). An engine fill reservation reaches a C-tile and moves the slot to FILLE or waits. -/
  | fillReservation
  /-- FILL_ROW (R250). A fill's body token is written as the next panel row; row 63 makes the slot READY. -/
  | fillRow
  /-- MATRIX_OP_START (R253). The next operation at a matrix issue point starts once the previous has finished and slot checks pass. -/
  | matrixOpStart
  /-- MATRIX_OP_FINISH (R253). A matrix operation finishes and a firing word stalled on it proceeds. -/
  | matrixOpFinish
  /-- ACCESS_AT_HOME (R355). A read or write reaches its home and takes its place in the home order. -/
  | accessAtHome
  /-- RMW_AT_HOME (R371). A read-modify-write enters its home pipeline in arrival order and executes there. -/
  | rmwAtHome
  /-- STASH_RECALL (R271). The home recalls a stash copy, writing back a dirty one and invalidating it. -/
  | stashRecall
  /-- LOAD_COMPLETE (R180). A counted load's value arrives and is written to its register, and LDC falls. -/
  | loadComplete
  /-- STORE_PERFORMED (R189). A store is performed in L1 or at its home and STC falls. -/
  | storePerformed
  /-- DEFERRED_FAULT_ARRIVAL (R190). A deferred fault reaches the core and traps the run at its next issue or run-ending wait. -/
  | deferredFaultArrival
  /-- STREAM_READ_AT_HOME (R290). A device stream read is examined at the home and completes, faults or enters the wait list. -/
  | streamReadAtHome
  /-- STREAM_STORE_AT_HOME (R291). A stream store is examined at the home and is performed, faults or waits. -/
  | streamStoreAtHome
  /-- STREAM_OP_AT_HOME (R292). A stream commit, release, rewind, gate, attach or detach is applied at the home and waiting accesses are re-examined. -/
  | streamOpAtHome
  /-- STREAM_STALL_TIMEOUT (R300). After 2^STALLE cycles with waiting accesses and no movement, every waiting access faults with STREAM_STALL. -/
  | streamStallTimeout
  /-- CARAVAN_OP_AT_HOME (R50). A caravan operation is ordered and applied at the caravan's home. -/
  | caravanOpAtHome
  /-- WAITA_AT_HOME (R372). A WAITA request compares the word with its expected value and parks or releases its record in one home step. -/
  | waitaAtHome
  /-- RUN_START (R173). An idle core pops, takes from the injection queue or steals a record and starts its run. -/
  | runStart
  /-- RUN_END (R199). Once LDC and STC reach zero the ending word's record is pushed or parked and the core takes its next record. -/
  | runEnd
  /-- FAULT_POST (R381). The region controller writes a fault record to the fault queue and advances PI with a release. -/
  | faultPost
  /-- FAULT_QUEUE_RETRY (R381). A write to CI wakes the region controller's monitor and waiting posts are retried in order. -/
  | faultQueueRetry
  /-- GRANT_ROUND (R340). A receiver grants one unit per demanding partition in rotation, choosing the class by the weighted schedule. -/
  | grantRound
  /-- RIM_PORT_SEND (R338). A granted peer token is taken from ni7 and sent with its route tag. -/
  | rimPortSend
  /-- SLICE_END (R389). An occupant's slice ends by cycles, bit-products or cap, and the region controller chooses the next occupant with work. -/
  | sliceEnd
  /-- MAX_RUN_LENGTH (R396). At a front, a run reaching MRL stops issuing and is saved precisely. -/
  | maxRunLength
  /-- FRONT_ARRIVAL (R390). The front arrives on a tile input behind every earlier token. -/
  | frontArrival
  /-- TILE_ACT (R390). A tile with the front on every non-FB input and no firing or matrix operation running saves its state, emits the front and loads the next occupant. -/
  | tileAct
  /-- SWEEP_COMPLETE (R397). The sweep completes once every tile has acted and all earlier control tokens have been carried. -/
  | sweepComplete
  /-- MOVE_APPLIED (R153). When every copy and forwarded write is applied the entry becomes MOVED and a shootdown is issued. -/
  | moveApplied
  /-- SHOOTDOWN_COMPLETE (R153). Completion of the shootdown retires the forwarding entry and frees the source frame. -/
  | shootdownComplete
  /-- INVALIDATION_COMPLETE (R331). An invalidation completes once every access translated through the removed entries is performed or faulted. -/
  | invalidationComplete
  /-- INSTANCE_COMPLETE (R403). When all completion conditions hold the region controller writes back stash, frees caravans, clears line counts and writes the OK completion. -/
  | instanceComplete
  /-- NOP (R208). Does nothing. -/
  | nop
  /-- BRK (R210). Stops the run with its state saved and posts a record to the fault queue. -/
  | brk
  /-- KEEP (R213). Sets the instance's keep mark. -/
  | keep
  /-- END (R198). Ends the run. -/
  | endRun
  /-- RCINV (R283). Invalidates all the partition's read-only fabric cache lines. -/
  | rcinv
  /-- S_NOP (R218). Scalar slot with no effect. -/
  | sNop
  /-- FIN (R222). Ends the firing after this word. -/
  | fin
  /-- VNOP (R106). Vector slot with no effect. -/
  | vnop
  /-- DRAIN_TIMEOUT (R387). When a VFTEAR's drain timeout runs out, the rim drops every remaining token of the stopped instances, revokes their reservations and grants, writes their ABORTED completions, detaches host slots and clears the binding table. -/
  | drainTimeout
  /-- CACHE_INSTRUCTION_COMPLETION (R281). A RETAIN, UNPIN, CFLUSH or RCINV completes once every die has put the register in force, cleared its marks, accepted every write-back or invalidated its fabric cache lines, and leaves CPC. -/
  | cacheInstructionCompletion
  deriving DecidableEq, Repr, Inhabited

end Sys2Proof
end

