-- ==== Sys2Proof/Config.lean ====
section
/-!
DEFINITION. What an implementation or the outside fixes and the spec leaves open: constants with
no body, so that nothing can be proved about their values (DESIGN CHOICE, log entries 2 to 5).
-/
namespace Sys2Proof

/-- What the schedule gives a turn to: a control core, the firing of one tile of a loaded
configuration, or one of the machine's own steps with the numbers of the units it concerns; or an
uncorrectable error that strikes 128 bytes of memory, or of a tile's SRAM (R269); or bytes of another module's
memory that its own agents store. -/
inductive TurnWhat where
  | core (n : Nat)
  | tile (inst pos : Nat)
  | event (i : Instr) (args : List Nat)
  | softError (tile : Option (Nat × Nat)) (a : Nat)
  | outside (ga : Nat) (bytes : List Byte)
  deriving DecidableEq, Repr, Inhabited

/-- One turn of the schedule: how many cycles pass first, and who moves. -/
structure Turn where
  dt   : Nat
  what : TurnWhat
  deriving DecidableEq, Repr, Inhabited

/-- One boot image as the boot pair finds it (R25): its digest and the verdicts of its two
signatures. -/
structure BootImage where
  digest  : Nat
  ecdsaOk : Bool
  lmsOk   : Bool
  deriving DecidableEq, Repr, Inhabited

/-- One firmware slot of the boot flash (R26 to R29): the images of stages 1 to 4, the manifest's
security version and its COMMIT flag, and the owner public key pair that the manifest names. -/
structure FwSlot where
  images : List BootImage
  svn    : Nat
  commit : Bool
  owner  : Nat := 0
  deriving DecidableEq, Repr, Inhabited

/-- The settings block (R29): the verdicts of its two signatures, the owner key pair that made them, and its
contents. -/
structure Settings where
  image    : BootImage
  modnum   : Nat
  capw     : Nat
  pod      : List Nat
  accepted : List (List Nat)
  signer   : Nat := 0
  owners   : List Nat := []
  deriving DecidableEq, Repr, Inhabited

/-- The boot flash, the module's only persistent state (R28). -/
structure Flash where
  slotA    : FwSlot
  slotB    : FwSlot
  settings : Settings
  msvn     : Nat
  deriving DecidableEq, Repr, Inhabited

/-- The next turn where the state lists none: any order of the agents that the spec allows. -/
opaque Config.freeTurn : Nat → Turn
/-- A value the spec leaves open, one for each number drawn. -/
opaque Config.freeNat : Nat → Nat
/-- The boot flash as the module was built and provisioned. -/
opaque Config.flash : Flash
/-- The silicon stepping (R22). -/
opaque Config.stepping : Nat
/-- The n-th 256-bit draw of the CTR_DRBG (R35). -/
opaque Config.drbg : Nat → Nat
/-- HKDF-SHA-384 of a key with an info string (R34, R38, R40, R318). -/
opaque Config.hkdf : Nat → List Byte → Nat
/-- The private alias key of an identity secret and MR0 to MR4 (R34). -/
opaque Config.aliasKey : List Nat → Nat
/-- The certificate chain of slot 0 that ends in that alias key (R34). -/
opaque Config.certChain : List Nat → List Byte
/-- The 96-byte ECDSA P-384 signature of a message (R34, R40). -/
opaque Config.ecdsaSign : Nat → List Byte → List Byte
/-- The shared secret of an ECDH P-384 exchange with a peer's share (R33, R38). -/
opaque Config.ecdh : Nat → List Byte → Nat
/-- The exchange share the device sends (R33, R38). -/
opaque Config.ecdhShare : Nat → List Byte
/-- The FINISH verification value of a session secret (R33). -/
opaque Config.finishMac : Nat → List Byte
/-- The second half of the AES-256-XTS key of a partition key (R36). -/
opaque Config.xtsKey2 : Nat → Nat
/-- Whether an exchange share verifies under the alias key of the module that sends it (R38). -/
opaque Config.shareSigned : Nat → List Byte → Bool
/-- The exchange share of another module's service unit (R37). -/
opaque Config.peerShare : Nat → List Byte
/-- Whether the alias key of another module's service unit verifies in an SPDM session (R37). -/
opaque Config.peerAlias : Nat → Bool
/-- Whether another module has the partition of a number defined under the pod key (R37, R337). -/
opaque Config.podPart : Nat → Nat → Bool
/-- Whether a partition owns a 4 KiB frame, by its global address over 4096, on another module (R330). -/
opaque Config.remoteOwned : Nat → Nat → Bool
/-- Which allocation of another module holds an oasis granule of it, by the granule's global address (R288, R342). -/
opaque Config.remoteAlloc : Nat → Nat
/-- The module that holds the mirror of another module's oasis granule, if one does (R343, R344). -/
opaque Config.remoteMirror : Nat → Option Nat
/-- The bytes that a control area of a number of slices has for bound images (R140, R267). -/
opaque Config.imageRoom : Nat → Nat
/-- Which of the 16 A-tile memory ports of an HBM stack serves a line (R11). -/
opaque Config.stackPort : Nat → Nat
/-- Whether PTM is enabled on a host port at an SCYC value (R178). -/
opaque Config.ptmOn : Nat → Nat → Bool
/-- The PTM local time of a host port at an SCYC value, in nanoseconds (R178). -/
opaque Config.ptmTime : Nat → Nat → Nat

end Sys2Proof
end

