-- ==== Sys2Proof/Machine/Bits.lean ====
section
/-!
DEFINITION. Bit fields, sign extension and byte order (R1, R2, R7), and the small keyed tables the
state is made of.
-/
namespace Sys2Proof.Machine

/-- The field [hi:lo] of a number (R1). -/
def fld (w hi lo : Nat) : Nat := w / 2 ^ lo % 2 ^ (hi + 1 - lo)

/-- Bit n of a number (R1). -/
def bit (w n : Nat) : Bool := w / 2 ^ n % 2 = 1

/-- The low n bits of v read as two's complement (SignExt of R7). -/
def sx (n v : Nat) : Int :=
  if v % 2 ^ n < 2 ^ (n - 1) then (v % 2 ^ n : Nat) else ((v % 2 ^ n : Nat) : Int) - (2 ^ n : Nat)

/-- SignExt of the low n bits of v to a 64-bit word (R7). -/
def sext (n v : Nat) : Word := BitVec.ofInt 64 (sx n v)

/-- The n bytes of v, lowest first (R2). -/
def toBytes : Nat → Nat → List Byte
  | 0, _ => []
  | n + 1, v => BitVec.ofNat 8 v :: toBytes n (v / 256)

/-- The number whose bytes, lowest first, are given (R2). -/
def ofBytes : List Byte → Nat
  | [] => 0
  | b :: bs => b.toNat + 256 * ofBytes bs

/-- The number whose 64-bit words, lowest first, are given (R2). -/
def ofWords : List Word → Nat
  | [] => 0
  | w :: ws => w.toNat + 2 ^ 64 * ofWords ws

/-- A Bool as a number. -/
def b2n (b : Bool) : Nat := if b then 1 else 0

/-- Round up to a multiple of m. -/
def alignUp (v m : Nat) : Nat := (v + m - 1) / m * m

/-- The quotient rounded up. -/
def cdiv (a b : Nat) : Nat := (a + b - 1) / b

/-! Keyed tables: lists of (key, value) pairs with one entry for each key. -/

/-- A table keyed by a number. -/
abbrev Tab (α : Type) := List (Nat × α)

/-- The entry of a key. -/
def getT {α : Type} : Tab α → Nat → Option α
  | [], _ => none
  | (k, v) :: t, n => if k = n then some v else getT t n

/-- Sets the entry of a key, in place or at the end. -/
def putT {α : Type} : Tab α → Nat → α → Tab α
  | [], n, x => [(n, x)]
  | (k, v) :: t, n, x => if k = n then (k, x) :: t else (k, v) :: putT t n x

/-- Removes the entry of a key. -/
def delT {α : Type} : Tab α → Nat → Tab α
  | [], _ => []
  | (k, v) :: t, n => if k = n then delT t n else (k, v) :: delT t n

/-- The entry of a key, or a default. -/
def getTD {α : Type} (t : Tab α) (n : Nat) (d : α) : α := (getT t n).getD d

/-- Applies f to every entry. -/
def mapT {α : Type} (f : Nat → α → α) : Tab α → Tab α
  | [] => []
  | (k, v) :: t => (k, f k v) :: mapT f t

/-- Replaces the first element that satisfies p. -/
def updFirst {α : Type} (p : α → Bool) (f : α → α) : List α → List α
  | [] => []
  | a :: l => if p a then f a :: l else a :: updFirst p f l

/-- Removes the first element that satisfies p. -/
def delFirst {α : Type} (p : α → Bool) : List α → List α
  | [] => []
  | a :: l => if p a then l else a :: delFirst p l

end Sys2Proof.Machine
end

