-- ==== Sys2Proof/Machine/Numbers.lean ====
section
/-!
DEFINITION. Fabric-word arithmetic (R54 to R59) and the lane operations that round (R229 to R231,
R349).
-/
namespace Sys2Proof.Machine

/-- The value a fabric word stands for (R54, R55): a finite value is ± mag × 2^exp. -/
inductive FVal where
  | zero (neg : Bool)
  | fin (neg : Bool) (mag : Nat) (exp : Int)
  | inf (neg : Bool)
  | nan (neg : Bool) (s : Nat)
  deriving DecidableEq, Repr

/-- Assembles a fabric word from its fields (R54). -/
def packFW (neg : Bool) (cls : Nat) (e : Int) (s : Nat) : FW :=
  BitVec.ofNat 48 (b2n neg * 2 ^ 47 + cls * 2 ^ 45 + (e % 8192).toNat * 2 ^ 32 + s % 2 ^ 32)

/-- Reads a fabric word by value (R55). -/
def fwVal (x : FW) : FVal :=
  let w := x.toNat
  let neg := bit w 47
  match fld w 46 45 with
  | 0 => .zero neg
  | 1 => if fld w 31 0 = 0 then .zero neg else .fin neg (fld w 31 0) (sx 13 (fld w 44 32) - 31)
  | 2 => .inf neg
  | _ => .nan neg (fld w 31 0)

/-- The canonical generated NaN (R56). -/
def nanFW : FW := 0x6000C0000000#48
/-- A canonical zero of a sign (R56). -/
def zeroFW (neg : Bool) : FW := packFW neg 0 0 0
/-- A canonical infinity of a sign (R56). -/
def infFW (neg : Bool) : FW := packFW neg 2 0 0
/-- A NaN operand as a result: SIGN and S kept, S[31:30] forced to 11 (R57). -/
def quietFW (neg : Bool) (s : Nat) : FW := packFW neg 3 0 (s % 2 ^ 30 + 3 * 2 ^ 30)

/-- RoundInt of R58: the magnitude mag / 2^k, plus a part below every bit of mag when `low` is
set, rounded to an integer. -/
def roundShift (m : Rnd) (neg : Bool) (mag k : Nat) (low : Bool) : Nat :=
  let q := mag / 2 ^ k
  let r := mag % 2 ^ k
  let up := match m with
    | .rne => decide (k > 0) && (decide (2 * r > 2 ^ k) || (decide (2 * r = 2 ^ k) && (low || decide (q % 2 = 1))))
    | .rz => false
    | .rd => neg && (decide (r ≠ 0) || low)
    | .ru => !neg && (decide (r ≠ 0) || low)
  if up then q + 1 else q

/-- Overflow(sign, mode) of R58. -/
def overflowFW (m : Rnd) (neg : Bool) : FW :=
  let big := packFW neg 1 4095 (2 ^ 32 - 1)
  match m with
  | .rne => infFW neg
  | .rz => big
  | .rd => if neg then infFW neg else big
  | .ru => if neg then big else infFW neg

/-- Round of R58 of ± mag × 2^exp (with a part below every bit of mag when `low` is set; then mag
has more than 32 bits); mag = 0 gives a zero of the sign. -/
def roundFW (m : Rnd) (neg : Bool) (mag : Nat) (exp : Int) (low : Bool := false) : FW :=
  if mag = 0 then zeroFW neg else
  let l := Nat.log2 mag
  let s := if l ≤ 31 then mag * 2 ^ (31 - l) else roundShift m neg mag (l - 31) low
  let e : Int := (l : Int) + exp
  let (s, e) := if s = 2 ^ 32 then (2 ^ 31, e + 1) else (s, e)
  if e > 4095 then overflowFW m neg
  else if e < -4096 then zeroFW neg
  else packFW neg 1 e s

/-- The canonical word of a value (R56); exact but for an exponent below the range. -/
def canonFW : FVal → FW
  | .zero n => zeroFW n
  | .fin n mag e => roundFW .rne n mag e
  | .inf n => infFW n
  | .nan n s => quietFW n s

/-- A signed integer aligned at an exponent. -/
def signedAt (neg : Bool) (mag : Nat) (exp low : Int) : Int :=
  let v : Int := (mag * 2 ^ (exp - low).toNat : Nat)
  if neg then -v else v

/-- The rounded sum of two dyadic values, zeros included, with the sign of an exact zero sum of
R229. -/
def addDy (m : Rnd) (na : Bool) (ma : Nat) (ea : Int) (nb : Bool) (mb : Nat) (eb : Int) : FW :=
  let lo := min ea eb
  let t := signedAt na ma ea lo + signedAt nb mb eb lo
  if t = 0 then
    (if ma = 0 ∧ mb = 0 ∧ na = nb then zeroFW na else zeroFW (decide (m = .rd)))
  else roundFW m (decide (t < 0)) t.natAbs lo

/-- A zero or finite value as sign, magnitude and exponent. -/
def FVal.dy : FVal → Bool × Nat × Int
  | .zero n => (n, 0, 0)
  | .fin n mag e => (n, mag, e)
  | .inf n => (n, 0, 0)
  | .nan n _ => (n, 0, 0)

/-- The sign of a value. -/
def FVal.neg : FVal → Bool
  | .zero n => n
  | .fin n _ _ => n
  | .inf n => n
  | .nan n _ => n

/-- The negation of a value that is no NaN. -/
def FVal.negate : FVal → FVal
  | .zero n => .zero !n
  | .fin n mag e => .fin (!n) mag e
  | .inf n => .inf !n
  | .nan n s => .nan n s

/-- Adds two values that are no NaN (R57, R229). -/
def addV (m : Rnd) : FVal → FVal → FW
  | .inf a, .inf b => if a = b then infFW a else nanFW
  | .inf a, _ => infFW a
  | _, .inf b => infFW b
  | a, b => addDy m a.dy.1 a.dy.2.1 a.dy.2.2 b.dy.1 b.dy.2.1 b.dy.2.2

/-- The first NaN operand as a result, in operand order (R57). -/
def firstNaN : List FVal → Option FW
  | [] => none
  | .nan n s :: _ => some (quietFW n s)
  | _ :: l => firstNaN l

/-- VADD of one lane (R229). -/
def fwAdd (m : Rnd) (a b : FW) : FW :=
  match firstNaN [fwVal a, fwVal b] with
  | some r => r
  | none => addV m (fwVal a) (fwVal b)

/-- VSUB of one lane (R229). -/
def fwSub (m : Rnd) (a b : FW) : FW :=
  match firstNaN [fwVal a, fwVal b] with
  | some r => r
  | none => addV m (fwVal a) (fwVal b).negate

/-- The exact product of two values that are no NaN; none when it is undefined (R57). -/
def mulV : FVal → FVal → Option FVal
  | .inf _, .zero _ => none
  | .zero _, .inf _ => none
  | .inf a, y => some (.inf (a != y.neg))
  | x, .inf b => some (.inf (x.neg != b))
  | .zero a, y => some (.zero (a != y.neg))
  | x, .zero b => some (.zero (x.neg != b))
  | .fin a ma ea, .fin b mb eb => some (.fin (a != b) (ma * mb) (ea + eb))
  | x, _ => some x

/-- VMUL of one lane (R229). -/
def fwMul (m : Rnd) (a b : FW) : FW :=
  match firstNaN [fwVal a, fwVal b] with
  | some r => r
  | none =>
    match mulV (fwVal a) (fwVal b) with
    | none => nanFW
    | some (.fin n mag e) => roundFW m n mag e
    | some v => canonFW v

/-- VFMA of one lane: one rounding (R229). With `sub` set, VFMS. -/
def fwFma (m : Rnd) (sub : Bool) (a b c : FW) : FW :=
  match firstNaN [fwVal a, fwVal b, fwVal c] with
  | some r => r
  | none =>
    match mulV (fwVal a) (fwVal b) with
    | none => nanFW
    | some p => addV m p (if sub then (fwVal c).negate else fwVal c)

/-- Compares two values that are no NaN by value: +0 equals −0 (R234). -/
def cmpV : FVal → FVal → Ordering
  | .inf a, .inf b => if a = b then .eq else if a then .lt else .gt
  | .inf a, _ => if a then .lt else .gt
  | _, .inf b => if b then .gt else .lt
  | a, b =>
    let lo := min a.dy.2.2 b.dy.2.2
    let x := signedAt a.dy.1 a.dy.2.1 a.dy.2.2 lo
    let y := signedAt b.dy.1 b.dy.2.1 b.dy.2.2 lo
    if x < y then .lt else if x = y then .eq else .gt

/-- The order of VMAX and VMIN: −0 below +0 (R229). -/
def cmpZ (a b : FVal) : Ordering :=
  match a, b with
  | .zero x, .zero y => if x = y then .eq else if x then .lt else .gt
  | _, _ => cmpV a b

/-- VMAX of one lane (R229). -/
def fwMax (a b : FW) : FW :=
  match firstNaN [fwVal a, fwVal b] with
  | some r => r
  | none => if cmpZ (fwVal a) (fwVal b) = .lt then canonFW (fwVal b) else canonFW (fwVal a)

/-- VMIN of one lane (R229). -/
def fwMin (a b : FW) : FW :=
  match firstNaN [fwVal a, fwVal b] with
  | some r => r
  | none => if cmpZ (fwVal a) (fwVal b) = .gt then canonFW (fwVal b) else canonFW (fwVal a)

/-- A value with its sign replaced; a NaN keeps its own. -/
def FVal.withSign (n : Bool) : FVal → FVal
  | .zero _ => .zero n
  | .fin _ mag e => .fin n mag e
  | .inf _ => .inf n
  | .nan x s => .nan x s

/-- VABS of one lane (R229). -/
def fwAbs (a : FW) : FW := canonFW ((fwVal a).withSign false)
/-- VNEG of one lane (R229). -/
def fwNeg (a : FW) : FW := canonFW (fwVal a).negate
/-- VCPS of one lane: |a| with the SIGN of b (R229). -/
def fwCps (a b : FW) : FW := canonFW ((fwVal a).withSign (bit b.toNat 47))

/-- The fabric word fw(num / den) of R112 for a positive rational, under RNE. -/
def fwOfRat (num den : Nat) : FW :=
  let k : Nat := 80
  roundFW .rne false (num * 2 ^ k / den) (-(k : Int)) (decide (num * 2 ^ k % den ≠ 0))

/-- The coefficients of R230, c6 first. -/
def exp2Coeffs : List FW :=
  [fwOfRat 1540353 10000000000, fwOfRat 13333558 10000000000, fwOfRat 96181291 10000000000,
   fwOfRat 555041087 10000000000, fwOfRat 2402265070 10000000000, fwOfRat 6931471806 10000000000,
   fwOfRat 1 1]

/-- One step of the polynomial of R230: Round(p × f + c, RNE), f exact. -/
def exp2Step (fm : Nat) (fe : Int) (p c : FW) : FW :=
  match mulV (fwVal p) (if fm = 0 then .zero false else .fin false fm fe) with
  | none => nanFW
  | some x => addV .rne x (fwVal c)

/-- Round(p × 2^n, mode) for a finite positive p. -/
def scaleFW (m : Rnd) (p : FW) (n : Int) : FW :=
  match fwVal p with
  | .fin neg mag e => roundFW m neg mag (e + n)
  | v => canonFW v

/-- VEXP2 of one lane (R230). -/
def fwExp2 (m : Rnd) (a : FW) : FW :=
  match fwVal a with
  | .nan n s => quietFW n s
  | .inf true => zeroFW false
  | .inf false => infFW false
  | .zero _ =>
    match exp2Coeffs with
    | [] => nanFW
    | c6 :: cs => scaleFW m (cs.foldl (exp2Step 0 0) c6) 0
  | .fin neg mag e =>
    let v := signedAt neg mag e (min e 0)
    let den : Int := (2 ^ (-(min e 0)).toNat : Nat)
    let n := v / den
    let f := (v % den).toNat
    match exp2Coeffs with
    | [] => nanFW
    | c6 :: cs => scaleFW m (cs.foldl (exp2Step f (min e 0)) c6) n

/-- One bit of a base-2 logarithm by repeated squaring on an interval [lo, hi] / 2^p that encloses
a value in [1, 2): none when the interval does not decide the bit. -/
def log2Bit (p lo hi : Nat) : Option (Bool × Nat × Nat) :=
  let l := lo * lo / 2 ^ p
  let h := cdiv (hi * hi) (2 ^ p)
  if l ≥ 2 * 2 ^ p then some (true, l / 2, (h + 1) / 2)
  else if h < 2 * 2 ^ p then some (false, l, h)
  else none

/-- The first n fraction bits of a base-2 logarithm; none when precision p does not decide one. -/
def log2Bits (p : Nat) : Nat → Nat → Nat → Nat → Option Nat
  | 0, _, _, acc => some acc
  | n + 1, lo, hi, acc =>
    match log2Bit p lo hi with
    | none => none
    | some (b, l, h) => log2Bits p n l h (2 * acc + b2n b)

/-- The first n fraction bits of the logarithm of mag, whose whole part is l: those of the 2^n-th power's whole part. -/
def log2Exact (n mag l : Nat) : Nat := Nat.log2 (mag ^ 2 ^ n) - l * 2 ^ n

/-- VLOG2 of one lane, correctly rounded (R231). The fraction bits are enclosed by intervals; a
logarithm that is not exact lies strictly between two neighbours of the 200-bit grid, which is all
that Round needs. Where 512 bits of working precision decide no bit, the same 200 fraction bits come
from the whole power of the operand, which no known operand needs. -/
def fwLog2 (m : Rnd) (a : FW) : FW :=
  match fwVal a with
  | .nan n s => quietFW n s
  | .zero _ => infFW true
  | .inf false => infFW false
  | .inf true => nanFW
  | .fin true _ _ => nanFW
  | .fin false mag e =>
    let l := Nat.log2 mag
    let ip : Int := (l : Int) + e
    if mag = 2 ^ l then
      (if ip = 0 then zeroFW false else roundFW m (decide (ip < 0)) ip.natAbs 0)
    else
      let f := match log2Bits 512 200 (mag * 2 ^ (512 - l)) (mag * 2 ^ (512 - l)) 0 with
        | some f => f
        | none => log2Exact 200 mag l
      let t : Int := ip * (2 ^ 200 : Nat) + f
      if t ≥ 0 then roundFW m false t.natAbs (-200) true
      else roundFW m true (t.natAbs - 1) (-200) true

/-- VRCP of one lane, correctly rounded (R231). -/
def fwRcp (m : Rnd) (a : FW) : FW :=
  match fwVal a with
  | .nan n s => quietFW n s
  | .zero n => infFW n
  | .inf n => zeroFW n
  | .fin n mag e =>
    let k : Nat := 128
    roundFW m n (2 ^ k / mag) (-e - (k : Int)) (decide (2 ^ k % mag ≠ 0))

/-- The integer square root, one bit at a time from bit b − 1 down. -/
def isqrtBits (n : Nat) : Nat → Nat → Nat
  | 0, r => r
  | b + 1, r => if (r + 2 ^ b) * (r + 2 ^ b) ≤ n then isqrtBits n b (r + 2 ^ b) else isqrtBits n b r

/-- The integer square root. -/
def isqrt (n : Nat) : Nat := isqrtBits n (Nat.log2 n / 2 + 1) 0

/-- VRSQ of one lane, correctly rounded (R231). -/
def fwRsq (m : Rnd) (a : FW) : FW :=
  match fwVal a with
  | .nan n s => quietFW n s
  | .zero n => infFW n
  | .inf false => zeroFW false
  | .inf true => nanFW
  | .fin true _ _ => nanFW
  | .fin false mag e =>
    let (g, h) := if e % 2 = 0 then (mag, e / 2) else (2 * mag, (e - 1) / 2)
    let k : Nat := 128
    let q := isqrt (2 ^ (2 * k) / g)
    roundFW m false q (-(k : Int) - h) (decide (q * q * g ≠ 2 ^ (2 * k)))

/-- VFTOI of one lane (R232). -/
def fwToInt (m : Rnd) (a : FW) : FW :=
  let sat (v : Int) : FW := BitVec.ofInt 48 (max (-(2 ^ 47 : Nat)) (min ((2 ^ 47 : Nat) - 1) v))
  match fwVal a with
  | .nan _ _ => 0
  | .zero _ => 0
  | .inf n => if n then BitVec.ofInt 48 (-(2 ^ 47 : Nat)) else BitVec.ofInt 48 ((2 ^ 47 : Nat) - 1)
  | .fin n mag e =>
    let r := if e ≥ 0 then (if e > 64 then 2 ^ 64 else mag * 2 ^ e.toNat) else roundShift m n mag (-e).toNat false
    sat (if n then -(r : Int) else r)

/-- VITOF of one lane (R232). -/
def intToFW (m : Rnd) (a : FW) : FW := roundFW m (decide (a.toInt < 0)) a.toInt.natAbs 0

/-- A fixed reduction tree over lanes 2i and 2i + 1, level by level (R235). -/
def redLevel (f : FW → FW → FW) : List FW → List FW
  | a :: b :: l => f a b :: redLevel f l
  | l => l

/-- The six levels of VRED (R235). -/
def redTree (f : FW → FW → FW) (l : List FW) : FW :=
  (redLevel f (redLevel f (redLevel f (redLevel f (redLevel f (redLevel f l)))))).headD 0

/-- The operation and the identity of a VRED code (R235). -/
def redOp : Nat → (FW → FW → FW) × FW
  | 0 => (fwAdd .rne, zeroFW true)
  | 1 => (fwMax, infFW true)
  | 2 => (fwMin, infFW false)
  | 3 => (fun a b => a + b, 0)
  | 4 => (fun a b => if a.toInt < b.toInt then b else a, BitVec.ofInt 48 (-(2 ^ 47 : Nat)))
  | _ => (fun a b => if b.toInt < a.toInt then b else a, BitVec.ofInt 48 ((2 ^ 47 : Nat) - 1))

/-- The scale of one partial triple in a merge (R349). -/
def mergeScale (m mx : FW) : FW :=
  if cmpV (fwVal mx) (fwVal m) = .eq then fwOfRat 1 1
  else if fwVal mx = .inf true then zeroFW false
  else fwExp2 .rne (fwSub .rne mx m)

/-- One merged value of R349: Round(x1 × s1 + Round(x2 × s2)). -/
def mergeVal (s1 s2 x1 x2 : FW) : FW := fwFma .rne false x1 s1 (fwMul .rne x2 s2)

/-- VMRG of two partial triples (R349): the new o and the new (m, l) register. -/
def mergeTriple (o1 t1 o2 t2 : Lanes) : Lanes × Lanes :=
  let m1 := t1[0]; let m2 := t2[0]; let l1 := t1[1]; let l2 := t2[1]
  let out (m l : FW) : Lanes :=
    Vector.ofFn fun i => if i.val = 0 then m else if i.val = 1 then l else zeroFW false
  match firstNaN [fwVal m1, fwVal m2] with
  | some n => (Vector.replicate 64 nanFW, out n nanFW)
  | none =>
    let m := fwMax m1 m2
    let s1 := mergeScale m m1
    let s2 := mergeScale m m2
    (Vector.ofFn fun i => mergeVal s1 s2 o1[i] o2[i], out m (mergeVal s1 s2 l1 l2))

end Sys2Proof.Machine
end

