-- ==== Sys2Proof/Machine/Formats.lean ====
section
/-!
DEFINITION. Storage formats and the conversions between them and the fabric word (R60 to R75), and
the IEEE sums of read-modify-writes (R224, R319).
-/
namespace Sys2Proof.Machine

/-- How a float element uses its top exponent field (R60, R61). -/
inductive FloatTop where
  | ieee | e4m3 | finite
  deriving DecidableEq, Repr

/-- The kind of an element (R60). -/
inductive ElemKind where
  | fw64
  | float (eb mb : Nat) (top : FloatTop)
  | mxint8
  | int (signed : Bool)
  | tb4
  deriving DecidableEq, Repr

/-- A storage format (R60): element bits, element kind, and whether it is block-scaled. -/
structure Fmt where
  bits  : Nat
  kind  : ElemKind
  block : Bool
  deriving DecidableEq, Repr

/-- The format of a code; none for a reserved code (R60). -/
def fmtOf : Nat → Option Fmt
  | 0x00 => some ⟨64, .fw64, false⟩
  | 0x01 => some ⟨32, .float 8 23 .ieee, false⟩
  | 0x02 => some ⟨16, .float 5 10 .ieee, false⟩
  | 0x03 => some ⟨16, .float 8 7 .ieee, false⟩
  | 0x04 => some ⟨8, .float 4 3 .e4m3, false⟩
  | 0x05 => some ⟨8, .float 5 2 .ieee, false⟩
  | 0x08 => some ⟨8, .float 4 3 .e4m3, true⟩
  | 0x09 => some ⟨8, .float 5 2 .ieee, true⟩
  | 0x0A => some ⟨6, .float 3 2 .finite, true⟩
  | 0x0B => some ⟨6, .float 2 3 .finite, true⟩
  | 0x0C => some ⟨4, .float 2 1 .finite, true⟩
  | 0x0D => some ⟨8, .mxint8, true⟩
  | 0x10 => some ⟨8, .int true, false⟩
  | 0x11 => some ⟨8, .int false, false⟩
  | 0x12 => some ⟨16, .int true, false⟩
  | 0x13 => some ⟨16, .int false, false⟩
  | 0x14 => some ⟨32, .int true, false⟩
  | 0x15 => some ⟨32, .int false, false⟩
  | 0x16 => some ⟨64, .int true, false⟩
  | 0x17 => some ⟨64, .int false, false⟩
  | 0x18 => some ⟨4, .tb4, true⟩
  | _ => none

/-- Whether a code names an integer format (R66). -/
def isIntFmt (f : Nat) : Bool := decide (0x10 ≤ f) && decide (f ≤ 0x17)

/-- Whether a code names a block-scaled format (R60). -/
def isBlockFmt (f : Nat) : Bool := match fmtOf f with | some k => k.block | none => false

/-- The exponent bias of a float element (R60). -/
def biasOf (eb : Nat) : Int := (2 ^ (eb - 1) : Nat) - 1

/-- The value of a float element (R61, R65). -/
def floatVal (eb mb : Nat) (top : FloatTop) (c : Nat) : FVal :=
  let neg := bit c (eb + mb)
  let e := fld c (eb + mb - 1) mb
  let m := c % 2 ^ mb
  let special := match top with
    | .ieee => decide (e = 2 ^ eb - 1)
    | .e4m3 => decide (e = 2 ^ eb - 1) && decide (m = 2 ^ mb - 1)
    | .finite => false
  if special then
    (if decide (m = 0) && decide (top = .ieee) then .inf neg
     else .nan neg (3 * 2 ^ 30 + m % 2 ^ (mb - 1) * 2 ^ (31 - mb)))
  else if e = 0 then
    (if m = 0 then .zero neg else .fin neg m (1 - biasOf eb - mb))
  else .fin neg (2 ^ mb + m) ((e : Int) - biasOf eb - mb)

/-- The magnitudes, in eighths, of the TB4 types T = 10 and T = 11 (R63). -/
def tb4Grid (t : Nat) : List Nat :=
  if t = 2 then [0, 1, 2, 4, 8, 16, 32, 64] else [0, 8, 16, 24, 32, 48, 64, 96]

/-- The value of a TB4 code before its scale (R63). -/
def tb4Val (t c : Nat) : FVal :=
  match t with
  | 0 => let v := sx 4 c; if v = 0 then .zero false else .fin (decide (v < 0)) v.natAbs 0
  | 1 => floatVal 2 1 .finite c
  | _ =>
    let g := (tb4Grid t).getD (c % 8) 0
    if g = 0 then .zero (bit c 3) else .fin (bit c 3) g (-3)

/-- The value of an element before its scale; T is the TB4 type (R61 to R63). -/
def elemVal (k : Fmt) (t c : Nat) : FVal :=
  match k.kind with
  | .fw64 => fwVal (BitVec.ofNat 48 c)
  | .float eb mb top => floatVal eb mb top c
  | .mxint8 => let v := sx 8 c; if v = 0 then .zero false else .fin (decide (v < 0)) v.natAbs (-6)
  | .int s =>
    let v := if s then sx k.bits c else ((c % 2 ^ k.bits : Nat) : Int)
    if v = 0 then .zero false else .fin (decide (v < 0)) v.natAbs 0
  | .tb4 => tb4Val t c

/-- A scale byte (R62, R63): none marks NaN; otherwise the exponent and the TB4 type. -/
def scaleOf (k : Fmt) (b : Nat) : Option (Int × Nat) :=
  if k.kind = .tb4 then (if b % 64 = 63 then none else some ((b % 64 : Nat) - 32, b / 64 % 4))
  else if b = 255 then none else some ((b : Int) - 127, 0)

/-- Multiplies a value by a power of two. -/
def FVal.scale (e : Int) : FVal → FVal
  | .fin n m x => .fin n m (x + e)
  | v => v

/-- Load conversion of one element; `scale` is its block's scale byte (R64, R65). -/
def loadElem (k : Fmt) (scale c : Nat) : FW :=
  if k.block then
    match scaleOf k scale with
    | none => nanFW
    | some (e, t) => canonFW ((elemVal k t c).scale e)
  else canonFW (elemVal k 0 c)

/-- The raw integer view of one element (R66). -/
def loadRaw (k : Fmt) (c : Nat) : FW :=
  match k.kind with
  | .int true => BitVec.ofInt 48 (sx k.bits c)
  | _ => BitVec.ofNat 48 (c % 2 ^ k.bits)

/-- The raw integer view stored (R66): the lane's low bits, or its 48 bits extended to 64. -/
def storeRaw (k : Fmt) (x : FW) : Nat :=
  match k.kind with
  | .int true => ((x.toInt % (2 ^ k.bits : Nat))).toNat
  | _ => x.toNat % 2 ^ k.bits

/-- Rounding of a store: a mode of R58, or stochastic with its 32-bit random word (R72). -/
inductive SMode where
  | det (m : Rnd)
  | sr (r : Nat)
  deriving DecidableEq, Repr

/-- The mode whose Overflow rule applies (R72: after SR as under RZ). -/
def SMode.ovf : SMode → Rnd
  | .det m => m
  | .sr _ => .rz

/-- The grid magnitude of mag × 2^exp in units of 2^u (R67, R72). -/
def gridRound (m : SMode) (neg : Bool) (mag : Nat) (exp u : Int) : Nat :=
  if u ≤ exp then mag * 2 ^ (exp - u).toNat
  else
    let k := (u - exp).toNat
    match m with
    | .det r => roundShift r neg mag k false
    | .sr r => if r < mag % 2 ^ k * 2 ^ 32 / 2 ^ k then mag / 2 ^ k + 1 else mag / 2 ^ k

/-- The nearest members of an ascending grid around v, both in units of 2^−3 × 2^s scaled by
2^sh: index of the member at or below, and the result index after rounding (R67). The grid is
continued by 128 (16 in value), which the caller saturates. -/
def gridPick (m : SMode) (neg : Bool) (grid : List Nat) (v sh : Nat) : Nat :=
  let g := grid ++ [128]
  let i := (g.filter (fun x => decide (x * 2 ^ sh ≤ v))).length - 1
  let lo := g.getD i 0 * 2 ^ sh
  if i + 1 ≥ g.length then i
  else
    let hi := g.getD (i + 1) 0 * 2 ^ sh
    let inexact := decide (v ≠ lo)
    let up := match m with
      | .det .rne => decide (2 * v > lo + hi) || (decide (2 * v = lo + hi) && decide (i % 2 = 1))
      | .det .rz => false
      | .det .rd => neg && inexact
      | .det .ru => !neg && inexact
      | .sr r => decide (r < (v - lo) * 2 ^ 32 / (hi - lo))
    if up then i + 1 else i

/-- A stored element: its code, whether it saturated (event 0x01), and whether a NaN was written
as 0 (event 0x02). -/
structure Stored where
  code : Nat
  sat  : Bool
  nan0 : Bool
  deriving DecidableEq, Repr

/-- Stores a finite float element (R67, R68). `block` selects the block-scaled row of E5M2. -/
def storeFloatFin (eb mb : Nat) (top : FloatTop) (block : Bool) (m : SMode) (neg : Bool) (mag : Nat)
    (exp : Int) : Stored :=
  let emin : Int := 1 - biasOf eb
  let e : Int := max ((Nat.log2 mag : Int) + exp) emin
  let c := ((e - emin).toNat) * 2 ^ mb + gridRound m neg mag exp (e - mb)
  let sgn := b2n neg * 2 ^ (eb + mb)
  let infc := (2 ^ eb - 1) * 2 ^ mb
  let maxf := match top with
    | .ieee => infc - 1
    | .e4m3 => 2 ^ (eb + mb) - 2
    | .finite => 2 ^ (eb + mb) - 1
  if c ≤ maxf then ⟨sgn + c, false, false⟩
  else if decide (top = .ieee) && !block then
    let toInf := match m.ovf with
      | .rne => true
      | .rz => false
      | .rd => neg
      | .ru => !neg
    if toInf then ⟨sgn + infc, false, false⟩ else ⟨sgn + maxf, true, false⟩
  else ⟨sgn + maxf, true, false⟩

/-- Stores an integer element on the grid of 2^u with limits lo and hi (R67, R68). -/
def storeIntFin (bits : Nat) (lo hi : Int) (u : Int) (m : SMode) (neg : Bool) (mag : Nat) (exp : Int) :
    Stored :=
  let g := gridRound m neg mag exp u
  let v : Int := if neg then -(g : Int) else g
  let enc (x : Int) : Nat := (x % (2 ^ bits : Nat)).toNat
  if v < lo then ⟨enc lo, true, false⟩ else if v > hi then ⟨enc hi, true, false⟩ else ⟨enc v, false, false⟩

/-- Stores a TB4 element of type T before its scale (R67, R68). -/
def storeTb4Fin (t : Nat) (m : SMode) (neg : Bool) (mag : Nat) (exp : Int) : Stored :=
  match t with
  | 0 => storeIntFin 4 (-8) 7 0 m neg mag exp
  | 1 => storeFloatFin 2 1 .finite true m neg mag exp
  | _ =>
    let lo := min (exp + 3) 0
    let i := gridPick m neg (tb4Grid t) (mag * 2 ^ (exp + 3 - lo).toNat) (-lo).toNat
    let s := b2n neg * 8
    if i > 7 then ⟨s + 7, true, false⟩ else ⟨s + i, false, false⟩

/-- The limits of an integer format. -/
def intLimits (signed : Bool) (bits : Nat) : Int × Int :=
  if signed then (-(2 ^ (bits - 1) : Nat), (2 ^ (bits - 1) : Nat) - 1) else (0, (2 ^ bits : Nat) - 1)

/-- The largest code of a sign, stored for an infinity that the format has not (R68). -/
def storeBig (k : Fmt) (t : Nat) (neg : Bool) : Stored :=
  match k.kind with
  | .fw64 => ⟨(infFW neg).toNat, false, false⟩
  | .float eb mb .ieee => ⟨b2n neg * 2 ^ (eb + mb) + (2 ^ eb - 1) * 2 ^ mb, false, false⟩
  | .float eb mb .e4m3 => ⟨b2n neg * 2 ^ (eb + mb) + (2 ^ (eb + mb) - 2), true, false⟩
  | .float eb mb .finite => ⟨b2n neg * 2 ^ (eb + mb) + (2 ^ (eb + mb) - 1), true, false⟩
  | .mxint8 => ⟨if neg then 0x80 else 0x7F, true, false⟩
  | .int s =>
    let (lo, hi) := intLimits s k.bits
    ⟨((if neg then lo else hi) % (2 ^ k.bits : Nat)).toNat, true, false⟩
  | .tb4 => ⟨if t = 0 then (if neg then 8 else 7) else b2n neg * 8 + 7, true, false⟩

/-- A NaN stored in an element that is not block-scaled (R68). -/
def storeNaN (k : Fmt) (neg : Bool) (s : Nat) : Stored :=
  match k.kind with
  | .fw64 => ⟨(packFW neg 3 0 s).toNat, false, false⟩
  | .float eb mb .ieee =>
    ⟨b2n neg * 2 ^ (eb + mb) + (2 ^ eb - 1) * 2 ^ mb + 2 ^ (mb - 1) + s % 2 ^ 30 / 2 ^ (31 - mb), false, false⟩
  | .float eb mb _ => ⟨b2n neg * 2 ^ (eb + mb) + (2 ^ (eb + mb) - 1), false, false⟩
  | .int _ => ⟨0, false, true⟩
  | _ => ⟨0, false, false⟩

/-- Stores a value that is no NaN and already divided by its scale (R67, R68). -/
def storeVal (k : Fmt) (t : Nat) (m : SMode) (v : FVal) : Stored :=
  match v with
  | .zero neg =>
    (match k.kind with
     | .fw64 => ⟨(zeroFW neg).toNat, false, false⟩
     | .float eb mb _ => ⟨b2n neg * 2 ^ (eb + mb), false, false⟩
     | .mxint8 => ⟨0, false, false⟩
     | .int _ => ⟨0, false, false⟩
     | .tb4 => ⟨if t = 0 then 0 else b2n neg * 8, false, false⟩)
  | .fin neg mag exp =>
    (match k.kind with
     | .fw64 => ⟨(canonFW v).toNat, false, false⟩
     | .float eb mb top => storeFloatFin eb mb top k.block m neg mag exp
     | .mxint8 => storeIntFin 8 (-128) 127 (-6) m neg mag exp
     | .int s => storeIntFin k.bits (intLimits s k.bits).1 (intLimits s k.bits).2 0 m neg mag exp
     | .tb4 => storeTb4Fin t m neg mag exp)
  | .inf neg => storeBig k t neg
  | .nan neg s => storeNaN k neg s

/-- Store conversion of one element of a format that is not block-scaled (R67, R68). FW64 keeps
the 48 bits as they are. -/
def storeElem (k : Fmt) (m : SMode) (x : FW) : Stored :=
  if k.kind = .fw64 then ⟨x.toNat, false, false⟩ else storeVal k 0 m (fwVal x)

/-- emax of an element (R69). -/
def emaxOf (k : Fmt) (t : Nat) : Int :=
  match k.kind with
  | .float 4 3 _ => 8
  | .float 5 2 _ => 15
  | .float 3 2 _ => 4
  | .mxint8 => 0
  | .tb4 => if t < 2 then 2 else 3
  | _ => 2

/-- floor(log2 |v|) of a finite non-zero value. -/
def log2V : FVal → Option Int
  | .fin _ mag e => some ((Nat.log2 mag : Int) + e)
  | _ => none

/-- The greatest of a list of optional exponents. -/
def maxOpt : List (Option Int) → Option Int
  | [] => none
  | none :: l => maxOpt l
  | some a :: l => match maxOpt l with | none => some a | some b => some (max a b)

/-- The scale byte of a block (R69). -/
def chooseScale (k : Fmt) (t : Nat) (xs : List FW) : Nat :=
  let vs := xs.map fwVal
  let tb := decide (k.kind = .tb4)
  if (firstNaN vs).isSome then (if tb then t * 64 + 63 else 255)
  else
    match maxOpt (vs.map log2V) with
    | none => if tb then t * 64 + 32 else 127
    | some a =>
      let s := a - emaxOf k t
      if tb then t * 64 + (max (-32) (min 30 s) + 32).toNat else (max (-127) (min 127 s) + 127).toNat

/-- Store conversion of one element of a block under a scale byte (R69, R70). Under a NaN scale, a reused one among
them, every element reads as NaN: each is written as code 0, which is no NaN written as 0 and counts in no event (DESIGN CHOICE,
log entry 47). -/
def storeBlockElem (k : Fmt) (scale : Nat) (m : SMode) (x : FW) : Stored :=
  match scaleOf k scale with
  | none => ⟨0, false, false⟩
  | some (e, t) =>
    match fwVal x with
    | .nan _ _ => ⟨0, false, true⟩
    | v => storeVal k t m (v.scale (-e))

/-- The round trip of VCVT and VSRND through a format code (R232). -/
def roundTrip (f : Nat) (m : SMode) (x : FW) : FW :=
  match fmtOf f with
  | none => x
  | some k =>
    let k' : Fmt := { k with block := false }
    match fwVal x with
    | .nan neg s =>
      if isIntFmt f then zeroFW false
      else if k.block then nanFW
      else loadElem k' 0 (storeNaN k' neg s).code
    | v => loadElem k' 0 (storeVal k' 0 m v).code

/-- An IEEE sum in a float format, RNE, subnormals kept; NaNs and the invalid sum as AFADD has
them (R224, R319). -/
def ieeeAdd (eb mb : Nat) (a b : Nat) : Nat :=
  let k : Fmt := ⟨eb + mb + 1, .float eb mb .ieee, false⟩
  let quiet (c : Nat) : Nat := if bit c (mb - 1) then c else c + 2 ^ (mb - 1)
  let gen := (2 ^ eb - 1) * 2 ^ mb + 2 ^ (mb - 1)
  match floatVal eb mb .ieee a, floatVal eb mb .ieee b with
  | .nan _ _, _ => quiet a
  | _, .nan _ _ => quiet b
  | .inf x, .inf y => if x = y then a else gen
  | .inf _, _ => a
  | _, .inf _ => b
  | va, vb =>
    let lo := min va.dy.2.2 vb.dy.2.2
    let t := signedAt va.dy.1 va.dy.2.1 va.dy.2.2 lo + signedAt vb.dy.1 vb.dy.2.1 vb.dy.2.2 lo
    if t = 0 then (if va.neg && vb.neg then 2 ^ (eb + mb) else 0)
    else (storeVal k 0 (.det .rne) (.fin (decide (t < 0)) t.natAbs lo)).code

/-- A binary32 sum (R224). -/
def f32Add (a b : Nat) : Nat := ieeeAdd 8 23 (a % 2 ^ 32) (b % 2 ^ 32)
/-- A binary16 sum (R319). -/
def f16Add (a b : Nat) : Nat := ieeeAdd 5 10 (a % 2 ^ 16) (b % 2 ^ 16)

end Sys2Proof.Machine
end

