-- ==== Sys2Proof/Machine/Flags.lean ====
section
/-!
DEFINITION. The conditions the spec computes: branch conditions of K-words (R186), the comparisons
that write a general register, a predicate or a lane mask (R181, R219, R234), and the predicate
combinations (R219). The hardware has no flags register: no K-word sets a flag.
-/
namespace Sys2Proof.Machine

/-- Signed less-than of two 64-bit patterns (R181). -/
def ltS (a b : Word) : Bool := a.slt b
/-- Unsigned less-than of two 64-bit patterns (R181). -/
def ltU (a b : Word) : Bool := a.ult b
/-- A condition as a register value (R181). -/
def boolWord (b : Bool) : Word := if b then 1 else 0

/-- VCMP's condition of one pair of lanes (R234). -/
def laneCond (c : Nat) (a b : FW) : Bool :=
  let nan := (firstNaN [fwVal a, fwVal b]).isSome
  match c with
  | 0 => !nan && decide (cmpV (fwVal a) (fwVal b) = .eq)
  | 1 => !nan && decide (cmpV (fwVal a) (fwVal b) = .lt)
  | 2 => !nan && decide (cmpV (fwVal a) (fwVal b) ≠ .gt)
  | 3 => nan
  | 4 => decide (a = b)
  | 5 => a.slt b
  | _ => a.ult b

/-- A predicate source, complemented or not (R105, R219). -/
def qsrc (q : Bool) (c : Bool) : Bool := q != c

end Sys2Proof.Machine
end

