-- ==== Sys2Proof/WellFormed.lean ====
section
/-!
DEFINITION. Which instructions are well formed: the operand conditions that a constructor's types
do not already say (R95, R100, R108), and the ranges of unit numbers that the machine's own steps
name (R13, R146).
-/
namespace Sys2Proof

/-- A load of 8 bytes has signed = 0 (R95, R100). -/
def loadOk (size : Size) (signed : Bool) : Bool := !(decide (size = .d) && signed)
/-- A special register that SRD may name (R102). -/
def readableSpecial (n : Fin 32) : Bool := decide (n.val ≤ 5)
/-- A special register that SWR may name (R102). -/
def writableSpecial (n : Fin 32) : Bool := decide (n.val = 5)
/-- The first register of an ENGINE command: a multiple of 4 from 4 to 28 (R316). -/
def commandBase (a : Reg) : Bool := decide (a.val ≠ 0) && decide (a.val % 4 = 0)
/-- An accumulator number is 0 to 7 (R316). -/
def sinPort (port : Fin 16) (toAc : Bool) : Bool := !toAc || decide (port.val < 8)
/-- SGATE with modifier 0 has field b zero (R309). -/
def gateSource (b : Reg) (on : Bool) : Bool := on || decide (b.val = 0)
/-- RETAIN's modifier is 1 to 8 (R280). -/
def retainWays (w : Fin 9) : Bool := decide (w.val ≠ 0)
/-- The format codes of VCVT and VSRND (R232). -/
def convCode (f : Fin 32) : Bool :=
  (decide (1 ≤ f.val) && decide (f.val ≤ 5)) || (decide (10 ≤ f.val) && decide (f.val ≤ 12)) ||
    (decide (16 ≤ f.val) && decide (f.val ≤ 23))
/-- q0 is no destination (R103). -/
def destQ (d : QReg) : Bool := decide (d.val ≠ 0)
/-- m0 is no destination (R103). -/
def destM (d : MReg) : Bool := decide (d.val ≠ 0)
/-- A partition number (R146). -/
def partNumber (n : Nat) : Bool := decide (n < 12)
/-- A host port number (R8). -/
def hostPort (n : Nat) : Bool := decide (n < 2)

/-- The operand conditions of an instruction. -/
def Instr.wf : Instr → Bool
  | .powerOn => true
  | .watchdogExpiry => true
  | .recoveryDoorbell port _ => hostPort port
  | .registerWrite _ _ => true
  | .lockstepMismatch => true
  | .bootStage => true
  | .powerWindowEnd _ => true
  | .waveStep => true
  | .getVersion port => hostPort port
  | .getCapabilities port => hostPort port
  | .negotiateAlgorithms port => hostPort port
  | .getDigests port => hostPort port
  | .getCertificate port => hostPort port
  | .challenge port _ => hostPort port
  | .getMeasurements port _ _ => hostPort port
  | .keyExchange port _ => hostPort port
  | .finish port _ => hostPort port
  | .endSession port => hostPort port
  | .ideKmQuery port => hostPort port
  | .keyProg port _ _ => hostPort port
  | .kSetGo port _ => hostPort port
  | .kSetStop port _ => hostPort port
  | .unsupportedRequest port _ => hostPort port
  | .linkStart _ _ _ => true
  | .linkRekey => true
  | .llynrenTokenArrival _ _ => true
  | .podKeyRequest _ ask _ => partNumber ask.part
  | .podKeyArrival _ ans => partNumber ans.part
  | .serviceDoorbell port _ _ => hostPort port
  | .map => true
  | .unmap => true
  | .prot => true
  | .query => true
  | .inval => true
  | .setroot => true
  | .aliasWin => true
  | .sync => true
  | .stable => true
  | .sdef => true
  | .sundef => true
  | .sattach => true
  | .sdetach => true
  | .sctlpg => true
  | .sstall => true
  | .sstat => true
  | .oquota => true
  | .oqstat => true
  | .olost => true
  | .opromote => true
  | .bind => true
  | .unbind => true
  | .bquery => true
  | .btimeo => true
  | .preload => true
  | .evict => true
  | .pdef => true
  | .ptear => true
  | .presize => true
  | .vfassign => true
  | .vftear => true
  | .pslice => true
  | .fqset => true
  | .fresume => true
  | .fabort => true
  | .fquery => true
  | .fmask => true
  | .tsync => true
  | .cntsel => true
  | .cntrd => true
  | .cntclr => true
  | .mrecord => true
  | .mlog => true
  | .quote => true
  | .kwrapWrap => true
  | .kwrapUnwrap => true
  | .biasget => true
  | .biasdev => true
  | .biashost => true
  | .unassignedCall => true
  | .biasFlipDone => true
  | .hostMemoryAccess port _ _ _ => hostPort port
  | .snpData _ => true
  | .snpInv _ => true
  | .snpCur _ => true
  | .ingressStore hostport _ _ _ => hostPort hostport
  | .ipseqWrite hostport _ _ => hostPort hostport
  | .packetAcceptance => true
  | .bindingTimeout => true
  | .childAcceptance => true
  | .placement => true
  | .instanceStart => true
  | .firingSelect => true
  | .generatorFiring => true
  | .tokenArrival => true
  | .requestArrival => true
  | .controlTokenArrival => true
  | .lineCountArrival => true
  | .chainStart => true
  | .kvRequestExamine => true
  | .patternBaseTake => true
  | .patternLoadStep => true
  | .patternReadReturn => true
  | .patternStoreStep => true
  | .patternRunEnd => true
  | .commandArrival => true
  | .commandCompletion => true
  | .fillReservation => true
  | .fillRow => true
  | .matrixOpStart => true
  | .matrixOpFinish => true
  | .accessAtHome => true
  | .rmwAtHome => true
  | .stashRecall => true
  | .loadComplete => true
  | .storePerformed => true
  | .deferredFaultArrival => true
  | .streamReadAtHome => true
  | .streamStoreAtHome => true
  | .streamOpAtHome => true
  | .streamStallTimeout => true
  | .aliasLoad _ _ _ => true
  | .aliasStore _ _ _ _ => true
  | .crestWrite _ _ _ => true
  | .toeWrite _ _ _ _ => true
  | .lzeroSdiscWrite _ _ => true
  | .caravanOpAtHome => true
  | .waitaAtHome => true
  | .runStart => true
  | .runEnd => true
  | .faultPost => true
  | .faultQueueRetry => true
  | .grantRound => true
  | .rimPortSend => true
  | .peerTokenArrival part _ _ _ _ => partNumber part
  | .sliceEnd => true
  | .maxRunLength => true
  | .frontArrival => true
  | .tileAct => true
  | .sweepComplete => true
  | .lossDeclaration _ _ => true
  | .unreachableTimeout _ => true
  | .moveStart part _ _ => partNumber part
  | .moveApplied => true
  | .shootdownComplete => true
  | .invalidationComplete => true
  | .instanceComplete => true
  | .nop => true
  | .trap _ => true
  | .brk => true
  | .svc _ _ => true
  | .srd _ n => readableSpecial n
  | .swr _ n => writableSpecial n
  | .fence _ => true
  | .frec _ => true
  | .keep => true
  | .add _ _ _ => true
  | .sub _ _ _ => true
  | .and _ _ _ => true
  | .or _ _ _ => true
  | .xor _ _ _ => true
  | .andn _ _ _ => true
  | .shl _ _ _ => true
  | .shr _ _ _ => true
  | .sar _ _ _ => true
  | .min _ _ _ => true
  | .max _ _ _ => true
  | .minu _ _ _ => true
  | .maxu _ _ _ => true
  | .slt _ _ _ => true
  | .sltu _ _ _ => true
  | .seq _ _ _ => true
  | .clz _ _ => true
  | .cntb _ _ => true
  | .sextb _ _ => true
  | .sexth _ _ => true
  | .sextw _ _ => true
  | .zextb _ _ => true
  | .zexth _ _ => true
  | .zextw _ _ => true
  | .mul _ _ _ => true
  | .mulh _ _ _ => true
  | .mulhu _ _ _ => true
  | .div _ _ _ => true
  | .divu _ _ _ => true
  | .rem _ _ _ => true
  | .remu _ _ _ => true
  | .addi _ _ _ => true
  | .andi _ _ _ => true
  | .ori _ _ _ => true
  | .xori _ _ _ => true
  | .slti _ _ _ => true
  | .sltiu _ _ _ => true
  | .seqi _ _ _ => true
  | .shli _ _ _ => true
  | .shri _ _ _ => true
  | .sari _ _ _ => true
  | .movw _ _ _ => true
  | .movk _ _ _ => true
  | .beq _ _ _ => true
  | .bne _ _ _ => true
  | .blt _ _ _ => true
  | .bge _ _ _ => true
  | .bltu _ _ _ => true
  | .bgeu _ _ _ => true
  | .jmp _ => true
  | .call _ => true
  | .jr _ => true
  | .ld _ _ size signed _ _ => loadOk size signed
  | .st _ _ _ _ _ => true
  | .ldAcq _ _ size _ signed => loadOk size signed
  | .stRel _ _ _ _ => true
  | .ldsyn _ _ _ => true
  | .ldsynK _ _ _ => true
  | .aadd _ _ _ _ _ => true
  | .aand _ _ _ _ _ => true
  | .aor _ _ _ _ _ => true
  | .axor _ _ _ _ _ => true
  | .amin _ _ _ _ _ => true
  | .amax _ _ _ _ _ => true
  | .aminu _ _ _ _ _ => true
  | .amaxu _ _ _ _ _ => true
  | .aswp _ _ _ _ _ => true
  | .acas _ _ _ _ _ => true
  | .afadd _ _ _ _ _ => true
  | .waita _ _ _ _ => true
  | .wait _ _ _ _ => true
  | .spawn _ _ _ => true
  | .jrec _ _ _ => true
  | .jdec _ _ => true
  | .yieldRun _ _ _ => true
  | .endRun => true
  | .cnew _ => true
  | .cjoin _ _ => true
  | .cleave _ _ => true
  | .cwait _ _ _ => true
  | .cfree _ _ => true
  | .qpost _ _ => true
  | .putt _ _ => true
  | .takt _ _ => true
  | .acrst _ _ _ => true
  | .acrd _ _ _ => true
  | .ctok _ => true
  | .ctwait _ _ => true
  | .sin port a _ toAc => commandBase a && sinPort port toAc
  | .sout _ a _ => commandBase a
  | .cpy _ a _ _ => commandBase a
  | .red a _ _ => commandBase a
  | .gath _ a _ _ => commandBase a
  | .scat _ a _ _ => commandBase a
  | .pld _ a _ => commandBase a
  | .pldF _ a _ _ => commandBase a
  | .pdr _ a _ _ => commandBase a
  | .sopen _ _ _ => true
  | .sclose _ => true
  | .scommit _ => true
  | .srel _ _ => true
  | .srwd _ _ => true
  | .sqry _ _ _ _ => true
  | .sgate _ b _ on => gateSource b on
  | .oalloc _ _ _ _ _ => true
  | .ofree _ _ => true
  | .retain _ _ _ w => retainWays w
  | .unpin _ => true
  | .cflush _ _ _ _ => true
  | .rcinv => true
  | .rcinvRange _ _ => true
  | .sNop => true
  | .sAdd _ _ _ => true
  | .sSub _ _ _ => true
  | .sAnd _ _ _ => true
  | .sOr _ _ _ => true
  | .sXor _ _ _ => true
  | .sShl _ _ _ => true
  | .sShr _ _ _ => true
  | .sSar _ _ _ => true
  | .sMul _ _ _ => true
  | .sMin _ _ _ => true
  | .sMax _ _ _ => true
  | .sAddi _ _ _ => true
  | .movi _ _ => true
  | .mov _ _ => true
  | .cmpeq d _ _ => destQ d
  | .cmplt d _ _ => destQ d
  | .cmpltu d _ _ => destQ d
  | .qand d _ _ _ _ => destQ d
  | .qor d _ _ _ _ => destQ d
  | .takes _ _ => true
  | .peeks _ _ => true
  | .puts _ _ => true
  | .putr _ _ _ => true
  | .cntr _ _ _ => true
  | .cadv _ _ => true
  | .loop _ _ => true
  | .brf _ => true
  | .fin => true
  | .ldl _ _ _ => true
  | .stl _ _ _ => true
  | .sAtom _ _ _ _ => true
  | .setprec _ => true
  | .getprec _ _ => true
  | .limw _ => true
  | .limr _ => true
  | .vnop => true
  | .take _ _ _ => true
  | .takeMark _ _ _ _ => true
  | .peek _ _ _ => true
  | .peekMark _ _ _ _ => true
  | .put _ _ _ => true
  | .puth _ _ _ _ => true
  | .pute _ _ _ => true
  | .drop _ => true
  | .vmov _ _ _ => true
  | .vbc _ _ _ => true
  | .vadd _ _ _ _ _ => true
  | .vsub _ _ _ _ _ => true
  | .vmul _ _ _ _ _ => true
  | .vfma _ _ _ _ _ _ => true
  | .vfms _ _ _ _ _ _ => true
  | .vmax _ _ _ _ _ => true
  | .vmin _ _ _ _ _ => true
  | .vabs _ _ _ _ => true
  | .vneg _ _ _ _ => true
  | .vcps _ _ _ _ _ => true
  | .vexp2 _ _ _ _ => true
  | .vlog2 _ _ _ _ => true
  | .vrcp _ _ _ _ => true
  | .vrsq _ _ _ _ => true
  | .vcvt _ _ f _ _ => convCode f
  | .vsrnd _ _ _ f _ => convCode f
  | .vftoi _ _ _ _ => true
  | .vitof _ _ _ _ => true
  | .viadd _ _ _ _ => true
  | .vimul _ _ _ _ => true
  | .vand _ _ _ _ => true
  | .vor _ _ _ _ => true
  | .vxor _ _ _ _ => true
  | .vcmp d _ _ _ _ => destM d
  | .vsel _ _ _ _ => true
  | .vred _ _ _ _ => true
  | .vperm _ _ _ _ => true
  | .vrot _ _ _ _ => true
  | .vld _ _ _ => true
  | .vst _ _ _ => true
  | .vgath _ _ _ _ => true
  | .mma _ _ _ _ _ => true
  | .mmas _ _ _ _ => true
  | .mz _ => true
  | .mrd _ _ _ _ => true
  | .mrdStatus _ _ _ _ => true
  | .manch _ _ => true
  | .manchPreset _ _ => true
  | .pfill _ _ _ _ => true
  | .pfillPort _ _ _ _ => true
  | .pemit _ _ => true
  | .prel _ => true
  | .vmrg _ _ _ => true
  | .drainTimeout => true
  | .cacheInstructionCompletion => true

end Sys2Proof
end

