-- ==== Sys2Proof/Decode.lean ====
section
/-!
DEFINITION. The instruction decoders and encoders (R93 to R108): 32-bit K-words, and 64-bit P-words
with their scalar and vector slots. Decoding is total on any number; a word that is no instruction
is rejected with the name of the reason (R100, R108).
-/
namespace Sys2Proof

open Sys2Proof.Machine

/-- Why a word is no instruction (R100, R108). -/
inductive DecodeErr where
  /-- Its major opcode or slot opcode is unassigned. -/
  | opcodeUnassigned
  /-- Its function code is unassigned. -/
  | functionUnassigned
  /-- A reserved or unused field is not zero. -/
  | reservedField
  /-- A scope field holds 101 to 111. -/
  | badScope
  /-- A field holds a value outside its table. -/
  | badField
  /-- An operand value is refused by the well-formedness checks. -/
  | badOperand
  deriving DecidableEq, Repr

/-! The codes of the small operand types. -/

/-- Scope codes (R6). -/
def Scope.code : Scope → Nat
  | .tile => 0 | .die => 1 | .mod => 2 | .pod => 3 | .sys => 4
/-- Scope codes (R6). -/
def Scope.ofCode : Nat → Option Scope
  | 0 => some .tile | 1 => some .die | 2 => some .mod | 3 => some .pod | 4 => some .sys
  | _ => none
/-- Size codes (R95). -/
def Size.code : Size → Nat
  | .b => 0 | .h => 1 | .w => 2 | .d => 3
/-- Size codes (R95). -/
def Size.ofCode : Nat → Size
  | 0 => .b | 1 => .h | 2 => .w | _ => .d
/-- The bytes of a size (R95). -/
def Size.bytes : Size → Nat
  | .b => 1 | .h => 2 | .w => 4 | .d => 8
/-- Hint codes (R95). -/
def Hint.code : Hint → Nat
  | .normal => 0 | .evictFirst => 1 | .noAllocate => 2 | .retainClass => 3
/-- Hint codes (R95). -/
def Hint.ofCode : Nat → Hint
  | 0 => .normal | 1 => .evictFirst | 2 => .noAllocate | _ => .retainClass
/-- ATOM order codes (R97). -/
def Order.code : Order → Nat
  | .relaxed => 0 | .acq => 1 | .rel => 2 | .acqRel => 3
/-- ATOM order codes (R97). -/
def Order.ofCode : Nat → Option Order
  | 0 => some .relaxed | 1 => some .acq | 2 => some .rel | 3 => some .acqRel | _ => none
/-- Rounding modifiers (R106). -/
def Rnd.code : Rnd → Nat
  | .rne => 0 | .rz => 1 | .rd => 2 | .ru => 3
/-- Rounding modifiers (R106). -/
def Rnd.ofCode : Nat → Rnd
  | 0 => .rne | 1 => .rz | 2 => .rd | _ => .ru
/-- Read-modify-write codes (R98, R224). -/
def AtomOp.code : AtomOp → Nat
  | .add => 0 | .and => 1 | .or => 2 | .xor => 3 | .min => 4 | .max => 5 | .minu => 6 | .maxu => 7
  | .swp => 8 | .cas => 9 | .fadd => 10
/-- Read-modify-write codes (R98, R224). -/
def AtomOp.ofCode : Nat → Option AtomOp
  | 0 => some .add | 1 => some .and | 2 => some .or | 3 => some .xor | 4 => some .min
  | 5 => some .max | 6 => some .minu | 7 => some .maxu | 8 => some .swp | 9 => some .cas
  | 10 => some .fadd | _ => none
/-- Accumulator kind codes (R206). -/
def AcKind.code : AcKind → Nat
  | .int => 0 | .fw => 1 | .umax => 2 | .umin => 3
/-- Accumulator kind codes (R206). -/
def AcKind.ofCode : Nat → Option AcKind
  | 0 => some .int | 1 => some .fw | 2 => some .umax | 3 => some .umin | _ => none

/-! Field readers. -/

/-- A field of 2 bits. -/
def fin4 (w lo : Nat) : Fin 4 := ⟨w / 2 ^ lo % 4, by omega⟩
/-- A field of 3 bits. -/
def fin8 (w lo : Nat) : Fin 8 := ⟨w / 2 ^ lo % 8, by omega⟩
/-- A field of 4 bits. -/
def fin16 (w lo : Nat) : Fin 16 := ⟨w / 2 ^ lo % 16, by omega⟩
/-- A field of 5 bits. -/
def fin32 (w lo : Nat) : Fin 32 := ⟨w / 2 ^ lo % 32, by omega⟩
/-- A field of 6 bits. -/
def fin64 (w lo : Nat) : Fin 64 := ⟨w / 2 ^ lo % 64, by omega⟩
/-- A field value below a bound. -/
def finOf (k v : Nat) : Option (Fin k) := if h : v < k then some ⟨v, h⟩ else none
/-- A field value from base to base + k − 1. -/
def finOff (k base v : Nat) : Option (Fin k) := if base ≤ v then finOf k (v - base) else none
/-- A field value that is 0 or 1. -/
def boolOf : Nat → Option Bool
  | 0 => some false | 1 => some true | _ => none

/-- Accepts a well-formed instruction. -/
def accept (i : Instr) : Except DecodeErr Instr := if i.wf then .ok i else .error .badOperand
/-- Goes on if a condition holds. -/
def need (c : Bool) (e : DecodeErr) (k : Except DecodeErr Instr) : Except DecodeErr Instr :=
  if c then k else .error e
/-- Goes on with a field's value. -/
def withO {α : Type} (o : Option α) (e : DecodeErr) (k : α → Except DecodeErr Instr) :
    Except DecodeErr Instr :=
  match o with
  | some a => k a
  | none => .error e

/-! K-words. -/

/-- The SYS group (R98, R208). -/
def decSys (w : Nat) : Except DecodeErr Instr :=
  match fld w 10 0 with
  | 0 => need (decide (fld w 25 11 = 0)) .reservedField <| accept .nop
  | 1 => need (decide (fld w 25 21 = 0 ∧ fld w 15 11 = 0)) .reservedField <| accept (.trap (fin32 w 16))
  | 2 => need (decide (fld w 25 11 = 0)) .reservedField <| accept .brk
  | 3 => need (decide (fld w 15 11 = 0)) .reservedField <| accept (.svc (fin32 w 21) (fin32 w 16))
  | 4 => need (decide (fld w 20 16 = 0)) .reservedField <| accept (.srd (fin32 w 21) (fin32 w 11))
  | 5 => need (decide (fld w 25 21 = 0)) .reservedField <| accept (.swr (fin32 w 16) (fin32 w 11))
  | 6 => need (decide (fld w 25 14 = 0)) .reservedField <| withO (Scope.ofCode (fld w 13 11)) .badScope fun scope => accept (.fence scope)
  | 7 => need (decide (fld w 20 11 = 0)) .reservedField <| accept (.frec (fin32 w 21))
  | 8 => need (decide (fld w 25 11 = 0)) .reservedField <| accept .keep
  | _ => .error .functionUnassigned

/-- The ALU group (R98, R181). -/
def decAlu (w : Nat) : Except DecodeErr Instr :=
  match fld w 10 0 with
  | 0 => accept (.add (fin32 w 21) (fin32 w 16) (fin32 w 11))
  | 1 => accept (.sub (fin32 w 21) (fin32 w 16) (fin32 w 11))
  | 2 => accept (.and (fin32 w 21) (fin32 w 16) (fin32 w 11))
  | 3 => accept (.or (fin32 w 21) (fin32 w 16) (fin32 w 11))
  | 4 => accept (.xor (fin32 w 21) (fin32 w 16) (fin32 w 11))
  | 5 => accept (.andn (fin32 w 21) (fin32 w 16) (fin32 w 11))
  | 6 => accept (.shl (fin32 w 21) (fin32 w 16) (fin32 w 11))
  | 7 => accept (.shr (fin32 w 21) (fin32 w 16) (fin32 w 11))
  | 8 => accept (.sar (fin32 w 21) (fin32 w 16) (fin32 w 11))
  | 9 => accept (.min (fin32 w 21) (fin32 w 16) (fin32 w 11))
  | 10 => accept (.max (fin32 w 21) (fin32 w 16) (fin32 w 11))
  | 11 => accept (.minu (fin32 w 21) (fin32 w 16) (fin32 w 11))
  | 12 => accept (.maxu (fin32 w 21) (fin32 w 16) (fin32 w 11))
  | 13 => accept (.slt (fin32 w 21) (fin32 w 16) (fin32 w 11))
  | 14 => accept (.sltu (fin32 w 21) (fin32 w 16) (fin32 w 11))
  | 15 => accept (.seq (fin32 w 21) (fin32 w 16) (fin32 w 11))
  | 16 => need (decide (fld w 15 11 = 0)) .reservedField <| accept (.clz (fin32 w 21) (fin32 w 16))
  | 17 => need (decide (fld w 15 11 = 0)) .reservedField <| accept (.cntb (fin32 w 21) (fin32 w 16))
  | 18 => need (decide (fld w 15 11 = 0)) .reservedField <| accept (.sextb (fin32 w 21) (fin32 w 16))
  | 19 => need (decide (fld w 15 11 = 0)) .reservedField <| accept (.sexth (fin32 w 21) (fin32 w 16))
  | 20 => need (decide (fld w 15 11 = 0)) .reservedField <| accept (.sextw (fin32 w 21) (fin32 w 16))
  | 21 => need (decide (fld w 15 11 = 0)) .reservedField <| accept (.zextb (fin32 w 21) (fin32 w 16))
  | 22 => need (decide (fld w 15 11 = 0)) .reservedField <| accept (.zexth (fin32 w 21) (fin32 w 16))
  | 23 => need (decide (fld w 15 11 = 0)) .reservedField <| accept (.zextw (fin32 w 21) (fin32 w 16))
  | _ => .error .functionUnassigned

/-- The MULDIV group (R98, R182). -/
def decMulDiv (w : Nat) : Except DecodeErr Instr :=
  match fld w 10 0 with
  | 0 => accept (.mul (fin32 w 21) (fin32 w 16) (fin32 w 11))
  | 1 => accept (.mulh (fin32 w 21) (fin32 w 16) (fin32 w 11))
  | 2 => accept (.mulhu (fin32 w 21) (fin32 w 16) (fin32 w 11))
  | 3 => accept (.div (fin32 w 21) (fin32 w 16) (fin32 w 11))
  | 4 => accept (.divu (fin32 w 21) (fin32 w 16) (fin32 w 11))
  | 5 => accept (.rem (fin32 w 21) (fin32 w 16) (fin32 w 11))
  | 6 => accept (.remu (fin32 w 21) (fin32 w 16) (fin32 w 11))
  | _ => .error .functionUnassigned

/-- The SHI group (R97, R184). -/
def decShi (w : Nat) : Except DecodeErr Instr :=
  match fld w 7 6 with
  | 0 => need (decide (fld w 15 8 = 0)) .reservedField <| accept (.shli (fin32 w 21) (fin32 w 16) (fin64 w 0))
  | 1 => need (decide (fld w 15 8 = 0)) .reservedField <| accept (.shri (fin32 w 21) (fin32 w 16) (fin64 w 0))
  | 2 => need (decide (fld w 15 8 = 0)) .reservedField <| accept (.sari (fin32 w 21) (fin32 w 16) (fin64 w 0))
  | _ => .error .functionUnassigned

/-- The SYNCMEM group (R97, R362). -/
def decSync (w : Nat) : Except DecodeErr Instr :=
  match fld w 13 12 with
  | 0 => need (decide (fld w 7 0 = 0)) .reservedField <| withO (Scope.ofCode (fld w 11 9)) .badScope fun scope => accept (.ldAcq (fin32 w 21) (fin32 w 16) (Size.ofCode (fld w 15 14)) scope (bit w 8))
  | 1 => need (decide (fld w 8 0 = 0)) .reservedField <| withO (Scope.ofCode (fld w 11 9)) .badScope fun scope => accept (.stRel (fin32 w 21) (fin32 w 16) (Size.ofCode (fld w 15 14)) scope)
  | 2 => need (decide (fld w 15 14 = 3)) .badField <| need (decide (fld w 8 0 = 0)) .reservedField <| withO (Scope.ofCode (fld w 11 9)) .badScope fun scope => accept (.ldsyn (fin32 w 21) (fin32 w 16) scope)
  | _ => need (decide (fld w 15 14 = 3)) .badField <| need (decide (fld w 8 0 = 0)) .reservedField <| withO (Scope.ofCode (fld w 11 9)) .badScope fun scope => accept (.ldsynK (fin32 w 21) (fin32 w 16) scope)

/-- The ATOM group (R97, R98). -/
def decAtom (w : Nat) : Except DecodeErr Instr :=
  match fld w 10 6 with
  | 0 => withO (Scope.ofCode (fld w 5 3)) .badScope fun scope => withO (Order.ofCode (fld w 2 0)) .badField fun order => accept (.aadd (fin32 w 21) (fin32 w 16) (fin32 w 11) scope order)
  | 1 => withO (Scope.ofCode (fld w 5 3)) .badScope fun scope => withO (Order.ofCode (fld w 2 0)) .badField fun order => accept (.aand (fin32 w 21) (fin32 w 16) (fin32 w 11) scope order)
  | 2 => withO (Scope.ofCode (fld w 5 3)) .badScope fun scope => withO (Order.ofCode (fld w 2 0)) .badField fun order => accept (.aor (fin32 w 21) (fin32 w 16) (fin32 w 11) scope order)
  | 3 => withO (Scope.ofCode (fld w 5 3)) .badScope fun scope => withO (Order.ofCode (fld w 2 0)) .badField fun order => accept (.axor (fin32 w 21) (fin32 w 16) (fin32 w 11) scope order)
  | 4 => withO (Scope.ofCode (fld w 5 3)) .badScope fun scope => withO (Order.ofCode (fld w 2 0)) .badField fun order => accept (.amin (fin32 w 21) (fin32 w 16) (fin32 w 11) scope order)
  | 5 => withO (Scope.ofCode (fld w 5 3)) .badScope fun scope => withO (Order.ofCode (fld w 2 0)) .badField fun order => accept (.amax (fin32 w 21) (fin32 w 16) (fin32 w 11) scope order)
  | 6 => withO (Scope.ofCode (fld w 5 3)) .badScope fun scope => withO (Order.ofCode (fld w 2 0)) .badField fun order => accept (.aminu (fin32 w 21) (fin32 w 16) (fin32 w 11) scope order)
  | 7 => withO (Scope.ofCode (fld w 5 3)) .badScope fun scope => withO (Order.ofCode (fld w 2 0)) .badField fun order => accept (.amaxu (fin32 w 21) (fin32 w 16) (fin32 w 11) scope order)
  | 8 => withO (Scope.ofCode (fld w 5 3)) .badScope fun scope => withO (Order.ofCode (fld w 2 0)) .badField fun order => accept (.aswp (fin32 w 21) (fin32 w 16) (fin32 w 11) scope order)
  | 9 => withO (Scope.ofCode (fld w 5 3)) .badScope fun scope => withO (Order.ofCode (fld w 2 0)) .badField fun order => accept (.acas (fin32 w 21) (fin32 w 16) (fin32 w 11) scope order)
  | 10 => withO (Scope.ofCode (fld w 5 3)) .badScope fun scope => withO (Order.ofCode (fld w 2 0)) .badField fun order => accept (.afadd (fin32 w 21) (fin32 w 16) (fin32 w 11) scope order)
  | _ => .error .functionUnassigned

/-- The RUN group (R98). -/
def decRun (w : Nat) : Except DecodeErr Instr :=
  match fld w 10 0 with
  | 0 => accept (.spawn (fin32 w 21) (fin32 w 16) (fin32 w 11))
  | 1 => accept (.jrec (fin32 w 21) (fin32 w 16) (fin32 w 11))
  | 2 => need (decide (fld w 15 11 = 0)) .reservedField <| accept (.jdec (fin32 w 21) (fin32 w 16))
  | 3 => accept (.yieldRun (fin32 w 21) (fin32 w 16) (fin32 w 11))
  | 4 => need (decide (fld w 25 11 = 0)) .reservedField <| accept .endRun
  | _ => .error .functionUnassigned

/-- The CARAVAN group (R98, R202). -/
def decCaravan (w : Nat) : Except DecodeErr Instr :=
  match fld w 10 0 with
  | 0 => need (decide (fld w 20 11 = 0)) .reservedField <| accept (.cnew (fin32 w 21))
  | 1 => need (decide (fld w 15 11 = 0)) .reservedField <| accept (.cjoin (fin32 w 21) (fin32 w 16))
  | 2 => need (decide (fld w 15 11 = 0)) .reservedField <| accept (.cleave (fin32 w 21) (fin32 w 16))
  | 3 => accept (.cwait (fin32 w 21) (fin32 w 16) (fin32 w 11))
  | 4 => need (decide (fld w 15 11 = 0)) .reservedField <| accept (.cfree (fin32 w 21) (fin32 w 16))
  | _ => .error .functionUnassigned

/-- The PORT group (R205). -/
def decPort (w : Nat) : Except DecodeErr Instr :=
  match fld w 7 4 with
  | 0 => need (decide (fld w 10 8 = 0)) .badField <| need (decide (fld w 15 11 = 0 ∧ fld w 3 0 = 0)) .reservedField <| withO (finOf 16 (fld w 25 21)) .badField fun port => accept (.putt port (fin32 w 16))
  | 1 => need (decide (fld w 10 8 = 1)) .badField <| need (decide (fld w 15 11 = 0 ∧ fld w 3 0 = 0)) .reservedField <| withO (finOf 16 (fld w 25 21)) .badField fun port => accept (.takt port (fin32 w 16))
  | 2 => need (decide (fld w 10 8 = 2)) .badField <| need (decide (fld w 15 11 = 0)) .reservedField <| withO (finOf 8 (fld w 25 21)) .badField fun ac => withO (AcKind.ofCode (fld w 3 0)) .badField fun kind => accept (.acrst ac (fin32 w 16) kind)
  | 3 => need (decide (fld w 10 8 = 2)) .badField <| need (decide (fld w 15 11 = 0)) .reservedField <| withO (finOf 8 (fld w 25 21)) .badField fun ac => withO (boolOf (fld w 3 0)) .badField fun count => accept (.acrd ac (fin32 w 16) count)
  | 4 => need (decide (fld w 10 8 = 3)) .badField <| need (decide (fld w 20 11 = 0 ∧ fld w 3 0 = 0)) .reservedField <| withO (finOf 8 (fld w 25 21)) .badField fun line => accept (.ctok line)
  | 5 => need (decide (fld w 10 8 = 3)) .badField <| need (decide (fld w 15 11 = 0 ∧ fld w 3 0 = 0)) .reservedField <| withO (finOf 8 (fld w 25 21)) .badField fun line => accept (.ctwait line (fin32 w 16))
  | _ => .error .functionUnassigned

/-- The ENGINE group (R316). F = 1 belongs to PLD alone. -/
def decEngine (w : Nat) : Except DecodeErr Instr :=
  match fld w 7 4 with
  | 0 => need (decide (fld w 10 10 = 0)) .badField <| need (decide (fld w 15 11 = 0 ∧ fld w 3 1 = 0)) .reservedField <| withO (finOf 16 (fld w 25 21)) .badField fun port => accept (.sin port (fin32 w 16) (fin4 w 8) (bit w 0))
  | 1 => need (decide (fld w 10 10 = 0)) .badField <| need (decide (fld w 15 11 = 0 ∧ fld w 3 0 = 0)) .reservedField <| withO (finOf 16 (fld w 25 21)) .badField fun port => accept (.sout port (fin32 w 16) (fin4 w 8))
  | 2 => need (decide (fld w 10 10 = 0)) .badField <| need (decide (fld w 15 11 = 0 ∧ fld w 3 1 = 0)) .reservedField <| accept (.cpy (fin32 w 21) (fin32 w 16) (fin4 w 8) (bit w 0))
  | 3 => need (decide (fld w 10 10 = 0)) .badField <| need (decide (fld w 25 21 = 0 ∧ fld w 15 11 = 0)) .reservedField <| withO (finOf 9 (fld w 3 0)) .badField fun op => accept (.red (fin32 w 16) (fin4 w 8) op)
  | 4 => need (decide (fld w 10 10 = 0)) .badField <| need (decide (fld w 15 11 = 0 ∧ fld w 3 1 = 0)) .reservedField <| accept (.gath (fin32 w 21) (fin32 w 16) (fin4 w 8) (bit w 0))
  | 5 => need (decide (fld w 10 10 = 0)) .badField <| need (decide (fld w 15 11 = 0 ∧ fld w 3 1 = 0)) .reservedField <| accept (.scat (fin32 w 21) (fin32 w 16) (fin4 w 8) (bit w 0))
  | 6 => if bit w 10 then need (decide (fld w 3 0 = 0)) .reservedField <| accept (.pldF (fin32 w 21) (fin32 w 16) (fin32 w 11) (fin4 w 8))
    else need (decide (fld w 15 11 = 0 ∧ fld w 3 0 = 0)) .reservedField <| accept (.pld (fin32 w 21) (fin32 w 16) (fin4 w 8))
  | 7 => need (decide (fld w 10 10 = 0)) .badField <| need (decide (fld w 15 11 = 0 ∧ fld w 3 1 = 0)) .reservedField <| accept (.pdr (fin32 w 21) (fin32 w 16) (fin4 w 8) (bit w 0))
  | _ => .error .functionUnassigned

/-- The STREAM group (R302). -/
def decStream (w : Nat) : Except DecodeErr Instr :=
  match fld w 7 4 with
  | 0 => need (decide (fld w 25 21 = 0 ∧ fld w 15 11 = 0 ∧ fld w 3 1 = 0)) .reservedField <| accept (.sopen (fin32 w 16) (fin8 w 8) (bit w 0))
  | 1 => need (decide (fld w 25 21 = 0 ∧ fld w 15 8 = 0 ∧ fld w 3 0 = 0)) .reservedField <| accept (.sclose (fin32 w 16))
  | 2 => need (decide (fld w 25 21 = 0 ∧ fld w 15 8 = 0 ∧ fld w 3 0 = 0)) .reservedField <| accept (.scommit (fin32 w 16))
  | 3 => need (decide (fld w 25 21 = 0 ∧ fld w 15 11 = 0 ∧ fld w 3 0 = 0)) .reservedField <| accept (.srel (fin32 w 16) (fin8 w 8))
  | 4 => need (decide (fld w 25 21 = 0 ∧ fld w 15 11 = 0 ∧ fld w 3 0 = 0)) .reservedField <| accept (.srwd (fin32 w 16) (fin8 w 8))
  | 5 => need (decide (fld w 15 11 = 0)) .reservedField <| withO (finOf 7 (fld w 3 0)) .badField fun m => accept (.sqry (fin32 w 21) (fin32 w 16) (fin8 w 8) m)
  | 6 => need (decide (fld w 25 21 = 0 ∧ fld w 3 1 = 0)) .reservedField <| accept (.sgate (fin32 w 16) (fin32 w 11) (fin8 w 8) (bit w 0))
  | _ => .error .functionUnassigned

/-- The OASIS group (R345, R346). -/
def decOasis (w : Nat) : Except DecodeErr Instr :=
  match fld w 7 4 with
  | 0 => need (decide (fld w 15 11 = 0 ∧ fld w 3 2 = 0)) .reservedField <| withO (finOf 5 (fld w 10 8)) .badField fun die => accept (.oalloc (fin32 w 21) (fin32 w 16) die (bit w 1) (bit w 0))
  | 1 => need (decide (fld w 15 8 = 0 ∧ fld w 3 0 = 0)) .reservedField <| accept (.ofree (fin32 w 21) (fin32 w 16))
  | _ => .error .functionUnassigned

/-- The CACHE group (R280). -/
def decCache (w : Nat) : Except DecodeErr Instr :=
  match fld w 7 4 with
  | 0 => need (decide (fld w 25 21 = 0)) .reservedField <| withO (finOf 9 (fld w 3 0)) .badField fun ways => accept (.retain (fin32 w 16) (fin32 w 11) (fin8 w 8) ways)
  | 1 => need (decide (fld w 25 11 = 0 ∧ fld w 3 0 = 0)) .reservedField <| accept (.unpin (fin8 w 8))
  | 2 => need (decide (fld w 25 21 = 0 ∧ fld w 3 1 = 0)) .reservedField <| withO (Scope.ofCode (fld w 10 8)) .badScope fun scope => accept (.cflush (fin32 w 16) (fin32 w 11) scope (bit w 0))
  | 3 => if bit w 0 then need (decide (fld w 25 21 = 0 ∧ fld w 10 8 = 0 ∧ fld w 3 1 = 0)) .reservedField <| accept (.rcinvRange (fin32 w 16) (fin32 w 11))
    else need (decide (fld w 25 8 = 0 ∧ fld w 3 1 = 0)) .reservedField <| accept .rcinv
  | _ => .error .functionUnassigned

/-- The K-word decoder (R93 to R100). -/
def decodeK (w : Nat) : Except DecodeErr Instr :=
  match fld w 31 26 with
  | 0 => decSys w
  | 1 => decAlu w
  | 2 => decMulDiv w
  | 4 => accept (.addi (fin32 w 21) (fin32 w 16) (BitVec.ofNat 16 (fld w 15 0)))
  | 5 => accept (.andi (fin32 w 21) (fin32 w 16) (BitVec.ofNat 16 (fld w 15 0)))
  | 6 => accept (.ori (fin32 w 21) (fin32 w 16) (BitVec.ofNat 16 (fld w 15 0)))
  | 7 => accept (.xori (fin32 w 21) (fin32 w 16) (BitVec.ofNat 16 (fld w 15 0)))
  | 8 => accept (.slti (fin32 w 21) (fin32 w 16) (BitVec.ofNat 16 (fld w 15 0)))
  | 9 => accept (.sltiu (fin32 w 21) (fin32 w 16) (BitVec.ofNat 16 (fld w 15 0)))
  | 10 => accept (.seqi (fin32 w 21) (fin32 w 16) (BitVec.ofNat 16 (fld w 15 0)))
  | 11 => decShi w
  | 12 => need (decide (fld w 18 16 = 0)) .reservedField <| accept (.movw (fin32 w 21) (fin4 w 19) (BitVec.ofNat 16 (fld w 15 0)))
  | 13 => need (decide (fld w 18 16 = 0)) .reservedField <| accept (.movk (fin32 w 21) (fin4 w 19) (BitVec.ofNat 16 (fld w 15 0)))
  | 16 => accept (.beq (fin32 w 21) (fin32 w 16) (BitVec.ofNat 16 (fld w 15 0)))
  | 17 => accept (.bne (fin32 w 21) (fin32 w 16) (BitVec.ofNat 16 (fld w 15 0)))
  | 18 => accept (.blt (fin32 w 21) (fin32 w 16) (BitVec.ofNat 16 (fld w 15 0)))
  | 19 => accept (.bge (fin32 w 21) (fin32 w 16) (BitVec.ofNat 16 (fld w 15 0)))
  | 20 => accept (.bltu (fin32 w 21) (fin32 w 16) (BitVec.ofNat 16 (fld w 15 0)))
  | 21 => accept (.bgeu (fin32 w 21) (fin32 w 16) (BitVec.ofNat 16 (fld w 15 0)))
  | 22 => accept (.jmp (BitVec.ofNat 26 (fld w 25 0)))
  | 23 => accept (.call (BitVec.ofNat 26 (fld w 25 0)))
  | 24 => need (decide (fld w 25 21 = 0 ∧ fld w 15 0 = 0)) .reservedField <| accept (.jr (fin32 w 16))
  | 32 => accept (.ld (fin32 w 21) (fin32 w 16) (Size.ofCode (fld w 15 14)) (bit w 13) (Hint.ofCode (fld w 12 11)) (BitVec.ofNat 11 (fld w 10 0)))
  | 33 => need (decide (fld w 13 13 = 0)) .reservedField <| accept (.st (fin32 w 21) (fin32 w 16) (Size.ofCode (fld w 15 14)) (Hint.ofCode (fld w 12 11)) (BitVec.ofNat 11 (fld w 10 0)))
  | 34 => decSync w
  | 36 => decAtom w
  | 37 => withO (Scope.ofCode (fld w 15 13)) .badScope fun scope => accept (.waita (fin32 w 21) (fin32 w 16) scope (BitVec.ofNat 13 (fld w 12 0)))
  | 38 => need (decide (fld w 1 0 = 0)) .reservedField <| accept (.wait (fin64 w 20) (fin64 w 14) (fin64 w 8) (fin64 w 2))
  | 40 => decRun w
  | 41 => decCaravan w
  | 42 => need (decide (fld w 25 21 = 0 ∧ fld w 10 0 = 0)) .reservedField <| accept (.qpost (fin32 w 16) (fin32 w 11))
  | 48 => decPort w
  | 49 => decEngine w
  | 50 => decStream w
  | 51 => decOasis w
  | 52 => decCache w
  | _ => .error .opcodeUnassigned

/-! P-word slots. -/


/-- The scalar slot decoder: 28 bits (R105, R108). -/
def decodeS (w : Nat) : Except DecodeErr Instr :=
  match fld w 27 22 with
  | 0 => need (decide (fld w 21 0 = 0)) .reservedField <| accept .sNop
  | 1 => need (decide (fld w 9 0 = 0)) .reservedField <| accept (.sAdd (fin16 w 18) (fin16 w 14) (fin16 w 10))
  | 2 => need (decide (fld w 9 0 = 0)) .reservedField <| accept (.sSub (fin16 w 18) (fin16 w 14) (fin16 w 10))
  | 3 => need (decide (fld w 9 0 = 0)) .reservedField <| accept (.sAnd (fin16 w 18) (fin16 w 14) (fin16 w 10))
  | 4 => need (decide (fld w 9 0 = 0)) .reservedField <| accept (.sOr (fin16 w 18) (fin16 w 14) (fin16 w 10))
  | 5 => need (decide (fld w 9 0 = 0)) .reservedField <| accept (.sXor (fin16 w 18) (fin16 w 14) (fin16 w 10))
  | 6 => need (decide (fld w 9 0 = 0)) .reservedField <| accept (.sShl (fin16 w 18) (fin16 w 14) (fin16 w 10))
  | 7 => need (decide (fld w 9 0 = 0)) .reservedField <| accept (.sShr (fin16 w 18) (fin16 w 14) (fin16 w 10))
  | 8 => need (decide (fld w 9 0 = 0)) .reservedField <| accept (.sSar (fin16 w 18) (fin16 w 14) (fin16 w 10))
  | 9 => need (decide (fld w 9 0 = 0)) .reservedField <| accept (.sMul (fin16 w 18) (fin16 w 14) (fin16 w 10))
  | 10 => need (decide (fld w 9 0 = 0)) .reservedField <| accept (.sMin (fin16 w 18) (fin16 w 14) (fin16 w 10))
  | 11 => need (decide (fld w 9 0 = 0)) .reservedField <| accept (.sMax (fin16 w 18) (fin16 w 14) (fin16 w 10))
  | 12 => need (decide (fld w 13 10 = 0)) .reservedField <| accept (.sAddi (fin16 w 18) (fin16 w 14) (BitVec.ofNat 10 (fld w 9 0)))
  | 13 => need (decide (fld w 17 10 = 0)) .reservedField <| accept (.movi (fin16 w 18) (BitVec.ofNat 10 (fld w 9 0)))
  | 14 => need (decide (fld w 13 0 = 0)) .reservedField <| accept (.mov (fin16 w 18) (fin16 w 14))
  | 15 => need (decide (fld w 21 21 = 0 ∧ fld w 9 0 = 0)) .reservedField <| accept (.cmpeq (fin8 w 18) (fin16 w 14) (fin16 w 10))
  | 16 => need (decide (fld w 21 21 = 0 ∧ fld w 9 0 = 0)) .reservedField <| accept (.cmplt (fin8 w 18) (fin16 w 14) (fin16 w 10))
  | 17 => need (decide (fld w 21 21 = 0 ∧ fld w 9 0 = 0)) .reservedField <| accept (.cmpltu (fin8 w 18) (fin16 w 14) (fin16 w 10))
  | 18 => need (decide (fld w 21 21 = 0 ∧ fld w 9 0 = 0)) .reservedField <| accept (.qand (fin8 w 18) (fin8 w 14) (fin8 w 10) (bit w 17) (bit w 13))
  | 19 => need (decide (fld w 21 21 = 0 ∧ fld w 9 0 = 0)) .reservedField <| accept (.qor (fin8 w 18) (fin8 w 14) (fin8 w 10) (bit w 17) (bit w 13))
  | 20 => need (decide (fld w 17 5 = 0)) .reservedField <| withO (finOff 8 8 (fld w 4 0)) .badField fun port => accept (.takes (fin16 w 18) port)
  | 21 => need (decide (fld w 17 5 = 0)) .reservedField <| withO (finOff 8 8 (fld w 4 0)) .badField fun port => accept (.peeks (fin16 w 18) port)
  | 22 => need (decide (fld w 21 18 = 0 ∧ fld w 13 5 = 0)) .reservedField <| withO (finOff 8 16 (fld w 4 0)) .badField fun port => accept (.puts port (fin16 w 14))
  | 23 => need (decide (fld w 21 18 = 0 ∧ fld w 9 5 = 0)) .reservedField <| withO (finOff 8 16 (fld w 4 0)) .badField fun port => accept (.putr port (fin16 w 14) (fin16 w 10))
  | 24 => need (decide (fld w 17 5 = 0)) .reservedField <| withO (finOf 6 (fld w 4 2)) .badField fun level => accept (.cntr (fin16 w 18) (fin4 w 0) level)
  | 25 => need (decide (fld w 21 5 = 0)) .reservedField <| withO (finOf 6 (fld w 4 2)) .badField fun level => accept (.cadv (fin4 w 0) level)
  | 26 => need (decide (fld w 21 18 = 0 ∧ fld w 13 10 = 0)) .reservedField <| accept (.loop (fin16 w 14) (BitVec.ofNat 10 (fld w 9 0)))
  | 27 => need (decide (fld w 21 10 = 0)) .reservedField <| accept (.brf (BitVec.ofNat 10 (fld w 9 0)))
  | 28 => need (decide (fld w 21 0 = 0)) .reservedField <| accept .fin
  | 29 => need (decide (fld w 13 10 = 0)) .reservedField <| accept (.ldl (fin16 w 18) (fin16 w 14) (BitVec.ofNat 10 (fld w 9 0)))
  | 30 => need (decide (fld w 21 18 = 0)) .reservedField <| accept (.stl (fin16 w 14) (fin16 w 10) (BitVec.ofNat 10 (fld w 9 0)))
  | 31 => need (decide (fld w 9 5 = 0)) .reservedField <| withO (AtomOp.ofCode (fld w 4 0)) .badField fun op => accept (.sAtom (fin16 w 18) (fin16 w 14) (fin16 w 10) op)
  | 32 => need (decide (fld w 21 18 = 0 ∧ fld w 13 0 = 0)) .reservedField <| accept (.setprec (fin16 w 14))
  | 33 => need (decide (fld w 17 2 = 0)) .reservedField <| withO (finOf 3 (fld w 1 0)) .badField fun sel => accept (.getprec (fin16 w 18) sel)
  | 34 => need (decide (fld w 21 18 = 0 ∧ fld w 13 0 = 0)) .reservedField <| accept (.limw (fin16 w 14))
  | 35 => need (decide (fld w 17 0 = 0)) .reservedField <| accept (.limr (fin16 w 18))
  | _ => .error .opcodeUnassigned

/-- The vector slot decoder: 32 bits (R106, R108). -/
def decodeV (w : Nat) : Except DecodeErr Instr :=
  match fld w 31 26 with
  | 0 => need (decide (fld w 25 0 = 0)) .reservedField <| accept .vnop
  | 1 => if bit w 0 then need (decide (fld w 15 10 = 0 ∧ fld w 2 1 = 0)) .reservedField <| withO (finOf 4 (fld w 20 16)) .badField fun port => accept (.takeMark (fin32 w 21) port (fin16 w 6) (fin8 w 3))
    else need (decide (fld w 15 6 = 0 ∧ fld w 2 1 = 0)) .reservedField <| withO (finOf 4 (fld w 20 16)) .badField fun port => accept (.take (fin32 w 21) port (fin8 w 3))
  | 2 => if bit w 0 then need (decide (fld w 15 10 = 0 ∧ fld w 2 1 = 0)) .reservedField <| withO (finOf 4 (fld w 20 16)) .badField fun port => accept (.peekMark (fin32 w 21) port (fin16 w 6) (fin8 w 3))
    else need (decide (fld w 15 6 = 0 ∧ fld w 2 1 = 0)) .reservedField <| withO (finOf 4 (fld w 20 16)) .badField fun port => accept (.peek (fin32 w 21) port (fin8 w 3))
  | 3 => need (decide (fld w 15 6 = 0 ∧ fld w 2 0 = 0)) .reservedField <| withO (finOff 4 4 (fld w 25 21)) .badField fun port => accept (.put port (fin32 w 16) (fin8 w 3))
  | 4 => need (decide (fld w 15 6 = 0 ∧ fld w 2 1 = 0)) .reservedField <| withO (finOff 4 4 (fld w 25 21)) .badField fun port => accept (.puth port (fin32 w 16) (fin8 w 3) (bit w 0))
  | 5 => need (decide (fld w 15 6 = 0 ∧ fld w 2 0 = 0)) .reservedField <| withO (finOff 4 4 (fld w 25 21)) .badField fun port => accept (.pute port (fin32 w 16) (fin8 w 3))
  | 6 => need (decide (fld w 25 21 = 0 ∧ fld w 15 0 = 0)) .reservedField <| withO (finOf 4 (fld w 20 16)) .badField fun port => accept (.drop port)
  | 7 => need (decide (fld w 15 6 = 0 ∧ fld w 2 0 = 0)) .reservedField <| accept (.vmov (fin32 w 21) (fin32 w 16) (fin8 w 3))
  | 8 => need (decide (fld w 20 20 = 0 ∧ fld w 15 6 = 0 ∧ fld w 2 0 = 0)) .reservedField <| accept (.vbc (fin32 w 21) (fin16 w 16) (fin8 w 3))
  | 9 => need (decide (fld w 10 6 = 0 ∧ fld w 2 2 = 0)) .reservedField <| accept (.vadd (fin32 w 21) (fin32 w 16) (fin32 w 11) (fin8 w 3) (Rnd.ofCode (fld w 1 0)))
  | 10 => need (decide (fld w 10 6 = 0 ∧ fld w 2 2 = 0)) .reservedField <| accept (.vsub (fin32 w 21) (fin32 w 16) (fin32 w 11) (fin8 w 3) (Rnd.ofCode (fld w 1 0)))
  | 11 => need (decide (fld w 10 6 = 0 ∧ fld w 2 2 = 0)) .reservedField <| accept (.vmul (fin32 w 21) (fin32 w 16) (fin32 w 11) (fin8 w 3) (Rnd.ofCode (fld w 1 0)))
  | 12 => need (decide (fld w 2 2 = 0)) .reservedField <| accept (.vfma (fin32 w 21) (fin32 w 16) (fin32 w 11) (fin32 w 6) (fin8 w 3) (Rnd.ofCode (fld w 1 0)))
  | 13 => need (decide (fld w 2 2 = 0)) .reservedField <| accept (.vfms (fin32 w 21) (fin32 w 16) (fin32 w 11) (fin32 w 6) (fin8 w 3) (Rnd.ofCode (fld w 1 0)))
  | 14 => need (decide (fld w 10 6 = 0 ∧ fld w 2 2 = 0)) .reservedField <| accept (.vmax (fin32 w 21) (fin32 w 16) (fin32 w 11) (fin8 w 3) (Rnd.ofCode (fld w 1 0)))
  | 15 => need (decide (fld w 10 6 = 0 ∧ fld w 2 2 = 0)) .reservedField <| accept (.vmin (fin32 w 21) (fin32 w 16) (fin32 w 11) (fin8 w 3) (Rnd.ofCode (fld w 1 0)))
  | 16 => need (decide (fld w 15 6 = 0 ∧ fld w 2 2 = 0)) .reservedField <| accept (.vabs (fin32 w 21) (fin32 w 16) (fin8 w 3) (Rnd.ofCode (fld w 1 0)))
  | 17 => need (decide (fld w 15 6 = 0 ∧ fld w 2 2 = 0)) .reservedField <| accept (.vneg (fin32 w 21) (fin32 w 16) (fin8 w 3) (Rnd.ofCode (fld w 1 0)))
  | 18 => need (decide (fld w 10 6 = 0 ∧ fld w 2 2 = 0)) .reservedField <| accept (.vcps (fin32 w 21) (fin32 w 16) (fin32 w 11) (fin8 w 3) (Rnd.ofCode (fld w 1 0)))
  | 19 => need (decide (fld w 15 6 = 0 ∧ fld w 2 2 = 0)) .reservedField <| accept (.vexp2 (fin32 w 21) (fin32 w 16) (fin8 w 3) (Rnd.ofCode (fld w 1 0)))
  | 20 => need (decide (fld w 15 6 = 0 ∧ fld w 2 2 = 0)) .reservedField <| accept (.vlog2 (fin32 w 21) (fin32 w 16) (fin8 w 3) (Rnd.ofCode (fld w 1 0)))
  | 21 => need (decide (fld w 15 6 = 0 ∧ fld w 2 2 = 0)) .reservedField <| accept (.vrcp (fin32 w 21) (fin32 w 16) (fin8 w 3) (Rnd.ofCode (fld w 1 0)))
  | 22 => need (decide (fld w 15 6 = 0 ∧ fld w 2 2 = 0)) .reservedField <| accept (.vrsq (fin32 w 21) (fin32 w 16) (fin8 w 3) (Rnd.ofCode (fld w 1 0)))
  | 23 => need (decide (fld w 10 6 = 0 ∧ fld w 2 2 = 0)) .reservedField <| accept (.vcvt (fin32 w 21) (fin32 w 16) (fin32 w 11) (fin8 w 3) (Rnd.ofCode (fld w 1 0)))
  | 24 => need (decide (fld w 2 0 = 0)) .reservedField <| accept (.vsrnd (fin32 w 21) (fin32 w 16) (fin32 w 11) (fin32 w 6) (fin8 w 3))
  | 25 => need (decide (fld w 15 6 = 0 ∧ fld w 2 2 = 0)) .reservedField <| accept (.vftoi (fin32 w 21) (fin32 w 16) (fin8 w 3) (Rnd.ofCode (fld w 1 0)))
  | 26 => need (decide (fld w 15 6 = 0 ∧ fld w 2 2 = 0)) .reservedField <| accept (.vitof (fin32 w 21) (fin32 w 16) (fin8 w 3) (Rnd.ofCode (fld w 1 0)))
  | 27 => need (decide (fld w 10 6 = 0 ∧ fld w 2 0 = 0)) .reservedField <| accept (.viadd (fin32 w 21) (fin32 w 16) (fin32 w 11) (fin8 w 3))
  | 28 => need (decide (fld w 10 6 = 0 ∧ fld w 2 0 = 0)) .reservedField <| accept (.vimul (fin32 w 21) (fin32 w 16) (fin32 w 11) (fin8 w 3))
  | 29 => need (decide (fld w 10 6 = 0 ∧ fld w 2 0 = 0)) .reservedField <| accept (.vand (fin32 w 21) (fin32 w 16) (fin32 w 11) (fin8 w 3))
  | 30 => need (decide (fld w 10 6 = 0 ∧ fld w 2 0 = 0)) .reservedField <| accept (.vor (fin32 w 21) (fin32 w 16) (fin32 w 11) (fin8 w 3))
  | 31 => need (decide (fld w 10 6 = 0 ∧ fld w 2 0 = 0)) .reservedField <| accept (.vxor (fin32 w 21) (fin32 w 16) (fin32 w 11) (fin8 w 3))
  | 32 => need (decide (fld w 25 24 = 0 ∧ fld w 10 6 = 0)) .reservedField <| withO (finOf 7 (fld w 2 0)) .badField fun c => accept (.vcmp (fin8 w 21) (fin32 w 16) (fin32 w 11) (fin8 w 3) c)
  | 33 => need (decide (fld w 10 6 = 0 ∧ fld w 2 0 = 0)) .reservedField <| accept (.vsel (fin32 w 21) (fin32 w 16) (fin32 w 11) (fin8 w 3))
  | 34 => need (decide (fld w 15 6 = 0)) .reservedField <| withO (finOf 6 (fld w 2 0)) .badField fun op => accept (.vred (fin32 w 21) (fin32 w 16) (fin8 w 3) op)
  | 35 => need (decide (fld w 10 6 = 0 ∧ fld w 2 0 = 0)) .reservedField <| accept (.vperm (fin32 w 21) (fin32 w 16) (fin32 w 11) (fin8 w 3))
  | 36 => need (decide (fld w 15 15 = 0 ∧ fld w 10 6 = 0 ∧ fld w 2 0 = 0)) .reservedField <| accept (.vrot (fin32 w 21) (fin32 w 16) (fin16 w 11) (fin8 w 3))
  | 37 => need (decide (fld w 20 20 = 0 ∧ fld w 15 6 = 0 ∧ fld w 2 0 = 0)) .reservedField <| accept (.vld (fin32 w 21) (fin16 w 16) (fin8 w 3))
  | 38 => need (decide (fld w 25 20 = 0 ∧ fld w 10 6 = 0 ∧ fld w 2 0 = 0)) .reservedField <| accept (.vst (fin16 w 16) (fin32 w 11) (fin8 w 3))
  | 39 => need (decide (fld w 20 20 = 0 ∧ fld w 10 6 = 0 ∧ fld w 2 0 = 0)) .reservedField <| accept (.vgath (fin32 w 21) (fin16 w 16) (fin32 w 11) (fin8 w 3))
  | 40 => need (decide (fld w 25 23 = 0 ∧ fld w 20 19 = 0 ∧ fld w 15 14 = 0 ∧ fld w 10 2 = 0)) .reservedField <| accept (.mma (fin4 w 21) (fin8 w 16) (fin8 w 11) (bit w 0) (bit w 1))
  | 41 => need (decide (fld w 25 23 = 0 ∧ fld w 20 19 = 0 ∧ fld w 15 14 = 0 ∧ fld w 5 0 = 0)) .reservedField <| accept (.mmas (fin4 w 21) (fin8 w 16) (fin8 w 11) (fin32 w 6))
  | 42 => need (decide (fld w 25 23 = 0 ∧ fld w 20 0 = 0)) .reservedField <| accept (.mz (fin4 w 21))
  | 43 => if bit w 0 then need (decide (fld w 20 18 = 0 ∧ fld w 15 15 = 0 ∧ fld w 10 6 = 0 ∧ fld w 2 1 = 0)) .reservedField <| accept (.mrdStatus (fin32 w 21) (fin4 w 16) (fin16 w 11) (fin8 w 3))
    else need (decide (fld w 20 18 = 0 ∧ fld w 15 15 = 0 ∧ fld w 10 6 = 0 ∧ fld w 2 1 = 0)) .reservedField <| accept (.mrd (fin32 w 21) (fin4 w 16) (fin16 w 11) (fin8 w 3))
  | 44 => if bit w 0 then need (decide (fld w 25 23 = 0 ∧ fld w 20 20 = 0 ∧ fld w 15 1 = 0)) .reservedField <| accept (.manchPreset (fin4 w 21) (fin16 w 16))
    else need (decide (fld w 25 23 = 0 ∧ fld w 20 20 = 0 ∧ fld w 15 1 = 0)) .reservedField <| accept (.manch (fin4 w 21) (fin16 w 16))
  | 45 => if bit w 0 then need (decide (fld w 25 24 = 0 ∧ fld w 15 15 = 0 ∧ fld w 10 6 = 0 ∧ fld w 2 1 = 0)) .reservedField <| accept (.pfillPort (fin8 w 21) (fin32 w 16) (fin16 w 11) (fin8 w 3))
    else need (decide (fld w 25 24 = 0 ∧ fld w 15 15 = 0 ∧ fld w 10 6 = 0 ∧ fld w 2 1 = 0)) .reservedField <| accept (.pfill (fin8 w 21) (fin32 w 16) (fin16 w 11) (fin8 w 3))
  | 46 => need (decide (fld w 20 19 = 0 ∧ fld w 15 0 = 0)) .reservedField <| accept (.pemit (fin32 w 21) (fin8 w 16))
  | 47 => need (decide (fld w 25 19 = 0 ∧ fld w 15 0 = 0)) .reservedField <| accept (.prel (fin8 w 16))
  | 48 => need (decide (fld w 21 21 = 0 ∧ fld w 16 16 = 0 ∧ fld w 11 0 = 0)) .reservedField <| accept (.vmrg (fin16 w 22) (fin16 w 17) (fin16 w 12))
  | _ => .error .opcodeUnassigned

/-- A firing word (R104): its guard and its two slots. -/
structure PWord where
  neg    : Bool
  pred   : QReg
  scalar : Instr
  vector : Instr
  deriving DecidableEq, Repr

/-- The P-word decoder (R104 to R108). -/
def decodeP (w : Nat) : Except DecodeErr PWord :=
  match decodeS (fld w 59 32), decodeV (fld w 31 0) with
  | .ok s, .ok v => .ok ⟨bit w 63, fin8 w 60, s, v⟩
  | .error e, _ => .error e
  | _, .error e => .error e

/-- The instruction the decoders read from the low nbits of w: a K-word where the bits are one,
else the vector slot of a P-word whose other fields are zero. The two kinds of word share bit
patterns, so a number that is a K-word is read as one (DEDUCED, log entry 7). -/
def decodeTableWord (nbits w : Nat) : Option Instr :=
  match decodeK (w % 2 ^ min nbits 32) with
  | .ok i => some i
  | .error _ =>
    match decodeP (w % 2 ^ min nbits 64) with
    | .ok p => if p.vector = .vnop then some p.scalar else some p.vector
    | .error _ => none


/-! Encoders, from the same tables. -/

/-- A word: its fixed bits and its fields at their places. -/
def pack : Nat → List (Nat × Nat) → Nat
  | w, [] => w
  | w, (v, lo) :: l => v * 2 ^ lo + pack w l


/-- The word of a K-instruction (R93 to R100). -/
def encodeK : Instr → Option Nat
  | .nop => some (pack 0x00000000 [])
  | .trap a => some (pack 0x00000001 [(a.val, 16)])
  | .brk => some (pack 0x00000002 [])
  | .svc d a => some (pack 0x00000003 [(d.val, 21), (a.val, 16)])
  | .srd d n => some (pack 0x00000004 [(d.val, 21), (n.val, 11)])
  | .swr a n => some (pack 0x00000005 [(a.val, 16), (n.val, 11)])
  | .fence scope => some (pack 0x00000006 [(scope.code, 11)])
  | .frec d => some (pack 0x00000007 [(d.val, 21)])
  | .keep => some (pack 0x00000008 [])
  | .add d a b => some (pack 0x04000000 [(d.val, 21), (a.val, 16), (b.val, 11)])
  | .sub d a b => some (pack 0x04000001 [(d.val, 21), (a.val, 16), (b.val, 11)])
  | .and d a b => some (pack 0x04000002 [(d.val, 21), (a.val, 16), (b.val, 11)])
  | .or d a b => some (pack 0x04000003 [(d.val, 21), (a.val, 16), (b.val, 11)])
  | .xor d a b => some (pack 0x04000004 [(d.val, 21), (a.val, 16), (b.val, 11)])
  | .andn d a b => some (pack 0x04000005 [(d.val, 21), (a.val, 16), (b.val, 11)])
  | .shl d a b => some (pack 0x04000006 [(d.val, 21), (a.val, 16), (b.val, 11)])
  | .shr d a b => some (pack 0x04000007 [(d.val, 21), (a.val, 16), (b.val, 11)])
  | .sar d a b => some (pack 0x04000008 [(d.val, 21), (a.val, 16), (b.val, 11)])
  | .min d a b => some (pack 0x04000009 [(d.val, 21), (a.val, 16), (b.val, 11)])
  | .max d a b => some (pack 0x0400000A [(d.val, 21), (a.val, 16), (b.val, 11)])
  | .minu d a b => some (pack 0x0400000B [(d.val, 21), (a.val, 16), (b.val, 11)])
  | .maxu d a b => some (pack 0x0400000C [(d.val, 21), (a.val, 16), (b.val, 11)])
  | .slt d a b => some (pack 0x0400000D [(d.val, 21), (a.val, 16), (b.val, 11)])
  | .sltu d a b => some (pack 0x0400000E [(d.val, 21), (a.val, 16), (b.val, 11)])
  | .seq d a b => some (pack 0x0400000F [(d.val, 21), (a.val, 16), (b.val, 11)])
  | .mul d a b => some (pack 0x08000000 [(d.val, 21), (a.val, 16), (b.val, 11)])
  | .mulh d a b => some (pack 0x08000001 [(d.val, 21), (a.val, 16), (b.val, 11)])
  | .mulhu d a b => some (pack 0x08000002 [(d.val, 21), (a.val, 16), (b.val, 11)])
  | .div d a b => some (pack 0x08000003 [(d.val, 21), (a.val, 16), (b.val, 11)])
  | .divu d a b => some (pack 0x08000004 [(d.val, 21), (a.val, 16), (b.val, 11)])
  | .rem d a b => some (pack 0x08000005 [(d.val, 21), (a.val, 16), (b.val, 11)])
  | .remu d a b => some (pack 0x08000006 [(d.val, 21), (a.val, 16), (b.val, 11)])
  | .clz d a => some (pack 0x04000010 [(d.val, 21), (a.val, 16)])
  | .cntb d a => some (pack 0x04000011 [(d.val, 21), (a.val, 16)])
  | .sextb d a => some (pack 0x04000012 [(d.val, 21), (a.val, 16)])
  | .sexth d a => some (pack 0x04000013 [(d.val, 21), (a.val, 16)])
  | .sextw d a => some (pack 0x04000014 [(d.val, 21), (a.val, 16)])
  | .zextb d a => some (pack 0x04000015 [(d.val, 21), (a.val, 16)])
  | .zexth d a => some (pack 0x04000016 [(d.val, 21), (a.val, 16)])
  | .zextw d a => some (pack 0x04000017 [(d.val, 21), (a.val, 16)])
  | .addi d a imm => some (pack 0x10000000 [(d.val, 21), (a.val, 16), (imm.toNat, 0)])
  | .andi d a imm => some (pack 0x14000000 [(d.val, 21), (a.val, 16), (imm.toNat, 0)])
  | .ori d a imm => some (pack 0x18000000 [(d.val, 21), (a.val, 16), (imm.toNat, 0)])
  | .xori d a imm => some (pack 0x1C000000 [(d.val, 21), (a.val, 16), (imm.toNat, 0)])
  | .slti d a imm => some (pack 0x20000000 [(d.val, 21), (a.val, 16), (imm.toNat, 0)])
  | .sltiu d a imm => some (pack 0x24000000 [(d.val, 21), (a.val, 16), (imm.toNat, 0)])
  | .seqi d a imm => some (pack 0x28000000 [(d.val, 21), (a.val, 16), (imm.toNat, 0)])
  | .shli d a n => some (pack 0x2C000000 [(d.val, 21), (a.val, 16), (n.val, 0)])
  | .shri d a n => some (pack 0x2C000040 [(d.val, 21), (a.val, 16), (n.val, 0)])
  | .sari d a n => some (pack 0x2C000080 [(d.val, 21), (a.val, 16), (n.val, 0)])
  | .movw d pos imm => some (pack 0x30000000 [(d.val, 21), (pos.val, 19), (imm.toNat, 0)])
  | .movk d pos imm => some (pack 0x34000000 [(d.val, 21), (pos.val, 19), (imm.toNat, 0)])
  | .beq a b disp => some (pack 0x40000000 [(a.val, 21), (b.val, 16), (disp.toNat, 0)])
  | .bne a b disp => some (pack 0x44000000 [(a.val, 21), (b.val, 16), (disp.toNat, 0)])
  | .blt a b disp => some (pack 0x48000000 [(a.val, 21), (b.val, 16), (disp.toNat, 0)])
  | .bge a b disp => some (pack 0x4C000000 [(a.val, 21), (b.val, 16), (disp.toNat, 0)])
  | .bltu a b disp => some (pack 0x50000000 [(a.val, 21), (b.val, 16), (disp.toNat, 0)])
  | .bgeu a b disp => some (pack 0x54000000 [(a.val, 21), (b.val, 16), (disp.toNat, 0)])
  | .jmp disp => some (pack 0x58000000 [(disp.toNat, 0)])
  | .call disp => some (pack 0x5C000000 [(disp.toNat, 0)])
  | .jr a => some (pack 0x60000000 [(a.val, 16)])
  | .ld d base size signed hint off => some (pack 0x80000000 [(d.val, 21), (base.val, 16), (size.code, 14), (b2n signed, 13), (hint.code, 11), (off.toNat, 0)])
  | .st src base size hint off => some (pack 0x84000000 [(src.val, 21), (base.val, 16), (size.code, 14), (hint.code, 11), (off.toNat, 0)])
  | .ldAcq d base size scope signed => some (pack 0x88000000 [(d.val, 21), (base.val, 16), (size.code, 14), (scope.code, 9), (b2n signed, 8)])
  | .stRel src base size scope => some (pack 0x88001000 [(src.val, 21), (base.val, 16), (size.code, 14), (scope.code, 9)])
  | .ldsyn d base scope => some (pack 0x8800E000 [(d.val, 21), (base.val, 16), (scope.code, 9)])
  | .ldsynK d base scope => some (pack 0x8800F000 [(d.val, 21), (base.val, 16), (scope.code, 9)])
  | .aadd d a b scope order => some (pack 0x90000000 [(d.val, 21), (a.val, 16), (b.val, 11), (scope.code, 3), (order.code, 0)])
  | .aand d a b scope order => some (pack 0x90000040 [(d.val, 21), (a.val, 16), (b.val, 11), (scope.code, 3), (order.code, 0)])
  | .aor d a b scope order => some (pack 0x90000080 [(d.val, 21), (a.val, 16), (b.val, 11), (scope.code, 3), (order.code, 0)])
  | .axor d a b scope order => some (pack 0x900000C0 [(d.val, 21), (a.val, 16), (b.val, 11), (scope.code, 3), (order.code, 0)])
  | .amin d a b scope order => some (pack 0x90000100 [(d.val, 21), (a.val, 16), (b.val, 11), (scope.code, 3), (order.code, 0)])
  | .amax d a b scope order => some (pack 0x90000140 [(d.val, 21), (a.val, 16), (b.val, 11), (scope.code, 3), (order.code, 0)])
  | .aminu d a b scope order => some (pack 0x90000180 [(d.val, 21), (a.val, 16), (b.val, 11), (scope.code, 3), (order.code, 0)])
  | .amaxu d a b scope order => some (pack 0x900001C0 [(d.val, 21), (a.val, 16), (b.val, 11), (scope.code, 3), (order.code, 0)])
  | .aswp d a b scope order => some (pack 0x90000200 [(d.val, 21), (a.val, 16), (b.val, 11), (scope.code, 3), (order.code, 0)])
  | .acas d a b scope order => some (pack 0x90000240 [(d.val, 21), (a.val, 16), (b.val, 11), (scope.code, 3), (order.code, 0)])
  | .afadd d a b scope order => some (pack 0x90000280 [(d.val, 21), (a.val, 16), (b.val, 11), (scope.code, 3), (order.code, 0)])
  | .waita a b scope disp => some (pack 0x94000000 [(a.val, 21), (b.val, 16), (scope.code, 13), (disp.toNat, 0)])
  | .wait l st c t => some (pack 0x98000000 [(l.val, 20), (st.val, 14), (c.val, 8), (t.val, 2)])
  | .spawn c f r => some (pack 0xA0000000 [(c.val, 21), (f.val, 16), (r.val, 11)])
  | .jrec c f r => some (pack 0xA0000001 [(c.val, 21), (f.val, 16), (r.val, 11)])
  | .yieldRun c f r => some (pack 0xA0000003 [(c.val, 21), (f.val, 16), (r.val, 11)])
  | .cwait c a r => some (pack 0xA4000003 [(c.val, 21), (a.val, 16), (r.val, 11)])
  | .jdec d h => some (pack 0xA0000002 [(d.val, 21), (h.val, 16)])
  | .endRun => some (pack 0xA0000004 [])
  | .cnew d => some (pack 0xA4000000 [(d.val, 21)])
  | .cjoin d a => some (pack 0xA4000001 [(d.val, 21), (a.val, 16)])
  | .cleave d a => some (pack 0xA4000002 [(d.val, 21), (a.val, 16)])
  | .cfree d a => some (pack 0xA4000004 [(d.val, 21), (a.val, 16)])
  | .ofree d a => some (pack 0xCC000010 [(d.val, 21), (a.val, 16)])
  | .qpost a b => some (pack 0xA8000000 [(a.val, 16), (b.val, 11)])
  | .putt port a => some (pack 0xC0000000 [(port.val, 21), (a.val, 16)])
  | .takt port a => some (pack 0xC0000110 [(port.val, 21), (a.val, 16)])
  | .acrst ac a kind => some (pack 0xC0000220 [(ac.val, 21), (a.val, 16), (kind.code, 0)])
  | .acrd ac a count => some (pack 0xC0000230 [(ac.val, 21), (a.val, 16), (b2n count, 0)])
  | .ctok line => some (pack 0xC0000340 [(line.val, 21)])
  | .ctwait line a => some (pack 0xC0000350 [(line.val, 21), (a.val, 16)])
  | .sin port a cls toAc => some (pack 0xC4000000 [(port.val, 21), (a.val, 16), (cls.val, 8), (b2n toAc, 0)])
  | .sout port a cls => some (pack 0xC4000010 [(port.val, 21), (a.val, 16), (cls.val, 8)])
  | .cpy x a cls nofe => some (pack 0xC4000020 [(x.val, 21), (a.val, 16), (cls.val, 8), (b2n nofe, 0)])
  | .gath x a cls nofe => some (pack 0xC4000040 [(x.val, 21), (a.val, 16), (cls.val, 8), (b2n nofe, 0)])
  | .scat x a cls nofe => some (pack 0xC4000050 [(x.val, 21), (a.val, 16), (cls.val, 8), (b2n nofe, 0)])
  | .pdr x a cls nofe => some (pack 0xC4000070 [(x.val, 21), (a.val, 16), (cls.val, 8), (b2n nofe, 0)])
  | .red a cls op => some (pack 0xC4000030 [(a.val, 16), (cls.val, 8), (op.val, 0)])
  | .pld x a cls => some (pack 0xC4000060 [(x.val, 21), (a.val, 16), (cls.val, 8)])
  | .pldF x a b cls => some (pack 0xC4000460 [(x.val, 21), (a.val, 16), (b.val, 11), (cls.val, 8)])
  | .sopen a k crest => some (pack 0xC8000000 [(a.val, 16), (k.val, 8), (b2n crest, 0)])
  | .sclose a => some (pack 0xC8000010 [(a.val, 16)])
  | .scommit a => some (pack 0xC8000020 [(a.val, 16)])
  | .srel a k => some (pack 0xC8000030 [(a.val, 16), (k.val, 8)])
  | .srwd a k => some (pack 0xC8000040 [(a.val, 16), (k.val, 8)])
  | .sqry d a k m => some (pack 0xC8000050 [(d.val, 21), (a.val, 16), (k.val, 8), (m.val, 0)])
  | .sgate a b k on => some (pack 0xC8000060 [(a.val, 16), (b.val, 11), (k.val, 8), (b2n on, 0)])
  | .oalloc d a die fc mir => some (pack 0xCC000000 [(d.val, 21), (a.val, 16), (die.val, 8), (b2n fc, 1), (b2n mir, 0)])
  | .retain a b n w => some (pack 0xD0000000 [(a.val, 16), (b.val, 11), (n.val, 8), (w.val, 0)])
  | .unpin n => some (pack 0xD0000010 [(n.val, 8)])
  | .cflush a b scope inv => some (pack 0xD0000020 [(a.val, 16), (b.val, 11), (scope.code, 8), (b2n inv, 0)])
  | .rcinv => some (pack 0xD0000030 [])
  | .rcinvRange a b => some (pack 0xD0000031 [(a.val, 16), (b.val, 11)])
  | _ => none

/-- The 28-bit scalar slot of an instruction (R105). -/
def encodeS : Instr → Option Nat
  | .sNop => some (pack 0x00000000 [])
  | .sAdd d a b => some (pack 0x00400000 [(d.val, 18), (a.val, 14), (b.val, 10)])
  | .sSub d a b => some (pack 0x00800000 [(d.val, 18), (a.val, 14), (b.val, 10)])
  | .sAnd d a b => some (pack 0x00C00000 [(d.val, 18), (a.val, 14), (b.val, 10)])
  | .sOr d a b => some (pack 0x01000000 [(d.val, 18), (a.val, 14), (b.val, 10)])
  | .sXor d a b => some (pack 0x01400000 [(d.val, 18), (a.val, 14), (b.val, 10)])
  | .sShl d a b => some (pack 0x01800000 [(d.val, 18), (a.val, 14), (b.val, 10)])
  | .sShr d a b => some (pack 0x01C00000 [(d.val, 18), (a.val, 14), (b.val, 10)])
  | .sSar d a b => some (pack 0x02000000 [(d.val, 18), (a.val, 14), (b.val, 10)])
  | .sMul d a b => some (pack 0x02400000 [(d.val, 18), (a.val, 14), (b.val, 10)])
  | .sMin d a b => some (pack 0x02800000 [(d.val, 18), (a.val, 14), (b.val, 10)])
  | .sMax d a b => some (pack 0x02C00000 [(d.val, 18), (a.val, 14), (b.val, 10)])
  | .sAddi d a imm => some (pack 0x03000000 [(d.val, 18), (a.val, 14), (imm.toNat, 0)])
  | .movi d imm => some (pack 0x03400000 [(d.val, 18), (imm.toNat, 0)])
  | .mov d a => some (pack 0x03800000 [(d.val, 18), (a.val, 14)])
  | .cmpeq d a b => some (pack 0x03C00000 [(d.val, 18), (a.val, 14), (b.val, 10)])
  | .cmplt d a b => some (pack 0x04000000 [(d.val, 18), (a.val, 14), (b.val, 10)])
  | .cmpltu d a b => some (pack 0x04400000 [(d.val, 18), (a.val, 14), (b.val, 10)])
  | .qand d a b ca cb => some (pack 0x04800000 [(d.val, 18), (b2n ca, 17), (a.val, 14), (b2n cb, 13), (b.val, 10)])
  | .qor d a b ca cb => some (pack 0x04C00000 [(d.val, 18), (b2n ca, 17), (a.val, 14), (b2n cb, 13), (b.val, 10)])
  | .takes d port => some (pack 0x05000000 [(d.val, 18), (port.val + 8, 0)])
  | .peeks d port => some (pack 0x05400000 [(d.val, 18), (port.val + 8, 0)])
  | .puts port a => some (pack 0x05800000 [(a.val, 14), (port.val + 16, 0)])
  | .putr port a b => some (pack 0x05C00000 [(a.val, 14), (b.val, 10), (port.val + 16, 0)])
  | .cntr d chain level => some (pack 0x06000000 [(d.val, 18), (level.val, 2), (chain.val, 0)])
  | .cadv chain level => some (pack 0x06400000 [(level.val, 2), (chain.val, 0)])
  | .loop a imm => some (pack 0x06800000 [(a.val, 14), (imm.toNat, 0)])
  | .brf imm => some (pack 0x06C00000 [(imm.toNat, 0)])
  | .fin => some (pack 0x07000000 [])
  | .ldl d a imm => some (pack 0x07400000 [(d.val, 18), (a.val, 14), (imm.toNat, 0)])
  | .stl a b imm => some (pack 0x07800000 [(a.val, 14), (b.val, 10), (imm.toNat, 0)])
  | .sAtom d a b op => some (pack 0x07C00000 [(d.val, 18), (a.val, 14), (b.val, 10), (op.code, 0)])
  | .setprec a => some (pack 0x08000000 [(a.val, 14)])
  | .getprec d sel => some (pack 0x08400000 [(d.val, 18), (sel.val, 0)])
  | .limw a => some (pack 0x08800000 [(a.val, 14)])
  | .limr d => some (pack 0x08C00000 [(d.val, 18)])
  | _ => none

/-- The 32-bit vector slot of an instruction (R106). -/
def encodeV : Instr → Option Nat
  | .vnop => some (pack 0x00000000 [])
  | .take d port m => some (pack 0x04000000 [(d.val, 21), (port.val, 16), (m.val, 3)])
  | .peek d port m => some (pack 0x08000000 [(d.val, 21), (port.val, 16), (m.val, 3)])
  | .takeMark d port k m => some (pack 0x04000001 [(d.val, 21), (port.val, 16), (k.val, 6), (m.val, 3)])
  | .peekMark d port k m => some (pack 0x08000001 [(d.val, 21), (port.val, 16), (k.val, 6), (m.val, 3)])
  | .put port a m => some (pack 0x0C000000 [(port.val + 4, 21), (a.val, 16), (m.val, 3)])
  | .puth port a m empty => some (pack 0x10000000 [(port.val + 4, 21), (a.val, 16), (m.val, 3), (b2n empty, 0)])
  | .pute port a m => some (pack 0x14000000 [(port.val + 4, 21), (a.val, 16), (m.val, 3)])
  | .drop port => some (pack 0x18000000 [(port.val, 16)])
  | .vmov d a m => some (pack 0x1C000000 [(d.val, 21), (a.val, 16), (m.val, 3)])
  | .vbc d k m => some (pack 0x20000000 [(d.val, 21), (k.val, 16), (m.val, 3)])
  | .vadd d a b m r => some (pack 0x24000000 [(d.val, 21), (a.val, 16), (b.val, 11), (m.val, 3), (r.code, 0)])
  | .vsub d a b m r => some (pack 0x28000000 [(d.val, 21), (a.val, 16), (b.val, 11), (m.val, 3), (r.code, 0)])
  | .vmul d a b m r => some (pack 0x2C000000 [(d.val, 21), (a.val, 16), (b.val, 11), (m.val, 3), (r.code, 0)])
  | .vmax d a b m r => some (pack 0x38000000 [(d.val, 21), (a.val, 16), (b.val, 11), (m.val, 3), (r.code, 0)])
  | .vmin d a b m r => some (pack 0x3C000000 [(d.val, 21), (a.val, 16), (b.val, 11), (m.val, 3), (r.code, 0)])
  | .vcps d a b m r => some (pack 0x48000000 [(d.val, 21), (a.val, 16), (b.val, 11), (m.val, 3), (r.code, 0)])
  | .vfma d a b c m r => some (pack 0x30000000 [(d.val, 21), (a.val, 16), (b.val, 11), (c.val, 6), (m.val, 3), (r.code, 0)])
  | .vfms d a b c m r => some (pack 0x34000000 [(d.val, 21), (a.val, 16), (b.val, 11), (c.val, 6), (m.val, 3), (r.code, 0)])
  | .vabs d a m r => some (pack 0x40000000 [(d.val, 21), (a.val, 16), (m.val, 3), (r.code, 0)])
  | .vneg d a m r => some (pack 0x44000000 [(d.val, 21), (a.val, 16), (m.val, 3), (r.code, 0)])
  | .vexp2 d a m r => some (pack 0x4C000000 [(d.val, 21), (a.val, 16), (m.val, 3), (r.code, 0)])
  | .vlog2 d a m r => some (pack 0x50000000 [(d.val, 21), (a.val, 16), (m.val, 3), (r.code, 0)])
  | .vrcp d a m r => some (pack 0x54000000 [(d.val, 21), (a.val, 16), (m.val, 3), (r.code, 0)])
  | .vrsq d a m r => some (pack 0x58000000 [(d.val, 21), (a.val, 16), (m.val, 3), (r.code, 0)])
  | .vftoi d a m r => some (pack 0x64000000 [(d.val, 21), (a.val, 16), (m.val, 3), (r.code, 0)])
  | .vitof d a m r => some (pack 0x68000000 [(d.val, 21), (a.val, 16), (m.val, 3), (r.code, 0)])
  | .vcvt d a f m r => some (pack 0x5C000000 [(d.val, 21), (a.val, 16), (f.val, 11), (m.val, 3), (r.code, 0)])
  | .vsrnd d a b f m => some (pack 0x60000000 [(d.val, 21), (a.val, 16), (b.val, 11), (f.val, 6), (m.val, 3)])
  | .viadd d a b m => some (pack 0x6C000000 [(d.val, 21), (a.val, 16), (b.val, 11), (m.val, 3)])
  | .vimul d a b m => some (pack 0x70000000 [(d.val, 21), (a.val, 16), (b.val, 11), (m.val, 3)])
  | .vand d a b m => some (pack 0x74000000 [(d.val, 21), (a.val, 16), (b.val, 11), (m.val, 3)])
  | .vor d a b m => some (pack 0x78000000 [(d.val, 21), (a.val, 16), (b.val, 11), (m.val, 3)])
  | .vxor d a b m => some (pack 0x7C000000 [(d.val, 21), (a.val, 16), (b.val, 11), (m.val, 3)])
  | .vsel d a b m => some (pack 0x84000000 [(d.val, 21), (a.val, 16), (b.val, 11), (m.val, 3)])
  | .vperm d a b m => some (pack 0x8C000000 [(d.val, 21), (a.val, 16), (b.val, 11), (m.val, 3)])
  | .vcmp d a b m c => some (pack 0x80000000 [(d.val, 21), (a.val, 16), (b.val, 11), (m.val, 3), (c.val, 0)])
  | .vred d a m op => some (pack 0x88000000 [(d.val, 21), (a.val, 16), (m.val, 3), (op.val, 0)])
  | .vrot d a k m => some (pack 0x90000000 [(d.val, 21), (a.val, 16), (k.val, 11), (m.val, 3)])
  | .vld d k m => some (pack 0x94000000 [(d.val, 21), (k.val, 16), (m.val, 3)])
  | .vst k b m => some (pack 0x98000000 [(k.val, 16), (b.val, 11), (m.val, 3)])
  | .vgath d k b m => some (pack 0x9C000000 [(d.val, 21), (k.val, 16), (b.val, 11), (m.val, 3)])
  | .mma z a b aScr bScr => some (pack 0xA0000000 [(z.val, 21), (a.val, 16), (b.val, 11), (b2n bScr, 1), (b2n aScr, 0)])
  | .mmas z a b port => some (pack 0xA4000000 [(z.val, 21), (a.val, 16), (b.val, 11), (port.val, 6)])
  | .mz z => some (pack 0xA8000000 [(z.val, 21)])
  | .mrd d z k m => some (pack 0xAC000000 [(d.val, 21), (z.val, 16), (k.val, 11), (m.val, 3)])
  | .mrdStatus d z k m => some (pack 0xAC000001 [(d.val, 21), (z.val, 16), (k.val, 11), (m.val, 3)])
  | .manch z k => some (pack 0xB0000000 [(z.val, 21), (k.val, 16)])
  | .manchPreset z k => some (pack 0xB0000001 [(z.val, 21), (k.val, 16)])
  | .pfill d a r m => some (pack 0xB4000000 [(d.val, 21), (a.val, 16), (r.val, 11), (m.val, 3)])
  | .pfillPort d port r m => some (pack 0xB4000001 [(d.val, 21), (port.val, 16), (r.val, 11), (m.val, 3)])
  | .pemit port p => some (pack 0xB8000000 [(port.val, 21), (p.val, 16)])
  | .prel p => some (pack 0xBC000000 [(p.val, 16)])
  | .vmrg d a b => some (pack 0xC0000000 [(d.val, 22), (a.val, 17), (b.val, 12)])
  | _ => none

/-- The 64-bit word of a firing word (R104). -/
def encodeP (p : PWord) : Option Nat :=
  match encodeS p.scalar, encodeV p.vector with
  | some s, some v => some (b2n p.neg * 2 ^ 63 + p.pred.val * 2 ^ 60 + s * 2 ^ 32 + v)
  | _, _ => none

end Sys2Proof
end

