-- ==== Sys2Proof/Machine/State.lean ====
section
/-!
DEFINITION. The state of the module, as plain data, and its value after reset. Everything the spec
gives the machine is here; the schedule (`Sched`) and the counters that number operations and free
values are the model's own (DESIGN CHOICE, log entries 1 to 3).
-/
namespace Sys2Proof.Machine

/-- Why the machine stops. -/
inductive Fault where
  /-- A turn names a control core that the module does not have (R13). Raised by `step`. Safe: no
  turn of the hardware does. -/
  | noSuchCore
  /-- Execution was asked of an instruction in no position to run: a control-core word where no run
  executes, or a firing word where no firing does. Raised by the meanings of instruction words when
  they are called outside `step`, which never does. Safe. -/
  | nothingExecutes
  deriving DecidableEq, Repr

/-- Why an instruction has no meaning. -/
inductive Refusal where
  /-- The instruction is not modelled. Raised by `exec`'s arms alone. Safe: nothing follows from a
  refusal. -/
  | notModelled (mnemonic : String)
  deriving DecidableEq, Repr

/-! ### Schedule -/

/-- The model's own state: which agents move next, and counters that name operations and free
values. `args` are the unit and the pending thing of the internal step that is moving. -/
structure Sched where
  turns : List Turn := []
  ticks : Nat := 0
  args  : List Nat := []
  core  : Nat := 0
  tile  : Nat × Nat := (0, 0)
  free  : Nat := 0
  next  : Nat := 1
  deriving DecidableEq, Repr

/-! ### Records, runs and control cores (R44 to R47, R103, R171 to R176, R193, R204) -/

/-- A continuation record (R46); `frec` is what FREC returns in a trap continuation (R212). -/
structure Rec where
  arg    : Word := 0
  fp     : Word := 0
  inst   : Nat := 0
  join   : Nat := 0
  ascope : Scope := .tile
  afirst : Bool := false
  trapc  : Bool := false
  code   : Nat := 0
  frec   : Word := 0
  deriving DecidableEq, Repr, Inhabited

/-- A fault record (R380), with the words of its continuation records. -/
structure FaultRec where
  inst   : Nat := 0
  frozen : Bool := false
  intrap : Bool := false
  defer  : Bool := false
  code   : Nat := 0
  widx   : Nat := 0
  src    : Nat := 0
  unit   : Nat := 0
  y      : Nat := 0
  x      : Nat := 0
  core   : Nat := 0
  word   : Nat := 0
  addr   : Nat := 0
  cyc    : Nat := 0
  detail : Nat := 0
  arg    : Word := 0
  fp     : Word := 0
  ext    : List Word := []
  deriving DecidableEq, Repr, Inhabited

/-- A leaf of the address space (R326): its VA, its size in bytes, and its entry's fields. -/
structure Page where
  va    : Nat
  size  : Nat
  ga    : Nat
  attr  : Nat := 0
  sbank : Nat := 0
  sx    : Nat := 0
  sy    : Nat := 0
  r     : Bool := false
  w     : Bool := false
  deriving DecidableEq, Repr

/-- How a run is ending while it waits for its loads and stores (R199, R209). -/
inductive Ending where
  | endRun
  | yieldRun (r : Rec)
  | cwait (caravan : Word) (r : Rec)
  | waita (part ga : Nat) (va expected : Word) (r : Rec) (page : Option Page)
  | trap (f : FaultRec)
  deriving DecidableEq, Repr

/-- A run on a control core (R44, R103, R180, R193). `locks` pairs an interlocked register with the
operation that will write it; `hold` is the acquire that later words wait behind (R363); `queued`
says that its CTWAIT stands in its line's queue (R207), and `qread` numbers the packet read of its QPOST that waits at a
stream's home (R141, R290). -/
structure Run where
  rid    : Nat := 0
  rc     : Rec := {}
  regs   : Vector Word 32 := Vector.replicate 32 0
  pc     : Nat := 0
  began  : Nat := 0
  ldc    : Nat := 0
  stc    : Nat := 0
  cpc    : Nat := 0
  pnc    : Nat := 0
  first  : Option Scope := none
  hold   : List Nat := []
  locks  : List (Nat × Nat) := []
  defer  : Option FaultRec := none
  ending : Option Ending := none
  queued : Bool := false
  qread  : Option Nat := none
  deriving DecidableEq, Repr

/-- A deque of one occupant slot on one core, top first (R171, R172). -/
structure Deque where
  spill : List Rec := []
  hw    : List Rec := []
  deriving DecidableEq, Repr

/-- An accumulator (R204, R206). -/
structure Ac where
  v    : Word := 0
  n    : Nat := 0
  kind : AcKind := .int
  deriving DecidableEq, Repr

/-- The port files of one occupant slot on one core (R204). -/
structure PortFile where
  vs : Tab (List Word) := []
  vk : Tab (List Word) := []
  ac : Tab Ac := []
  deriving DecidableEq, Repr

/-- A control core: its run, its deques and its port files by occupant slot, and the trap
continuations it holds (R176). -/
structure Core where
  run    : Option Run := none
  deques : Tab Deque := []
  ports  : Tab PortFile := []
  held   : List Rec := []
  deriving DecidableEq, Repr

/-! ### Images, tiles and instances (R76 to R92, R157 to R170, R241 to R263, R311 to R333) -/

/-- A checked image (R76): its tile-frame records by frame address and its K-words. -/
structure Image where
  bw     : Nat := 1
  bh     : Nat := 1
  entry  : Nat := 0
  trapw  : Nat := 0
  edge   : Nat := 0
  ncode  : Nat := 0
  frames : Tab Nat := []
  code   : List Nat := []
  digest : Nat := 0
  deriving DecidableEq, Repr, Inhabited

/-- A token on a channel (R71): wide with its burst mark, or narrow with its route tag. -/
inductive Tok where
  | wide (v : Lanes) (mark : Nat)
  | narrow (v : Word) (tag : Nat)
  deriving DecidableEq, Repr

/-- What travels forward on a channel: a token, or the front (R390). -/
inductive Msg where
  | tok (t : Tok)
  | front
  deriving DecidableEq, Repr

/-- A channel's links: what is on its way forward, and the requests on their way back. -/
structure Link where
  fwd : List Msg := []
  req : Nat := 0
  deriving DecidableEq, Repr

/-- A counter chain (R167, R168). -/
structure Chain where
  running : Bool := false
  idx     : List Nat := []
  pending : Nat := 0
  ran     : Bool := false
  deriving DecidableEq, Repr

/-- A firing in progress (R160, R162, R164). Its current word has entered `ops` operations in the matrix queue (R253)
and emitted `rows` rows; `seen` holds PREC, the sparse cursor and the panel table as they stood when that word entered
them (R242). -/
structure Firing where
  slot  : Nat := 0
  pc    : Nat := 0
  words : Nat := 0
  taken : Tab Nat := []
  puts  : Tab Nat := []
  ops   : Nat := 0
  rows  : Nat := 0
  seen  : List Nat := []
  deriving DecidableEq, Repr

/-- One accumulator cell (R245): N × 2^X, whether it is anchored, whether it lost bits, and its
special value (0 none, 1 +∞, 2 −∞, 3 NaN). -/
structure Cell where
  n  : Int := 0
  x  : Int := 0
  v  : Bool := false
  l  : Bool := false
  sp : Nat := 0
  deriving DecidableEq, Repr

/-- Panel slot states (R249). -/
inductive PState where
  | empty | fillF | fillE | ready | draining
  deriving DecidableEq, Repr

/-- A panel slot: its state, its rows (absent rows are +0), the rows filled, and for a fill by an
engine the command that reserved it. -/
structure Panel where
  st   : PState := .empty
  rows : Tab Lanes := []
  cnt  : Nat := 0
  deriving DecidableEq, Repr

/-- The sparse cursor (R257). -/
structure Cursor where
  pos   : Nat := 0
  kv    : Bool := false
  lastk : Nat := 0
  stop  : Nat := 0
  deriving DecidableEq, Repr

/-- A matrix operand: a panel slot, or a scratch operand's register pair (R254). -/
inductive MOpd where
  | panel (n : Nat)
  | scratch (lo hi : Word)
  deriving DecidableEq, Repr

/-- An operation at a tile's matrix issue point (R252, R253). -/
inductive MOp where
  | mma (z : Nat) (a b : MOpd)
  | mmas (z a b : Nat) (token : Word)
  | mz (z : Nat)
  | mrd (d z row : Nat) (mask : Word) (status : Bool)
  | manch (z : Nat) (k : Word) (preset : Bool)
  | setprec (v : Word)
  | follow (desc : Word) (slot cmd : Nat)
  deriving DecidableEq, Repr

/-- An entry of a tile's matrix queue: whether a firing word waits for it, whether it has started, and whether the
array is done with it while its word has yet to complete (R215), with the bank that its products have come to, of the rows
as they were read (R249, R256, R257). -/
structure MEntry where
  op      : MOp
  firing  : Bool := true
  started : Bool := false
  ended   : Bool := false
  sum     : Option (Tab Cell) := none
  deriving DecidableEq, Repr

/-- One access that a pattern's run has issued (R313, R314, R332): its number, its run, the range of its
codes, what a load has read or a store writes; the addresses of the scale bytes of its blocks, in pairs,
with their values; whether it is a burst's head or ends a burst, how many of a store's writes are made,
whether the eddy queue holds it, and whether that queue has held it. -/
structure PAcc where
  op     : Nat
  run    : Nat
  va     : Nat := 0
  n      : Nat := 0
  data   : Option Nat := none
  blocks : List Nat := []
  got    : List Nat := []
  head   : Bool := false
  last   : Bool := false
  stage  : Nat := 0
  eddy   : Bool := false
  redo   : Bool := false
  deriving DecidableEq, Repr, Inhabited

/-- An A-tile pattern's dynamic state (R311 to R315, R392): the run in progress, the accesses issued,
the position in the burst that is issued (and whether its head is), the head token and the position in
the burst that is put or taken, the input latches, the completed runs whose DONE is due, and for a
frozen pattern its first fault and the accesses that have faulted (0 for the step); the access at which a full eddy queue stalls it (R333). -/
structure Pat where
  base   : Option Word := none
  scale  : Word := 0
  tag    : Nat := 0
  run    : Nat := 0
  accs   : List PAcc := []
  bpos   : Nat := 0
  headed : Bool := false
  head   : Option Lanes := none
  dpos   : Nat := 0
  rnd    : List Word := []
  latch  : Option Tok := none
  ends   : List Nat := []
  frozen : Option FaultRec := none
  bad    : List Nat := []
  stuck  : Option Nat := none
  deriving DecidableEq, Repr

/-- A write that elements have yet to make: the column of its first element, its address and length, and the bits that it
sets under a mask. -/
structure Put where
  c  : Nat
  va : Nat
  n  : Nat
  v  : Nat
  m  : Nat
  deriving DecidableEq, Repr
/-- Elements of one row that a command moves (R317 to R320): the row and its first element, their number, the row's index
entry, the codes and scale bytes read so far, the random words drawn for them, whether they are all that is written
together (a group), the writes yet to make, whether this is a replay, and, while it is still in the eddy queue, its entry
there (R333). -/
structure Chunk where
  r      : Nat
  c      : Nat
  n      : Nat
  idx    : Option Int := none
  codes  : List Nat := []
  scales : List Nat := []
  rnd    : List Nat := []
  whole  : Bool := false
  outs   : List Put := []
  redo   : Bool := false
  inq    : Option Nat := none
  deriving DecidableEq, Repr

/-- A group of elements of one row that is being gathered: a panel row, a row of a stream, or what the row writes into one
block (R284, R318, R321): its first element, their number, the row's index entry, and the codes and scale bytes of those
read so far, by place. -/
structure Gather where
  r    : Nat
  c    : Nat
  n    : Nat
  idx  : Option Int := none
  vals : Tab (Nat × Nat) := []
  deriving DecidableEq, Repr

/-- An eddy-queue entry: a pattern's access, or elements of a command under a number of their own; and whether it is
retried now (R332, R333). -/
inductive Eddy where
  | pat (j op : Nat) (ready : Bool)
  | cmd (id entry : Nat) (k : Chunk) (ready : Bool)
  deriving DecidableEq, Repr

/-- The dynamic state of one tile of an instance. Absent table entries read as their reset value.
Registers of R103; FIFOs and demand by port number (R83, R85); SRAM, its full words, and its bytes that
hold an uncorrectable error (R269);
matrix state (R241 to R253), with the commands whose completed fills hold their follow-ons, and how many of these a freeze held back (R252); key/value requests not yet examined (R348, R401); stash tags by bank × 512 + sector: (backing address bits [55:16],
state) (R270); A-tile state (R311 to R318), and the cycle from which a
tile that a wave step has freed takes tokens (R17). -/
structure Tile where
  woken   : Bool := false
  s       : Vector Word 16 := Vector.replicate 16 0
  q       : Vector Bool 8 := (Vector.replicate 8 false).set 0 true
  v       : Tab Lanes := []
  m       : Vector Word 8 := (Vector.replicate 8 0).set 0 (BitVec.allOnes 64)
  fifo    : Tab (List Tok) := []
  demand  : Tab Nat := []
  chains  : Tab Chain := []
  lastSlot : Option Nat := none
  firing  : Option Firing := none
  frozen  : Option FaultRec := none
  disabled : List Nat := []
  gens    : Tab Nat := []
  sram    : List Host.Cell := []
  full    : List Nat := []
  bad     : List Nat := []
  limit   : Nat := 0
  stash   : Tab (Nat × Nat) := []
  prec    : Nat := 0
  banks   : Tab (Tab Cell) := []
  panels  : Tab Panel := []
  cursor  : Cursor := {}
  mq      : List MEntry := []
  fwait   : List Nat := []
  ahead   : Nat := 0
  pats    : Tab Pat := []
  nextTag : Tab Nat := []
  eddy    : List Eddy := []
  fronts  : List Nat := []
  acted   : Bool := false
  takesAt : Nat := 0
  saved   : Tab (List Tok) := []
  kv      : List Tok := []
  deriving DecidableEq, Repr

/-- Where an instance stands between placement and unloading (R157, R402 to R405). -/
inductive Phase where
  | loading | running | idle
  deriving DecidableEq, Repr

/-- A request of a CTWAIT at the region controller (R207). -/
structure CtReq where
  line   : Nat
  core   : Nat
  rid    : Nat
  n      : Nat
  served : Bool := false
  deriving DecidableEq, Repr

/-- A placed instance (R41, R42, R156, R157). -/
structure Inst where
  num     : Nat := 0
  part    : Nat := 0
  occ     : Nat := 0
  vf      : Nat := 0
  cfg     : Nat := 0
  bindId  : Nat := 0
  img     : Image := {}
  x0      : Nat := 0
  y0      : Nat := 0
  phase   : Phase := .running
  keep    : Bool := false
  argva   : Word := 0
  cga     : Option Nat := none
  cval    : Word := 0
  parent  : Option Nat := none
  child   : Bool := false
  kids    : Nat := 0
  firstFault : Option Nat := none
  idleAt  : Nat := 0
  tiles   : Tab Tile := []
  links   : Tab Link := []
  lines   : Tab Nat := []
  lineMsgs : List (Nat × Option Nat) := []
  ctreqs  : List CtReq := []
  bpc     : Nat := 0
  deriving DecidableEq, Repr

/-! ### Partitions (R146 to R153, R174, R175, R276, R286, R325, R326, R381, R388) -/

/-- A record-pool entry (R174): its generation and its record, parked or runnable. -/
structure PoolEntry where
  gen : Nat := 0
  rc  : Option Rec := none
  deriving DecidableEq, Repr

/-- A caravan (R50, R201): its instance, its members, and the arrivals of the current round with
the pool entry and the core of each. -/
structure Caravan where
  inst    : Nat
  members : List Word := []
  arrived : List (Word × Nat × Nat) := []
  deriving DecidableEq, Repr

/-- A retention register (R276). -/
structure Retain where
  active : Bool := false
  base   : Nat := 0
  len    : Nat := 0
  w      : Nat := 0
  ovf    : Nat := 0
  deriving DecidableEq, Repr

/-- A waiting access of a stream's home (R292): its number and since when it waits; for an access of an
A-tile also its occupant, offset, length, and the bytes it stores with their mask; for one of a party on another
module (R299) the link that brought it and what it asks. -/
structure StreamWait where
  op    : Nat
  since : Nat
  tile  : Bool := false
  occ   : Nat := 0
  off   : Nat := 0
  n     : Nat := 0
  data  : Option (Nat × Nat) := none
  via   : Option (Nat × LlStream) := none
  deriving DecidableEq, Repr

/-- A reader slot of a stream (R287, R294). `own` names a VF where `host` holds, else an
occupant slot. -/
structure Slot where
  att   : Bool := false
  host  : Bool := false
  gen   : Bool := false
  gsel  : Nat := 0
  own   : Nat := 0
  curd  : Nat := 0
  toe   : Nat := 0
  deriving DecidableEq, Repr

/-- A stream (R287, R298): the descriptor's fields, its slots, the waiting accesses, those held while the list is
full (R292), the
A-tile accesses answered since (number, fault code or 0, value), the pages of its frames that have moved (source,
size, destination; R153), and its control-page state. -/
structure Stream where
  bk     : Nat := 0
  f      : Nat := 0
  wm1    : Nat := 0
  sc     : Nat := 0
  stalle : Nat := 20
  hsel   : Nat := 0
  fbase  : Nat := 0
  tslot  : Nat := 0
  stoe   : Nat := 0
  crest  : Nat := 0
  slots  : Tab Slot := []
  waits  : List StreamWait := []
  held   : List StreamWait := []
  served : List (Nat × Nat × Nat) := []
  reloc  : List (Nat × Nat × Nat) := []
  moved  : Nat := 0
  lzero  : Nat := 0
  sdisc  : Nat := 0
  lost   : Bool := false
  deriving DecidableEq, Repr

/-- A binding (R137): the image and the number that tells it from the images it replaces. -/
structure Binding where
  img : Image
  id  : Nat
  deriving DecidableEq, Repr

/-- A launch packet on its way (R131, R135, R141). -/
structure Packet where
  prio   : Nat := 0
  cfg    : Nat := 0
  argva  : Word := 0
  cga    : Nat := 0
  cval   : Word := 0
  parent : Nat := 0xFFFFFFFF
  seq    : Nat := 0
  rsv    : Option Nat := none
  vf     : Nat := 0
  child  : Bool := false
  bind   : Option Binding := none
  until_ : Nat := 0
  deriving DecidableEq, Repr

/-- A fault post (R381): its record, the trap continuation it releases, the core that took the trap
(none: the injection queue), whether the post has begun to wait, and the pool entry that the continuation has taken
over from a parked record (R176, R375). -/
structure Post where
  fr   : FaultRec
  cont : Option Rec := none
  core : Option Nat := none
  wait : Bool := false
  entry : Option Nat := none
  deriving DecidableEq, Repr

/-- A run that is off its core: saved beyond the maximum run length (R396), or stopped by BRK on the core that its record
names (R210). -/
structure SavedRun where
  core : Nat
  run  : Run
  brk  : Option Nat := none
  deriving DecidableEq, Repr

/-- A slice setting (R388). -/
structure SliceCfg where
  mode : Nat := 0
  len  : Nat := 1000000
  cap  : Nat := 0
  deriving DecidableEq, Repr

/-- A front in progress (R388 to R390): the occupant slot that takes the rectangle next, the maximum run
length as it stood when the front began, and, for PRESIZE, that the rectangle changes when the sweep is complete. -/
structure Front where
  dst     : Nat
  mrl     : Nat
  presize : Option (List Word) := none
  deriving DecidableEq, Repr

/-- A partition (R146, R148). -/
structure Part where
  bx      : Nat := 0
  byy     : Nat := 0
  bw      : Nat := 1
  bh      : Nat := 1
  colours : Nat := 0
  slices  : Nat := 0
  cores   : Nat := 0
  occs    : Nat := 1
  csl     : Nat := 0
  key     : Nat := 0
  podKey  : Option Nat := none
  podWait : Bool := false
  podAsked : Bool := false
  definer : Option Nat := none
  spacw   : Nat := 0x01010101
  serial  : Nat := 0
  queue   : List Packet := []
  inj     : List Rec := []
  ready   : List Rec := []
  rheld   : List Rec := []
  pool    : Tab PoolEntry := []
  caravans : Tab Caravan := []
  fq      : Option (Nat × Nat) := none
  fmask   : Nat := 0
  posts   : List Post := []
  cur     : Nat := 0
  sliceAt : Nat := 0
  sliceBpc : Nat := 0
  sliceNow : SliceCfg := {}
  slicing : Tab SliceCfg := []
  mrl     : Nat := 65536
  front   : Option Front := none
  saved   : List SavedRun := []
  wsaved  : List (Nat × Nat × Nat) := []
  placing : Option Nat := none
  tpages  : Nat := 0
  pages   : List Page := []
  stable  : Option (Nat × Nat) := none
  streams : Tab Stream := []
  counters : Tab (Nat × Nat) := []
  retain  : Tab Retain := []
  srCtr   : Tab Nat := []
  classPtr : Tab Nat := []
  deriving DecidableEq, Repr

/-! ### Virtual functions and ingress ports (R125, R133 to R142, R297) -/

/-- An alias window or control page in a VF's BAR2 (R297, R298). -/
structure Window where
  offset : Nat
  stream : Nat
  size   : Nat := 0
  ctl    : Bool := false
  deriving DecidableEq, Repr

/-- The completion record of an aborted instance that is still to be written: its number, where and what, its detail and its
parent (R51, R387). -/
structure Owed where
  num    : Nat
  cga    : Option Nat
  cval   : Word
  detail : Nat := 0
  parent : Option Nat := none
  deriving DecidableEq, Repr

/-- An assigned virtual function (R125); while VFTEAR drains it, when the drain ends and the completions
due for its stopped instances, and for aborted instances of which those are children (R51, R387). -/
structure Vf where
  part    : Nat := 0
  hport   : Nat := 0
  nports  : Nat := 1
  table   : Tab Binding := []
  park    : List Packet := []
  timeout : Nat := 1000000
  kids    : List Packet := []
  windows : List Window := []
  status  : Nat := 0
  closing : Option Nat := none
  stopped : List Owed := []
  deriving DecidableEq, Repr

/-- An ingress port (R133, R134): the tokens of the packet being assembled, the complete packets,
DROPS and ESEQ. -/
structure IPort where
  toks  : List Word := []
  full  : List (List Word) := []
  drops : Nat := 0
  eseq  : Nat := 0
  deriving DecidableEq, Repr

/-! ### Operations under way -/

/-- Which class counter an operation counts in (R193). -/
inductive Cls where
  | ldc | stc | cpc | pnc
  deriving DecidableEq, Repr

/-- An operation's act at its home. -/
inductive Act where
  | load (n : Nat) (signed : Bool) (plain : Bool)
  | store (n : Nat) (v : Word)
  | sync (keep : Bool)
  | rmw (op : AtomOp) (b d : Word)
  | value (v : Word)
  | stream (op : Nat) (k : Nat) (arg : Word) (flag : Bool)
  | cnew | cjoin (c : Word) | cleave (c : Word) | cfree (c : Word)
  | waita (expected : Word) (r : Rec)
  | cache (f : Nat) (base len : Nat) (w : Nat) (scope : Scope) (inv : Bool)
  | post (vf : Nat) (p : Packet)
  deriving DecidableEq, Repr

/-- Where an operation stands: on its way to its home, waiting or held there, performed with a
value to return, or faulted. -/
inductive OpSt where
  | issued | waiting | done (v : Word) | faulted (f : FaultRec)
  deriving DecidableEq, Repr

/-- One operation of a run that completes later (R188 to R193): the core and run that issued it,
its partition and instance, its addresses, its destination register, its class counter, its cache
hint, the page it was translated through, whether its run was a trap
continuation (R385), and for a synchronising load that waits the bias of its page as it began to (R128) and when it arrived (R365). -/
structure Pend where
  id    : Nat
  core  : Nat
  rid   : Nat
  part  : Nat
  inst  : Nat
  widx  : Nat := 0
  word  : Nat := 0
  va    : Word := 0
  ga    : Nat := 0
  dst   : Nat := 0
  cls   : Cls
  acq   : Bool := false
  act   : Act
  st    : OpSt := .issued
  fp    : Word := 0
  arg   : Word := 0
  die   : Nat := 0
  hint  : Hint := .normal
  page  : Option Page := none
  trapc : Bool := false
  bias  : Bool := false
  stamp : Nat := 0
  deriving DecidableEq, Repr

/-- An engine command (R316 to R323): the captured registers, its A-tile, and its progress: accepted,
the row and element that move next, the row's index entry, the stream cursor it took, a row of a
stream source, whether its run was a trap continuation (R385), the first token of its random words (R318), the elements that are moving, those being replayed (R333) and the groups being gathered, and for PLD and PDR whether the
reservation or the read has reached the slot, the panel rows held and the rows filled. -/
structure Cmd where
  id    : Nat
  core  : Nat
  rid   : Nat
  part  : Nat
  key   : Nat
  num   : Nat
  widx  : Nat := 0
  op    : Nat
  port  : Nat := 0
  flag  : Bool := false
  src   : Word := 0
  dst   : Word := 0
  shape : Word := 0
  ctl   : Word := 0
  x     : Option Word := none
  desc  : Option Word := none
  cls   : Nat := 0
  pos   : Nat := 0
  acc   : Bool := false
  r     : Nat := 0
  c     : Nat := 0
  idx   : Option Int := none
  cur   : Option Nat := none
  srow  : Option (List Nat) := none
  sr    : Nat := 0
  chunk : Option Chunk := none
  back  : List Chunk := []
  gather : List Gather := []
  resv  : Bool := false
  rows  : List (Nat × Lanes) := []
  fill  : Nat := 0
  st    : OpSt := .issued
  fp    : Word := 0
  arg   : Word := 0
  trapc : Bool := false
  deriving DecidableEq, Repr

/-- A service call (R143): who submitted it, for a run its occupant slot, and where its block is; for a call that has begun and waits,
its block's global address and words, its phase, and the pages or numbers that its rest needs. -/
structure Call where
  part  : Nat
  occ   : Nat := 0
  vf    : Option Nat := none
  host  : Bool := false
  hport : Nat := 0
  va    : Nat := 0
  ga    : Nat := 0
  words : List Word := []
  phase : Nat := 0
  work  : List Nat := []
  deriving DecidableEq, Repr

/-- A monitor (R372 to R374): its word, when it was armed, and the parked records: partition, pool entry, core. -/
structure Monitor where
  ga     : Nat
  armed  : Nat := 0
  parked : List (Nat × Nat × Nat) := []
  deriving DecidableEq, Repr

/-- A slice move (R152, R153). -/
structure Move where
  id    : Nat
  part  : Nat
  va    : Nat
  src   : Nat
  dst   : Nat
  size  : Nat
  moved : Bool := false
  deriving DecidableEq, Repr

/-! ### Caches (R268 to R283, R127) -/

/-- A line of a control core's L1 (R273): MESI as 0 to 3 for I, S, E, M, one state for the line or
one for each 64-byte half; most recently used lines stand first. -/
structure L1Line where
  ga : Nat
  lo : Nat
  hi : Nat
  deriving DecidableEq, Repr

/-- A line of an L2 (R274 to R276): valid and dirty sectors as bit masks, MESI of the halves of a
host line, its retention mark (partition, register), and its way. -/
structure L2Line where
  ga    : Nat
  valid : Nat := 0
  dirty : Nat := 0
  half  : Tab Nat := []
  mark  : Option (Nat × Nat) := none
  way   : Nat := 0
  deriving DecidableEq, Repr

/-- A line of a read-only fabric cache (R279), with the data it was filled with. -/
structure FLine where
  part : Nat
  ga   : Nat
  data : List Byte
  deriving DecidableEq, Repr

/-- The caches of the module: L1s by core; L2s, fabric caches and last-level TLBs by die; micro-TLBs by
A-tile. A TLB entry is a partition and the VA and size of a page (R328). -/
structure Caches where
  l1  : Tab (List L1Line) := []
  l2  : Tab (List L2Line) := []
  fab : Tab (List FLine) := []
  tlb  : Tab (List (Nat × Nat × Nat)) := []
  utlb : Tab (List (Nat × Nat × Nat)) := []
  deriving DecidableEq, Repr

/-! ### Boot, trust and host (R21 to R40, R124 to R130) -/

/-- The boot pair and the service unit's own state (R21 to R32, R40); `mism` is the register's MISM and
`mismAll` the mismatches of this power-on, `owners` the owner keys of the settings block, `window` counts the
complete power windows, `waveAt` is when the last wave step was, and `logOvf` says that an extension has found
the measurement log full. -/
structure Boot where
  stage   : Nat := 0
  slotB   : Bool := false
  failc   : Nat := 0
  sac     : Nat := 0
  sbc     : Nat := 0
  mism    : Nat := 0
  mismAll : Nat := 0
  svn     : Nat := 0
  flash   : Flash := Config.flash
  mr      : List Nat := [0, 0, 0, 0, 0, 0, 0, 0]
  log     : List (List Byte) := []
  modnum  : Nat := 0
  pod     : List Nat := []
  accepted : List (List Nat) := []
  owners  : List Nat := []
  capw    : Nat := 0x1770
  measw   : Nat := 0
  thr     : Nat := 0
  window  : Nat := 0
  waveRot : Nat := 0
  waveAt  : Option Nat := none
  logOvf  : Bool := false
  deriving DecidableEq, Repr

/-- An SPDM exchange (R33): the secret of a key exchange, and whether FINISH has made it a session. -/
structure Spdm where
  secret   : Option Nat := none
  open_    : Bool := false
  deriving DecidableEq, Repr

/-- One host port: its SPDM exchange, its IDE streams (key, running), the messages sent through it, and
the acceptance status of its function 0. -/
structure HPort where
  spdm   : Spdm := {}
  ide    : Tab (List Byte × Bool) := []
  out    : List (List Byte) := []
  doorbell : Nat := 0
  deriving DecidableEq, Repr

/-- A message of no partition (R38): inside an SPDM session of a secret, the request for a partition's pod key with MR0 to
MR4, the key itself, or its refusal (R37); that a token was dropped (R337); or that a switch die is lost (R344). -/
inductive LlMsg where
  | podAsk (part secret : Nat) (mrs : List Nat)
  | podKey (part secret key : Nat)
  | podNo (part secret : Nat)
  | dropped
  | lost (die : Nat)
  deriving DecidableEq, Repr
/-- What the module sends over a Llynren link (R37, R38, R335 to R338, R344): its share of a key exchange with
its signature; a message of no partition, under the link key; under a partition's traffic key the answer to a token
(a fault code or 0, and a value), or a token with its partition, its route tag and its request. -/
inductive LlOut where
  | share (bytes : List Byte)
  | manage (key : Option Nat) (m : LlMsg)
  | answer (key : Option Nat) (code value : Nat)
  | token (part : Nat) (key : Option Nat) (tag : Nat) (req : LlReq)
  deriving DecidableEq, Repr

/-- Units that a receiver has granted (R339, R340): to an access of a partition, named by its operation, a tag and its address;
or, under operation 0, to another module's demand of a class, the tag. -/
structure Grant where
  recv  : Nat
  part  : Nat
  op    : Nat
  tag   : Nat
  va    : Nat := 0
  units : Nat
  deriving DecidableEq, Repr

/-- A Llynren link (R38, R335 to R340): the module at its other end, its key and the key before a re-key
that the peer has not acknowledged, the flits that came and the flits that went under the key, the tokens
dropped for their partition, the flits whose tags failed, how often the link has been retrained, and what
has been sent. -/
structure LLink where
  peer   : Option Nat := none
  key    : Option Nat := none
  oldKey : Option Nat := none
  count  : Nat := 0
  sent   : Nat := 0
  drops  : Nat := 0
  bad    : Nat := 0
  retrained : Nat := 0
  out    : List LlOut := []
  deriving DecidableEq, Repr

/-- An oasis allocation of this module (R342 to R346): its partition, its switch die, its granules by
global address, its VA, the modules that hold a copy of it, primary first, whether an OFREE of it is under
way, and the ranges of the pages that the OFREE has unmapped. -/
structure OAlloc where
  part    : Nat
  die     : Nat
  gas     : List Nat
  va      : Nat
  copies  : List Nat
  freeing : Bool := false
  cut     : List (Nat × Nat) := []
  deriving DecidableEq, Repr

/-- A granule of another module's allocation whose mirror this module holds (R343): its partition, its global address, and
whether this module has become the primary (R347). -/
structure OMirror where
  part    : Nat
  ga      : Nat
  primary : Bool := false
  deriving DecidableEq, Repr

/-- Oasis memory's bookkeeping (R341 to R347): quotas by partition × 4 + die, the allocations, the mirrors held for
other modules, and the lost dies of the pod by module and die. -/
structure Oasis where
  quota  : Tab Nat := []
  allocs : List OAlloc := []
  mirrors : List OMirror := []
  lost   : List (Nat × Nat) := []
  deriving DecidableEq, Repr

/-- A synchronising load of another module's that waits here until its word is full (R365): when it arrived, the link that
brought it, its partition, its word, whether it leaves the word full, and whether the word's page was in host bias. -/
structure FarSync where
  stamp : Nat
  link  : Nat
  part  : Nat
  ga    : Nat
  keep  : Bool
  bias  : Bool
  deriving DecidableEq, Repr

/-- A token that waits for a link to carry it (R38, R335): its module, its plane, its partition, its route tag and its
request. -/
structure LlWait where
  module : Nat
  plane  : Nat
  part   : Nat
  tag    : Nat
  req    : LlReq
  deriving DecidableEq, Repr

/-- The state of the module. `cyc` is SCYC (R102). `mem` lists the bytes of HBM, oasis and host
memory by global address (R266), `full` the full-empty words that are full and `bad` the bytes that hold an
uncorrectable error (R269); partitions by
number, VFs by number, ingress ports by number, cores by module core number, instances by
partition × 8 + occupant slot; `bias` lists pages by number: in host bias, and 0 or, while a page is flipping, the first operation number that is new
to the flip (R126, R128); `compls` lists the completion records that wait for a flip to end (R128, R132);
`rim` names the partition whose tokens each A-tile's rim stop carries, by side × 128 + module row (R149);
`peers` holds the secret of the SPDM session with another module's service unit (R37); `outbox` the tokens that wait for
a link in the order of their leaving, `grants` the units granted for what is still to travel (R339), `syncs` the loads of
other modules that wait for full words (R365); `svcNext` is the
partition that the service unit looks at first (R143). -/
structure State where
  sched  : Sched := {}
  cyc    : Nat := 0
  boot   : Boot := {}
  hports : Tab HPort := []
  vfs    : Tab Vf := []
  ports  : Tab IPort := []
  parts  : Tab Part := []
  cores  : Tab Core := []
  insts  : Tab Inst := []
  mem    : List Host.Cell := []
  full   : List Nat := []
  bad    : List Nat := []
  pends  : List Pend := []
  cmds   : List Cmd := []
  calls  : Tab (List Call) := []
  mons   : Tab (List Monitor) := []
  moves  : List Move := []
  caches : Caches := {}
  links  : Tab LLink := []
  oasis  : Oasis := {}
  bias   : Tab (Bool × Nat) := []
  drbg   : Nat := 0
  bindNo : Nat := 0
  rot    : Tab Nat := []
  compls : List (Nat × List Byte) := []
  rim    : Tab Nat := []
  peers  : Tab Nat := []
  outbox : List LlWait := []
  grants : List Grant := []
  syncs : List FarSync := []
  svcNext : Nat := 0
  deriving DecidableEq, Repr

/-- The module right after power-on reset (R24, R26, R30): boot begins at stage 0, nothing is
defined, every register is at the value of its default above. -/
def State.reset : State := {}

end Sys2Proof.Machine
end

