-- ==== Sys2Proof/Machine/Ops.lean ====
section
/-!
DEFINITION. The named operations over memory, registers, records and faults that the meanings
share: memory in its canonical form (R2, R266, R269), the general registers (R103), deques and the
record pool (R171 to R177), translation (R326 to R331), and taking a trap (R190, R380, R384).
-/
namespace Sys2Proof.Machine

/-- What a meaning answers. -/
abbrev Out := Host.Outcome State Fault Refusal

/-! ### Memory: a sorted list of the bytes that are not zero -/

/-- What a byte of memory reads as that nothing has written (DESIGN CHOICE, log entry 10). -/
def unwritten : Byte := 0

/-- Memory in its canonical form: addresses strictly rising, no entry equal to `unwritten`. -/
def memWf : List Host.Cell → Bool
  | [] => true
  | [(_, b)] => decide (b ≠ unwritten)
  | (a, b) :: (a', b') :: m => decide (a < a') && decide (b ≠ unwritten) && memWf ((a', b') :: m)

/-- Reads one byte. -/
def memGet : List Host.Cell → Nat → Byte
  | [], _ => unwritten
  | (k, b) :: m, a => if k = a then b else if a < k then unwritten else memGet m a

/-- Writes one byte, keeping the canonical form. -/
def memPut : List Host.Cell → Nat → Byte → List Host.Cell
  | [], a, v => if v = unwritten then [] else [(a, v)]
  | (k, b) :: m, a, v =>
    if a < k then (if v = unwritten then (k, b) :: m else (a, v) :: (k, b) :: m)
    else if a = k then (if v = unwritten then m else (a, v) :: m)
    else (k, b) :: memPut m a v

/-- Reads n bytes, lowest address first. -/
def memGets (m : List Host.Cell) : Nat → Nat → List Byte
  | _, 0 => []
  | a, n + 1 => memGet m a :: memGets m (a + 1) n

/-- Writes bytes from an address up. -/
def memPuts (m : List Host.Cell) (a : Nat) : List Byte → List Host.Cell
  | [] => m
  | b :: bs => memPuts (memPut m a b) (a + 1) bs

/-- Reads n bytes as a little-endian number (R2). -/
def memRead (m : List Host.Cell) (a n : Nat) : Nat := ofBytes (memGets m a n)

/-- Writes n bytes of a number, little-endian (R2). -/
def memWrite (m : List Host.Cell) (a n v : Nat) : List Host.Cell := memPuts m a (toBytes n v)

/-- Inserts a number into a strictly rising list. -/
def insN : Nat → List Nat → List Nat
  | a, [] => [a]
  | a, k :: l => if a < k then a :: k :: l else if a = k then k :: l else k :: insN a l

/-- Removes a number from a strictly rising list. -/
def remN (a : Nat) (l : List Nat) : List Nat := l.filter (fun k => decide (k ≠ a))

/-! ### Reading and replacing the parts of the state -/

/-- A control core (R13). -/
def State.core (s : State) (n : Nat) : Core := getTD s.cores n {}
/-- Replaces a control core. -/
def State.setCore (s : State) (n : Nat) (c : Core) : State := { s with cores := putT s.cores n c }
/-- A partition, if defined. -/
def State.part (s : State) (p : Nat) : Option Part := getT s.parts p
/-- Replaces a partition. -/
def State.setPart (s : State) (p : Nat) (x : Part) : State := { s with parts := putT s.parts p x }
/-- Changes a partition, if defined. -/
def State.modPart (s : State) (p : Nat) (f : Part → Part) : State :=
  match s.part p with
  | some x => s.setPart p (f x)
  | none => s
/-- The instance in an occupant slot, by partition × 8 + slot. -/
def State.inst (s : State) (k : Nat) : Option Inst := getT s.insts k
/-- Replaces an instance. -/
def State.setInst (s : State) (k : Nat) (i : Inst) : State := { s with insts := putT s.insts k i }
/-- Changes an instance, if there is one. -/
def State.modInst (s : State) (k : Nat) (f : Inst → Inst) : State :=
  match s.inst k with
  | some x => s.setInst k (f x)
  | none => s
/-- Replaces a core's run. -/
def State.setRun (s : State) (n : Nat) (r : Option Run) : State :=
  s.setCore n { s.core n with run := r }
/-- Replaces memory. -/
def State.setMem (s : State) (m : List Host.Cell) : State := { s with mem := m }
/-- Draws the next free value (DESIGN CHOICE, log entry 2). -/
def State.free (s : State) : Nat × State :=
  (Config.freeNat s.sched.free, { s with sched := { s.sched with free := s.sched.free + 1 } })
/-- Draws the next operation number. -/
def State.fresh (s : State) : Nat × State :=
  (s.sched.next, { s with sched := { s.sched with next := s.sched.next + 1 } })
/-- The i-th unit number of the turn that is moving. -/
def State.arg (s : State) (i : Nat) : Nat := s.sched.args.getD i 0
/-- Whether IDE is established on a host port: one of its streams runs (R39). -/
def State.ideUp (s : State) (port : Nat) : Bool := (getTD s.hports port {}).ide.any fun e => e.2.2

/-- The slot key of an instance number (R42): partition × 8 + occupant slot. -/
def keyOf (num : Nat) : Nat := num / 2 ^ 25 % 128
/-- The instance that carries a number. -/
def State.instNum (s : State) (num : Nat) : Option Inst :=
  match s.inst (keyOf num) with
  | some i => if i.num = num then some i else none
  | none => none

/-! ### General registers (R103) -/

/-- Reads g[r]; g0 reads 0. -/
def Run.get (r : Run) (i : Reg) : Word := if i.val = 0 then 0 else r.regs[i]
/-- Writes g[r]; a write to g0 is discarded. -/
def Run.set (r : Run) (i : Reg) (v : Word) : Run :=
  if i.val = 0 then r else { r with regs := r.regs.set i v }
/-- Writes a register by number. -/
def Run.setN (r : Run) (i : Nat) (v : Word) : Run :=
  if h : i < 32 then r.set ⟨i, h⟩ v else r

/-- Reads the class counter of an operation (R193). -/
def Run.cnt (r : Run) : Cls → Nat
  | .ldc => r.ldc | .stc => r.stc | .cpc => r.cpc | .pnc => r.pnc
/-- Adds one to a class counter. -/
def Run.inc (r : Run) : Cls → Run
  | .ldc => { r with ldc := r.ldc + 1 }
  | .stc => { r with stc := r.stc + 1 }
  | .cpc => { r with cpc := r.cpc + 1 }
  | .pnc => { r with pnc := r.pnc + 1 }
/-- Takes one from a class counter. -/
def Run.dec (r : Run) : Cls → Run
  | .ldc => { r with ldc := r.ldc - 1 }
  | .stc => { r with stc := r.stc - 1 }
  | .cpc => { r with cpc := r.cpc - 1 }
  | .pnc => { r with pnc := r.pnc - 1 }

/-! ### The executing run, its instance and its code -/

/-- Runs a meaning on the run that is executing. -/
def onRun (s : State) (f : Nat → Run → Out) : Out :=
  match (s.core s.sched.core).run with
  | some r => f s.sched.core r
  | none => .fault .nothingExecutes

/-- The number of K-words of an instance's code (R101). -/
def Image.words (i : Image) : Nat := 8 * i.ncode
/-- The image of a run's instance. -/
def State.image (s : State) (r : Run) : Image :=
  match s.inst (keyOf r.rc.inst) with
  | some i => i.img
  | none => {}
/-- The K-word of a run at an index; beyond the code it reads 0. -/
def State.codeWord (s : State) (r : Run) (i : Nat) : Nat := (s.image r).code.getD i 0 % 2 ^ 32

/-! ### Taking a trap (R45, R190, R209, R380, R384) -/

/-- The fault record of a fault taken on a core (R380). -/
def runFault (s : State) (n : Nat) (r : Run) (code : Nat) (addr : Word) (detail : Nat) : FaultRec :=
  { inst := r.rc.inst, intrap := r.rc.trapc, code := code, widx := r.pc, src := 1, core := n
    word := s.codeWord r r.pc, addr := addr.toNat, cyc := s.cyc, detail := detail
    arg := r.get 1, fp := r.get 31 }

/-- TAKES A TRAP: the run stops issuing and ends through its fault record once its loads and stores
have completed (RUN_END); the word that faults has no other effect. -/
def trap (s : State) (n : Nat) (r : Run) (code : Nat) (addr : Word := 0) (detail : Nat := 0) : State :=
  s.setRun n (some { r with ending := some (.trap (runFault s n r code addr detail)) })

/-- Fault codes (R379). -/
abbrev cTRAP : Nat := 0x00
/-- ILLEGAL. -/
abbrev cILLEGAL : Nat := 0x01
/-- ALIGN. -/
abbrev cALIGN : Nat := 0x02
/-- ACCESS. -/
abbrev cACCESS : Nat := 0x03
/-- PAGE. -/
abbrev cPAGE : Nat := 0x04
/-- STREAM_BEHIND_TOE. -/
abbrev cBEHIND : Nat := 0x05
/-- STREAM_STALL. -/
abbrev cSTALL : Nat := 0x06
/-- STREAM_UNATTACHED. -/
abbrev cUNATTACHED : Nat := 0x07
/-- OASIS_LOST. -/
abbrev cLOST : Nat := 0x08
/-- FIRING_OVERRUN. -/
abbrev cOVERRUN : Nat := 0x0A
/-- CHANNEL. -/
abbrev cCHANNEL : Nat := 0x0B
/-- PANEL_STATE. -/
abbrev cPANEL : Nat := 0x0C
/-- PREC_ILLEGAL. -/
abbrev cPREC : Nat := 0x0D

/-- The word completes: the run goes on at the next index, or traps with ILLEGAL after the word's
own effect where that index is outside the code (R101). -/
def retire (s : State) (n : Nat) (r : Run) : State :=
  if r.pc + 1 < (s.image r).words then s.setRun n (some { r with pc := r.pc + 1 })
  else trap s n r cILLEGAL

/-- A branch, jump or call that is taken goes to an index; outside the code the word itself traps
with ILLEGAL (R101). `r'` is the run with the word's register effect. -/
def goto (s : State) (n : Nat) (r r' : Run) (target : Int) : State :=
  if 0 ≤ target ∧ target < (s.image r).words then s.setRun n (some { r' with pc := target.toNat })
  else trap s n r cILLEGAL

/-! ### Deques, the injection queue and the record pool (R171 to R177) -/

/-- The records a deque may spill (R172). -/
def spillMax : Nat := 65536

/-- Makes room on a full deque: its 128 topmost records go to the spill area, in order (R172). -/
def Deque.spilled (d : Deque) : Deque :=
  if d.hw.length < 256 then d else { spill := d.spill ++ d.hw.take 128, hw := d.hw.drop 128 }
/-- Pushes at the top: above the oldest spilled record, or onto the hardware deque; a full one spills first
(R171, R172). -/
def Deque.pushTop (d : Deque) (r : Rec) : Deque :=
  if d.spilled.spill.isEmpty then { d.spilled with hw := r :: d.spilled.hw } else { d.spilled with spill := r :: d.spilled.spill }
/-- Pushes at the bottom; a full deque spills first (R171, R172). -/
def Deque.pushBottom (d : Deque) (r : Rec) : Deque := { d.spilled with hw := d.spilled.hw ++ [r] }
/-- Whether one more push at the bottom would exceed the spill area (R172). -/
def Deque.fullBottom (d : Deque) : Bool :=
  decide (256 ≤ d.hw.length) && decide (spillMax < d.spill.length + 128)
/-- Whether one more push at the top would exceed the spill area (R172). -/
def Deque.fullTop (d : Deque) : Bool :=
  !d.spilled.spill.isEmpty && decide (spillMax < d.spilled.spill.length + 1)
/-- Reloads the most recently spilled group of up to 128 records into an empty deque (R172). -/
def Deque.reload (d : Deque) : Deque :=
  if d.hw.isEmpty then
    { spill := d.spill.take (d.spill.length - 128), hw := d.spill.drop (d.spill.length - 128) }
  else d
/-- Pops at the bottom (R171, R172). -/
def Deque.pop (d : Deque) : Option (Rec × Deque) :=
  match d.reload.hw.getLast? with
  | none => none
  | some r => some (r, { d.reload with hw := d.reload.hw.dropLast })
/-- Takes from the top (R171, R172). -/
def Deque.steal (d : Deque) : Option (Rec × Deque) :=
  match d.spill, d.hw with
  | r :: sp, _ => some (r, { d with spill := sp })
  | [], r :: h => some (r, { d with hw := h })
  | [], [] => none

/-- The deque of an occupant slot on a core. -/
def Core.deque (c : Core) (occ : Nat) : Deque := getTD c.deques occ {}
/-- Replaces a deque. -/
def Core.setDeque (c : Core) (occ : Nat) (d : Deque) : Core := { c with deques := putT c.deques occ d }

/-- The number of function 0 among the queues of the service unit (R143); no partition has it. -/
abbrev hostQueue : Nat := 12
/-- The partition of an instance number (R42). -/
def partOf (num : Nat) : Nat := num / 2 ^ 28 % 16
/-- The occupant slot of an instance number (R42). -/
def occOf (num : Nat) : Nat := num / 2 ^ 25 % 8

/-- The entries of a partition's record pool in use (R174, R176). -/
def Part.poolUsed (p : Part) : Nat :=
  (p.pool.filter (fun e => e.2.rc.isSome)).length + p.ready.length
/-- Whether the record pool has a free entry (R174). -/
def Part.poolFree (p : Part) : Bool := decide (p.poolUsed < 65536)
/-- The first free entry at or after an index, going round. -/
def poolSeek (p : Tab PoolEntry) : Nat → Nat → Nat
  | 0, i => i
  | n + 1, i => if (getTD p i {}).rc.isSome then poolSeek p n ((i + 1) % 65536) else i
/-- Places a record in a free entry; which one is open (DESIGN CHOICE, log entry 2). -/
def poolPut (s : State) (p : Nat) (r : Rec) : Nat × Nat × State :=
  match s.part p with
  | none => (0, 0, s)
  | some x =>
    let f := s.free
    let i := poolSeek x.pool (x.pool.length + 1) (f.1 % 65536)
    let e := getTD x.pool i {}
    (i, e.gen, f.2.setPart p { x with pool := putT x.pool i { e with rc := some r } })
/-- Empties an entry; its generation advances (R174). -/
def poolDel (x : Part) (i : Nat) : Part :=
  let e := getTD x.pool i {}
  { x with pool := putT x.pool i { gen := (e.gen + 1) % 65536, rc := none } }

/-- Moves records held in the pool, then those held by the region controller, into the injection
queue while it has room (R176). -/
def refill (x : Part) : Part :=
  let n := 1024 - x.inj.length
  let x := { x with inj := x.inj ++ x.ready.take n, ready := x.ready.drop n }
  let k := 65536 - x.poolUsed
  let n := 1024 - x.inj.length
  let h := x.rheld.take k
  { x with rheld := x.rheld.drop k, inj := x.inj ++ h.take n, ready := x.ready ++ h.drop n }

/-- Places a record that the device makes runnable (R176, R177): at the bottom of the deque of a core
of the partition, else in the injection queue, else in the record pool, else it is held by the core
(`hold`) or the region controller, a WAITA record that never parked among them (DESIGN CHOICE, log entry 57). -/
def runnable (s : State) (p : Nat) (core : Option Nat) (r : Rec) (hold : Bool := false) : State :=
  match s.part p with
  | none => s
  | some x =>
    let inj : State :=
      if x.inj.length < 1024 && x.ready.isEmpty then s.setPart p { x with inj := x.inj ++ [r] }
      else if x.poolFree then s.setPart p { x with ready := x.ready ++ [r] }
      else match hold, core with
        | true, some c => s.setCore c { s.core c with held := (s.core c).held ++ [r] }
        | _, _ => s.setPart p { x with rheld := x.rheld ++ [r] }
    match core with
    | some c =>
      let d := (s.core c).deque (occOf r.inst)
      if bit x.cores c && !d.fullBottom then s.setCore c ((s.core c).setDeque (occOf r.inst) (d.pushBottom r))
      else inj
    | none => inj

/-! ### Global addresses and homes (R266) -/

/-- The module of a global address. -/
def gaModule (ga : Nat) : Nat := fld ga 55 50
/-- The kind of a global address. -/
def gaKind (ga : Nat) : Nat := fld ga 49 46
/-- The offset of a global address. -/
def gaOff (ga : Nat) : Nat := ga % 2 ^ 46
/-- The mesh column of an M-tile SRAM address. -/
def gaX (ga : Nat) : Nat := fld ga 25 20
/-- The mesh row of an M-tile SRAM address. -/
def gaY (ga : Nat) : Nat := fld ga 32 26
/-- Whether an offset lies inside its kind's layout (R266). -/
def gaLegal (ga : Nat) : Bool :=
  let o := gaOff ga
  match gaKind ga with
  | 0 => decide (o < 2 ^ 40)
  | 1 => decide (o < 2 ^ 38)
  | 2 => decide (o < 2 ^ 33) && decide ((gaX ga + gaY ga) % 2 = 1)
  | 3 => decide (o < 2 ^ 40)
  | 4 => true
  | _ => false
/-- The compute die that holds a mesh position (R9). -/
def dieOf (x y : Nat) : Nat := 2 * (y / 32) + x / 32
/-- The compute die that is home to a line: the stack's die, or die 0 or 7 for a host port; for
M-tile SRAM the die of the tile (R8, R266, R374). -/
def gaDie (ga : Nat) : Nat :=
  match gaKind ga with
  | 0 => fld ga 39 36 / 2
  | 4 => if bit ga 45 then 7 else 0
  | _ => dieOf (gaX ga) (gaY ga)

/-- The tile key of a position of an instance: row × 128 + column, columns 0x40 and 0x41 being the
A-tiles (R77). -/
def tkey (y x : Nat) : Nat := y * 128 + x

/-- The instance that holds a partition's rectangle (R389). -/
def State.occupant (s : State) (p : Nat) : Option (Nat × Inst) :=
  match s.part p with
  | none => none
  | some x =>
    match s.inst (p * 8 + x.cur) with
    | some i => some (p * 8 + x.cur, i)
    | none => none

/-- The tile of the partition's occupant at a module position: the instance key and the tile key. -/
def State.tileAt (s : State) (p x y : Nat) : Option (Nat × Nat × Tile) :=
  match s.occupant p with
  | none => none
  | some (k, i) =>
    if i.x0 ≤ x ∧ i.y0 ≤ y then
      match getT i.tiles (tkey (y - i.y0) (x - i.x0)) with
      | some t => some (k, tkey (y - i.y0) (x - i.x0), t)
      | none => none
    else none

/-- Frame f of an image at a tile position (R77). -/
def Image.frame (i : Image) (f key : Nat) : Nat := getTD i.frames (f * 2 ^ 14 + key) 0
/-- The use of an M-tile's SRAM bank (R89, R269). -/
def Image.bankUse (i : Image) (key bank : Nat) : Nat := fld (i.frame 27 key) (225 + 2 * bank) (224 + 2 * bank)

/-! ### Translation (R326 to R331) -/

/-- The page that maps an address. -/
def findPage : List Page → Nat → Option Page
  | [], _ => none
  | q :: l, va => if q.va ≤ va ∧ va < q.va + q.size then some q else findPage l va

/-- Whether some page lies in the aligned region of 2^k bytes around an address. -/
def someIn (l : List Page) (va k : Nat) : Bool := l.any (fun q => decide (q.va / 2 ^ k = va / 2 ^ k))

/-- The level of the missing entry of an unmapped address (R328, R380). -/
def missingLevel (l : List Page) (va : Nat) : Nat :=
  if !someIn l va 48 then 4 else if !someIn l va 39 then 3
  else if !someIn l va 30 then 2 else if !someIn l va 21 then 1 else 0

/-- Translates an ordinary-space address of a partition (R328): the global address and the page, or
the fault code and its detail. -/
def translate (x : Part) (va : Nat) (r w : Bool) : Except (Nat × Nat) (Nat × Page) :=
  match findPage x.pages va with
  | none => .error (cPAGE, missingLevel x.pages va)
  | some q =>
    if (r && !q.r) || (w && !q.w) then .error (cACCESS, q.ga + (va - q.va))
    else .ok (q.ga + (va - q.va), q)

/-- Whether an address is neither a stream address nor canonical ordinary space (R188). -/
def nonCanonical (va : Nat) : Bool := !bit va 63 && decide (fld va 62 57 ≠ 0)

/-- Counts an event in the partition's counter slots (R325). -/
def countEvent (x : Part) (code n : Nat) : Part :=
  { x with counters := mapT (fun _ e => if e.1 = code then (e.1, (e.2 + n) % 2 ^ 64) else e) x.counters }

/-- Counts events of a partition. -/
def State.count (s : State) (p code n : Nat) : State := s.modPart p fun x => countEvent x code n

/-! ### Translation caches (R328) -/

/-- Enters a page in a TLB of n entries; which entry makes room is open (DESIGN CHOICE, log entry 2). -/
def tlbAdd (n r p : Nat) (q : Page) (l : List (Nat × Nat × Nat)) : List (Nat × Nat × Nat) :=
  (if l.length < n then l else l.eraseIdx (r % l.length)) ++ [(p, q.va, q.size)]
/-- A walk, after a miss in the last-level TLB (R325, R328). -/
def State.walk (s : State) (p : Nat) : State := (s.count p 6 1).count p 7 1
/-- Looks a page up in a die's last-level TLB; a miss walks and fills it. -/
def tlbLook (s : State) (die p : Nat) (q : Page) : State :=
  let l := getTD s.caches.tlb die []
  if l.contains (p, q.va, q.size) then s
  else
    let f := s.free
    let s := f.2.walk p
    { s with caches := { s.caches with tlb := putT s.caches.tlb die (tlbAdd 8192 f.1 p q l) } }
/-- The die of an A-tile, by side × 128 + module row (R9, R10). -/
def edgeDie (at_ : Nat) : Nat := dieOf (63 * (at_ / 128)) (at_ % 128)
/-- Looks a page up in an A-tile's micro-TLB, then in its die's last-level TLB. -/
def utlbLook (s : State) (at_ p : Nat) (q : Page) : State :=
  let l := getTD s.caches.utlb at_ []
  if l.contains (p, q.va, q.size) then s
  else
    let s := tlbLook s (edgeDie at_) p q
    let f := s.free
    { f.2 with caches := { f.2.caches with utlb := putT f.2.caches.utlb at_ (tlbAdd 64 f.1 p q l) } }
/-- Removes a range of a partition's addresses from every TLB (R331). -/
def tlbDrop (s : State) (p lo hi : Nat) : State :=
  let keep (l : List (Nat × Nat × Nat)) : List (Nat × Nat × Nat) :=
    l.filter fun (e : Nat × Nat × Nat) => !(decide (e.1 = p) && decide (e.2.1 < hi) && decide (lo < e.2.1 + e.2.2))
  { s with caches := { s.caches with tlb := mapT (fun _ l => keep l) s.caches.tlb, utlb := mapT (fun _ l => keep l) s.caches.utlb } }

/-! ### Sending over Llynren (R37, R38, R335, R336) -/

/-- The switch-die plane of a token to a global address (R336): the oasis switch die, or the one nearest the die
that carries the HBM stack. -/
def planeOf (ga : Nat) : Nat := if gaKind ga = 1 then fld ga 37 36 else 2 * (gaDie ga / 4) + gaDie ga % 2
/-- The route tag of a memory token to a module and plane (R336). -/
def memTag (module plane : Nat) : Nat := module * 2 ^ 7 + plane * 2 ^ 5
/-- The traffic key of a partition on a link (R38); its encoding of the link number is the model's own (DESIGN
CHOICE, log entry 35). -/
def trafficKey (podKey link : Nat) : Nat := Config.hkdf podKey (toBytes 1 link)
/-- A started link to a module, of a kind that a condition picks, over which flits may still go under its key (R38). -/
def State.linkWhere (s : State) (module : Nat) (pick : Nat → Bool) : Option (Nat × LLink) :=
  s.links.find? fun l => decide (l.2.peer = some module) && l.2.key.isSome && pick l.1 && decide (l.2.sent < 2 ^ 32)
/-- The started link to a module on a plane: link n stands at switch die n / 32. -/
def State.linkOn (s : State) (module plane : Nat) : Option (Nat × LLink) := s.linkWhere module fun n => decide (n / 32 = plane)
/-- Sends over a link; every flit sent counts (R38). -/
def State.sendOn (s : State) (l : Nat × LLink) (x : LlOut) : State :=
  { s with links := putT s.links l.1 { l.2 with sent := l.2.sent + 1, out := l.2.out ++ [x] } }
/-- Sends a message of no partition over a link, under the link key (R38). -/
def State.tell (s : State) (l : Nat × LLink) (m : LlMsg) : State := s.sendOn l (.manage l.2.key m)
/-- The traffic key of a partition on a link, where the module holds the pod partition key (R38). -/
def State.flowKey (s : State) (p link : Nat) : Option Nat := (s.part p).bind fun x => x.podKey.map fun k => trafficKey k link
/-- A token of a partition leaves for another module, under the partition's traffic key. None: no link carries it. -/
def State.sendToken (s : State) (module plane p tag : Nat) (req : LlReq) : Option State :=
  match s.linkOn module plane, s.part p with
  | some l, some _ => some (s.sendOn l (.token p (s.flowKey p l.1) tag req))
  | _, _ => none
/-- A token that leaves once a link carries it (DEDUCED, log entry 35). -/
def State.sendLater (s : State) (module plane p tag : Nat) (req : LlReq) : State :=
  match s.sendToken module plane p tag req with
  | some s => s
  | none => if (s.part p).isSome then { s with outbox := s.outbox ++ [{ module := module, plane := plane, part := p, tag := tag, req := req }] } else s
/-- The tokens that have waited for a link leave, in their order. -/
def State.sendWaiting (s : State) : State :=
  s.outbox.foldl (fun s w => s.sendLater w.module w.plane w.part w.tag w.req) { s with outbox := [] }
/-- A memory token leaves for a module and the plane of its address; the hardware fills its tag (R335, R336). -/
def State.sendMem (s : State) (p module ga : Nat) (req : LlReq) : Option State :=
  s.sendToken module (planeOf ga) p (memTag module (planeOf ga)) req
/-- A flit arrives over a link that the condition lets it come by (R38): nothing comes over a link that has not started, nor
once 2^32 flits have come under its key; a flit whose tag fails is dropped and counted, and the link is retrained; any
other counts, and the peer may have acknowledged a re-key. -/
def flitIn (s : State) (flit : LlFlit) (by_ : LLink → Bool) (go : LLink → State → State) : State :=
  match getT s.links flit.link with
  | none => s
  | some l =>
    if l.key.isNone ∨ 2 ^ 32 ≤ l.count ∨ by_ l = false then s
    else if !flit.tagOk || (flit.old && l.oldKey.isNone) then
      { s with links := putT s.links flit.link { l with bad := l.bad + 1, retrained := l.retrained + 1 } }
    else
      let f := s.free
      let l := { l with count := l.count + 1, oldKey := if flit.old ∨ f.1 % 2 = 0 then l.oldKey else none }
      go l { f.2 with links := putT s.links flit.link l }

/-- The SPDM session with another module's service unit, with its secret: it is opened where there is none, if the
alias keys of both ends verify (R37). -/
def State.session (s : State) (module : Nat) : Option (Nat × State) :=
  match getT s.peers module with
  | some k => some (k, s)
  | none =>
    if Config.peerAlias module then
      let k := Config.ecdh s.drbg (Config.peerShare module)
      some (k, { s with drbg := s.drbg + 1, peers := putT s.peers module k })
    else none
/-- Asks a partition's defining module for the pod partition key, where a link reaches it (R37). -/
def askPodKey (s : State) (p module : Nat) : State :=
  match s.linkWhere module fun _ => true, s.session module with
  | some l, some e => (e.2.tell l (.podAsk p e.1 (s.boot.mr.take 5))).modPart p fun x => { x with podAsked := true }
  | _, _ => s
/-- An access to oasis that waits for the pod partition key asks for it again, once (R37). -/
def askAgain (s : State) (p : Nat) : State :=
  match s.part p with
  | some x => match x.definer with
    | some m => if x.podWait && !x.podAsked then askPodKey s p m else s
    | none => s
  | none => s

/-- Answers a token of a partition over the link that brought it: a fault code or 0, and a value. -/
def State.answerOn (s : State) (link p code value : Nat) : State :=
  s.sendOn (link, getTD s.links link {}) (.answer (s.flowKey p link) code value)

/-! ### Monitors (R372 to R375) -/

/-- The table that keeps a word's monitors, by module: a die's, or 16 + the switch die's for oasis (R374). -/
def monTable (ga : Nat) : Nat := gaModule ga * 32 + if gaKind ga = 1 then 16 + fld ga 37 36 else gaDie ga

/-- Wakes every record in a list of parked records, in order. An entry 16 + m stands for a record of module m
that waits on the word of the second number for the partition of the third: a wake notice goes there (R373). -/
def wakeAll (s : State) : List (Nat × Nat × Nat) → State
  | [] => s
  | (p, i, c) :: l =>
    if 16 ≤ p then wakeAll (s.sendLater (p - 16) (planeOf i) c (memTag (p - 16) (planeOf i)) (.wake i)) l
    else match s.part p with
    | none => wakeAll s l
    | some x =>
      match (getTD x.pool i {}).rc with
      | none => wakeAll s l
      | some r => wakeAll (runnable (s.setPart p (poolDel x i)) p (some c) r) l

/-- Wakes the monitor of the word that holds an address (R373). -/
def wakeWord (s : State) (ga : Nat) : State :=
  let t := monTable ga
  let l := getTD s.mons t []
  match l.find? (fun m => decide (m.ga = ga / 8 * 8)) with
  | none => s
  | some m =>
    wakeAll { s with mons := putT s.mons t (l.filter (fun m => decide (m.ga ≠ ga / 8 * 8))) } m.parked

/-- The words that n bytes from an address touch. -/
def wordsOf (ga n : Nat) : List Nat :=
  (List.range ((ga % 8 + n + 7) / 8)).map (fun i => (ga / 8 + i) * 8)

/-! ### Memory at its homes (R266, R269, R355, R373) -/

/-- Where a kind-2 address lies: the instance key, the tile key and the tile. None, where the
partition's occupant has no such tile or the bank is a stash or stream-window bank (R269). -/
def sramAt (s : State) (p ga : Nat) : Option (Nat × Nat × Tile) :=
  match s.tileAt p (gaX ga) (gaY ga) with
  | none => none
  | some (k, tk, t) =>
    match s.inst k with
    | none => none
    | some i => if i.img.bankUse tk (fld ga 19 16) % 3 = 0 then some (k, tk, t) else none

/-- Whether the bank that a stash page names is no stash bank of the occupant's (R269, R270). -/
def stashBad (s : State) (p : Nat) (pg : Option Page) : Bool :=
  match pg with
  | some q => decide (q.attr = 1) && match s.tileAt p q.sx q.sy with
    | some (k, tk, _) => match s.inst k with
      | some i => decide (i.img.bankUse tk q.sbank ≠ 1)
      | none => true
    | none => true
  | none => false

/-- Whether the page of an address is in host bias (R126). -/
def State.hostBias (s : State) (ga : Nat) : Bool := (getTD s.bias (ga / 4096) (false, 0)).1
/-- Whether the page of an address is flipping: new accesses to it are held (R128). -/
def State.flipping (s : State) (ga : Nat) : Bool := decide ((getTD s.bias (ga / 4096) (false, 0)).2 ≠ 0)
/-- Whether the access of an operation number is new to the flip of its page; an older one goes on under the old
bias (R128). -/
def State.flipHolds (s : State) (op ga : Nat) : Bool :=
  s.flipping ga && decide ((getTD s.bias (ga / 4096) (false, 0)).2 ≤ op)

/-- The 2 MiB granule of an oasis address (R342). -/
def granuleOf (ga : Nat) : Nat := ga / 2 ^ 21 * 2 ^ 21
/-- The modules that hold a copy of an oasis address, primary first, but for lost ones (R343, R344, R347): of an allocation
of this module's as OALLOC, OPROMOTE and losses left them; of a granule whose mirror stands here, that module and this
one; of any other address its own module, and the mirror that it may have there. -/
def copiesOf (s : State) (ga : Nat) : List Nat :=
  let g := granuleOf ga
  let live (m : Nat) : Bool := !s.oasis.lost.contains (m, fld ga 37 36)
  match s.oasis.allocs.find? fun a => a.gas.contains g with
  | some a => a.copies
  | none => match s.oasis.mirrors.find? fun m => decide (m.ga = g) with
    | some m => (if m.primary then [s.boot.modnum, gaModule ga] else [gaModule ga, s.boot.modnum]).filter live
    | none => (if gaModule ga = s.boot.modnum then [s.boot.modnum] else gaModule ga :: (Config.remoteMirror g).toList).filter live
/-- The module that serves an address: of an oasis address that of its primary (R343). -/
def servedBy (s : State) (ga : Nat) : Nat := if gaKind ga = 1 then (copiesOf s ga).headD (gaModule ga) else gaModule ga
/-- The module that must apply what this module's bank, the primary, has written (R343). -/
def mirrorOf (s : State) (ga : Nat) : Option Nat :=
  if gaKind ga = 1 then match copiesOf s ga with
    | a :: m :: _ => if a = s.boot.modnum then some m else none
    | _ => none
  else none
/-- The primary's bank sends what it has written to the mirror, in its order (R343). -/
def toMirror (s : State) (p ga : Nat) (bs : List Byte) : State :=
  match mirrorOf s ga with
  | some m => s.sendLater m (planeOf ga) p (memTag m (planeOf ga)) (.apply ga bs.length (ofBytes bs))
  | none => s
/-- Whether something that a partition's writes have left for a mirror waits for a link: no write of the partition's is
performed yet (R343). -/
def mirrorOwed (s : State) (p : Nat) : Bool :=
  s.outbox.any fun w => decide (w.part = p) && match w.req with | .apply .. => true | _ => false
/-- Whether an oasis address lies on a lost switch die with no surviving copy (R344, R386). -/
def oasisLost (s : State) (ga : Nat) : Bool := decide (gaKind ga = 1) && (copiesOf s ga).isEmpty

/-- Where an access is served while its page's forwarding entry is MOVED (R152). -/
def fwdGa (s : State) (ga : Nat) : Nat :=
  match s.moves.find? fun m => m.moved && decide (m.src ≤ ga) && decide (ga < m.src + m.size) with
  | some m => m.dst + (ga - m.src)
  | none => ga

/-! ### Uncorrectable errors (R269) -/

/-- Whether some of n bytes lie in a 128-byte sector that holds an uncorrectable error. -/
def badAt (l : List Nat) (a n : Nat) : Bool := l.any fun b => decide (b / 128 * 128 < a + n) && decide (a < b / 128 * 128 + 128)
/-- The bytes in error after n bytes have been overwritten. -/
def mended (l : List Nat) (a n : Nat) : List Nat := l.filter fun b => !(decide (a ≤ b) && decide (b < a + n))
/-- The bytes in error after an error has struck the sector of an address. -/
def struck (l : List Nat) (a : Nat) : List Nat := (List.range 128).foldl (fun l j => insN (a / 128 * 128 + j) l) l

/-- A write on this module invalidates the lines of its n bytes in every die's fabric cache (R279). -/
def dropFabric (s : State) (ga n : Nat) : State :=
  { s with caches := { s.caches with fab := mapT (fun _ l => l.filter fun x => !(decide (ga / 128 * 128 ≤ x.ga) && decide (x.ga < ga + n))) s.caches.fab } }
/-- Drops the L1 copies of every line inside a range of addresses; the L2 includes them (R274). -/
def dropL1 (s : State) (lo hi : Nat) : State :=
  { s with caches := { s.caches with l1 := mapT (fun _ l => l.filter fun x => !(decide (lo ≤ x.ga) && decide (x.ga < hi))) s.caches.l1 } }
/-- The backing address of a stash sector (R270). -/
def stashGa (i back : Nat) : Nat := back * 2 ^ 16 + i % 512 * 128
/-- The homes recall the stash copies of a range of addresses: the dirty ones, or all of them (R271, R274). -/
def dropStash (s : State) (lo hi : Nat) (all : Bool) : State :=
  { s with insts := mapT (fun _ i => { i with tiles := mapT (fun _ t =>
      { t with stash := t.stash.filter fun e =>
          !(decide (lo ≤ stashGa e.1 e.2.1) && decide (stashGa e.1 e.2.1 < hi) && (all || decide (e.2.2 = 2))) }) i.tiles }) s.insts }
/-- A write at its home by an agent without a cache: the homes recall every copy of the lines of its n bytes first
(R271, R273, R279). -/
def giveUp (s : State) (ga n : Nat) : State :=
  dropStash (dropL1 (dropFabric s ga n) (ga / 128 * 128) (ga + n)) (ga / 128 * 128) (ga + n) true
/-- Whether an address is host memory behind a port without IDE, which serves no access to it (R39). -/
def portShut (s : State) (ga : Nat) : Bool := decide (gaKind ga = 4) && !s.ideUp (b2n (bit ga 45))
/-- Whether a new access to some of n bytes is held: a page of theirs is flipping (R128), or their port has no IDE
(R39). -/
def State.shut (s : State) (ga n : Nat) : Bool :=
  portShut s ga || (List.range ((ga % 4096 + n + 4095) / 4096)).any fun k => s.flipping ((ga / 4096 + k) * 4096)
/-- Whether the access of an operation number to n bytes is held so. -/
def State.opShut (s : State) (op ga n : Nat) : Bool :=
  portShut s ga || (List.range ((ga % 4096 + n + 4095) / 4096)).any fun k => s.flipHolds op ((ga / 4096 + k) * 4096)
/-- Whether an oasis access waits for the pod partition key, which was out of reach at PDEF (R37). -/
def noKey (s : State) (p ga : Nat) : Bool :=
  decide (gaKind ga = 1) && match s.part p with
    | some x => x.podKey.isNone && x.podWait
    | none => false

/-- Reads n bytes at their home; data in error fault. -/
def homeRead (s : State) (p ga n : Nat) : Except Nat Nat :=
  let ga := fwdGa s ga
  if oasisLost s ga then .error cLOST
  else if gaKind ga = 2 then
    match sramAt s p ga with
    | some (_, _, t) => if badAt t.bad (ga % 2 ^ 20) n then .error cACCESS else .ok (memRead t.sram (ga % 2 ^ 20) n)
    | none => .error cACCESS
  else if badAt s.bad ga n then .error cACCESS
  else .ok (memRead s.mem ga n)

/-- Changes a tile of an instance. -/
def Inst.setTile (i : Inst) (tk : Nat) (t : Tile) : Inst := { i with tiles := putT i.tiles tk t }

/-- Changes a tile of an instance. -/
def State.modTile (s : State) (k tk : Nat) (f : Tile → Tile) : State :=
  s.modInst k fun i => match getT i.tiles tk with
    | some t => i.setTile tk (f t)
    | none => i

/-- Writes bytes at their home; every monitor on a written word wakes (R373), and what an oasis bank writes goes to its mirror
(R343). -/
def homeWrite (s : State) (p ga : Nat) (bs : List Byte) : Except Nat State :=
  let ga := fwdGa s ga
  if oasisLost s ga then .error cLOST
  else
    let wake (s : State) : State := (wordsOf ga bs.length).foldl wakeWord s
    if gaKind ga = 2 then
      match sramAt s p ga with
      | some (k, tk, t) =>
        .ok (wake (s.modInst k (fun i => i.setTile tk { t with
          sram := memPuts t.sram (ga % 2 ^ 20) bs, bad := mended t.bad (ga % 2 ^ 20) bs.length })))
      | none => .error cACCESS
    else .ok (wake (toMirror { s.setMem (memPuts s.mem ga bs) with bad := mended s.bad ga bs.length } p ga bs))

/-- The full-empty bit of a word (R269, R278). -/
def feGet (s : State) (p ga : Nat) : Bool :=
  let ga := fwdGa s ga
  if gaKind ga = 2 then
    match sramAt s p ga with
    | some (_, _, t) => t.full.contains (ga % 2 ^ 20 / 8 * 8)
    | none => false
  else s.full.contains (ga / 8 * 8)

/-- Sets a full-empty bit. -/
def feSet (s : State) (p ga : Nat) (b : Bool) : State :=
  let ga := fwdGa s ga
  let upd (l : List Nat) (a : Nat) : List Nat := if b then insN a l else remN a l
  if gaKind ga = 2 then
    match sramAt s p ga with
    | some (k, tk, t) => s.modInst k (fun i => i.setTile tk { t with full := upd t.full (ga % 2 ^ 20 / 8 * 8) })
    | none => s
  else { s with full := upd s.full (ga / 8 * 8) }

/-! ### Operations that complete later (R180, R190, R193, R363) -/

/-- Finds a pending operation. -/
def State.pend (s : State) (id : Nat) : Option Pend := s.pends.find? (fun q => decide (q.id = id))
/-- Replaces a pending operation. -/
def State.setPend (s : State) (q : Pend) : State :=
  { s with pends := updFirst (fun x => decide (x.id = q.id)) (fun _ => q) s.pends }
/-- Removes a pending operation. -/
def State.delPend (s : State) (id : Nat) : State :=
  { s with pends := delFirst (fun x => decide (x.id = id)) s.pends }

/-- Applies f to the run numbered rid: on its core, or where it is saved. -/
def State.modRun (s : State) (core rid part : Nat) (f : Run → Run) : State :=
  match (s.core core).run with
  | some r =>
    if r.rid = rid then s.setRun core (some (f r))
    else s.modPart part (fun x => { x with saved := x.saved.map (fun v => if v.run.rid = rid then { v with run := f v.run } else v) })
  | none => s.modPart part (fun x => { x with saved := x.saved.map (fun v => if v.run.rid = rid then { v with run := f v.run } else v) })

/-- An operation leaves its class counter, releases its interlock and what waits behind its acquire
(R180, R193, R363). -/
def Run.release (r : Run) (q : Pend) : Run :=
  { r.dec q.cls with locks := r.locks.filter (fun l => decide (l.2 ≠ q.id)), hold := r.hold.filter (fun h => decide (h ≠ q.id)) }

/-- Issues an operation of the executing run: it counts in its class, interlocks its destination,
and an acquire holds later words (R180, R193, R363). -/
def issue (s : State) (n : Nat) (r : Run) (mk : Nat → Pend) : State :=
  let f := s.fresh
  let q := mk f.1
  let r := r.inc q.cls
  let r := if q.dst = 0 then r else { r with locks := r.locks ++ [(q.dst, q.id)] }
  let r := if q.acq then { r with hold := r.hold ++ [q.id] } else r
  retire { f.2 with pends := f.2.pends ++ [q] } n r

/-- A pending operation of a run, with the fields every one of them shares. -/
def mkPend (s : State) (n : Nat) (r : Run) (cls : Cls) (act : Act) (dst : Nat) (va : Word) (ga : Nat)
    (acq : Bool) (id : Nat) : Pend :=
  { id := id, core := n, rid := r.rid, part := partOf r.rc.inst, inst := r.rc.inst, widx := r.pc
    word := s.codeWord r r.pc, va := va, ga := ga, dst := dst, cls := cls, acq := acq, act := act
    fp := r.get 31, arg := r.get 1, die := n / 16, trapc := r.rc.trapc }

/-- The fault record of an operation that fails at its home (R190, R380): deferred, with the index of
the word that issued it. -/
def pendFault (s : State) (q : Pend) (code : Nat) (detail : Nat) : FaultRec :=
  { inst := q.inst, defer := true, code := code, widx := q.widx, src := 1, core := q.core, word := q.word
    addr := q.va.toNat, cyc := s.cyc, detail := detail, arg := q.arg, fp := q.fp }

/-- Where a deferred fault goes (R190, R199): to its run, or, if that run has ended, to the fault
queue with a continuation for the injection queue (R384), unless that run was itself a trap continuation (R385). -/
def deferFault (s : State) (core rid part : Nat) (f : FaultRec) (cont : Rec) (trapc : Bool) : State :=
  let here := match (s.core core).run with
    | some r => decide (r.rid = rid)
    | none => false
  let saved := match s.part part with
    | some x => x.saved.any (fun v => decide (v.run.rid = rid))
    | none => false
  if here || saved then
    s.modRun core rid part (fun r => if r.defer.isSome then r else { r with defer := some f })
  else if (s.instNum f.inst).isNone then s
  else s.modPart part (fun x => { x with posts := x.posts ++ [{ fr := { f with intrap := trapc }, cont := if trapc then none else some cont }] })

/-- The trap continuation of an instance (R384). -/
def trapRec (s : State) (num : Nat) (fp arg : Word) : Rec :=
  { arg := arg, fp := fp, inst := num, ascope := .mod, afirst := true, trapc := true
    code := match s.inst (keyOf num) with | some i => i.img.trapw | none => 0 }

end Sys2Proof.Machine
end

