-- ==== Sys2Proof/Machine/Operands.lean ====
section
/-!
DEFINITION. The operand forms of K-words: immediates and displacements (R95), effective addresses
(R188, R362, R368), and the control word of the record-creating words with its checks (R194).
-/
namespace Sys2Proof.Machine

/-- A sign-extended imm16 (R95). -/
def immS (i : BitVec 16) : Word := i.signExtend 64
/-- A zero-extended imm16 (R95). -/
def immZ (i : BitVec 16) : Word := i.setWidth 64

/-- The address of a KM word: base plus the scaled signed offset, modulo 2^64 (R95, R188). -/
def kmAddr (r : Run) (base : Reg) (size : Size) (off : BitVec 11) : Word :=
  r.get base + off.signExtend 64 * BitVec.ofNat 64 size.bytes

/-- A checked address: alignment, canonical form, translation with the permissions needed, and the
M-tile banks that plain addresses reach (R188, R269). -/
def resolve (s : State) (r : Run) (va : Word) (n : Nat) (rd wr : Bool) : Except (Nat × Nat) (Nat × Page) :=
  if va.toNat % n ≠ 0 then .error (cALIGN, 0)
  else if nonCanonical va.toNat then .error (cACCESS, 0)
  else match s.part (partOf r.rc.inst) with
    | none => .error (cPAGE, 4)
    | some x => translate x va.toNat rd wr

/-- Whether an address is a stream address (R188, R284). -/
def isStream (va : Word) : Bool := va.msb

/-- The record a control word describes, for the run's instance (R194, R200): released records run
with AFIRST set and ASCOPE at least .mod. -/
def ctlRec (r : Run) (ctl fp arg : Word) (wide : Bool) : Rec :=
  let sc := match Scope.ofCode (fld ctl.toNat 20 18) with | some s => s | none => .sys
  { arg := arg, fp := fp, inst := r.rc.inst, join := fld ctl.toNat 63 48
    ascope := if wide && decide (sc.code < 2) then .mod else sc
    afirst := wide || bit ctl.toNat 17, code := fld ctl.toNat 15 0 }

/-- CheckRec of R194: the fault code, if any. -/
def checkRec (img : Image) (ctl fp : Word) (joinOk : Bool) : Option Nat :=
  let c := ctl.toNat
  if fld c 47 21 ≠ 0 ∨ bit c 16 = true ∨ fld c 20 18 > 4 then some cILLEGAL
  else if joinOk = false ∧ fld c 63 48 ≠ 0 then some cILLEGAL
  else if fld c 15 0 ≥ img.words then some cILLEGAL
  else if bit fp.toNat 63 = true ∨ fld fp.toNat 62 57 ≠ 0 then some cACCESS
  else if fp.toNat % 8 ≠ 0 then some cALIGN
  else none

end Sys2Proof.Machine
end

