-- ==== Sys2Proof/Machine/Alu.lean ====
section
/-!
DEFINITION. Integer arithmetic of the control cores (R181 to R185): every word writes one general
register and goes on at the next index.
-/
namespace Sys2Proof.Machine

/-- A word that writes g[d] and completes (R103, R181). -/
def writes (s : State) (d : Reg) (f : Run → Word) : Out :=
  onRun s fun n r => .next (retire s n (r.set d (f r)))

/-- A word of two source registers (R181). -/
def alu2 (s : State) (d a b : Reg) (f : Word → Word → Word) : Out :=
  writes s d fun r => f (r.get a) (r.get b)
/-- A word of one source register (R181). -/
def alu1 (s : State) (d a : Reg) (f : Word → Word) : Out := writes s d fun r => f (r.get a)

/-- Shift left by B[5:0] (R181). -/
def shl64 (a b : Word) : Word := a <<< (b.toNat % 64)
/-- Logical shift right by B[5:0] (R181). -/
def shr64 (a b : Word) : Word := a >>> (b.toNat % 64)
/-- Arithmetic shift right by B[5:0] (R181). -/
def sar64 (a b : Word) : Word := a.sshiftRight (b.toNat % 64)
/-- The number of leading zero bits (R181). -/
def clz64 (a : Word) : Word := if a.toNat = 0 then 64 else BitVec.ofNat 64 (63 - Nat.log2 a.toNat)
/-- The number of one bits of the low n bits. -/
def popN : Nat → Nat → Nat
  | 0, _ => 0
  | n + 1, v => v % 2 + popN n (v / 2)
/-- The number of one bits (R181). -/
def cntb64 (a : Word) : Word := BitVec.ofNat 64 (popN 64 a.toNat)
/-- High half of the signed product (R182). -/
def mulh64 (a b : Word) : Word := BitVec.ofInt 64 (a.toInt * b.toInt / 2 ^ 64)
/-- High half of the unsigned product (R182). -/
def mulhu64 (a b : Word) : Word := BitVec.ofNat 64 (a.toNat * b.toNat / 2 ^ 64)
/-- Signed quotient toward zero; all ones for a zero divisor (R182). -/
def div64 (a b : Word) : Word :=
  if b = 0 then BitVec.allOnes 64 else BitVec.ofInt 64 (Int.tdiv a.toInt b.toInt)
/-- Unsigned quotient; all ones for a zero divisor (R182). -/
def divu64 (a b : Word) : Word := if b = 0 then BitVec.allOnes 64 else BitVec.ofNat 64 (a.toNat / b.toNat)
/-- A − B × DIV(A, B); A for a zero divisor (R182). -/
def rem64 (a b : Word) : Word := if b = 0 then a else a - b * div64 a b
/-- A − B × DIVU(A, B); A for a zero divisor (R182). -/
def remu64 (a b : Word) : Word := if b = 0 then a else a - b * divu64 a b

/-- ADD (R181). -/
def execAdd (d a b : Reg) (s : State) : Out := alu2 s d a b (· + ·)
/-- SUB (R181). -/
def execSub (d a b : Reg) (s : State) : Out := alu2 s d a b (· - ·)
/-- AND (R181). -/
def execAnd (d a b : Reg) (s : State) : Out := alu2 s d a b (· &&& ·)
/-- OR (R181). -/
def execOr (d a b : Reg) (s : State) : Out := alu2 s d a b (· ||| ·)
/-- XOR (R181). -/
def execXor (d a b : Reg) (s : State) : Out := alu2 s d a b (· ^^^ ·)
/-- ANDN (R181). -/
def execAndn (d a b : Reg) (s : State) : Out := alu2 s d a b fun x y => x &&& ~~~y
/-- SHL (R181). -/
def execShl (d a b : Reg) (s : State) : Out := alu2 s d a b shl64
/-- SHR (R181). -/
def execShr (d a b : Reg) (s : State) : Out := alu2 s d a b shr64
/-- SAR (R181). -/
def execSar (d a b : Reg) (s : State) : Out := alu2 s d a b sar64
/-- MIN (R181). -/
def execMin (d a b : Reg) (s : State) : Out := alu2 s d a b fun x y => if ltS x y then x else y
/-- MAX (R181). -/
def execMax (d a b : Reg) (s : State) : Out := alu2 s d a b fun x y => if ltS x y then y else x
/-- MINU (R181). -/
def execMinu (d a b : Reg) (s : State) : Out := alu2 s d a b fun x y => if ltU x y then x else y
/-- MAXU (R181). -/
def execMaxu (d a b : Reg) (s : State) : Out := alu2 s d a b fun x y => if ltU x y then y else x
/-- SLT (R181). -/
def execSlt (d a b : Reg) (s : State) : Out := alu2 s d a b fun x y => boolWord (ltS x y)
/-- SLTU (R181). -/
def execSltu (d a b : Reg) (s : State) : Out := alu2 s d a b fun x y => boolWord (ltU x y)
/-- SEQ (R181). -/
def execSeq (d a b : Reg) (s : State) : Out := alu2 s d a b fun x y => boolWord (decide (x = y))
/-- CLZ (R181). -/
def execClz (d a : Reg) (s : State) : Out := alu1 s d a clz64
/-- CNTB (R181). -/
def execCntb (d a : Reg) (s : State) : Out := alu1 s d a cntb64
/-- SEXTB (R181). -/
def execSextb (d a : Reg) (s : State) : Out := alu1 s d a fun x => (x.setWidth 8).signExtend 64
/-- SEXTH (R181). -/
def execSexth (d a : Reg) (s : State) : Out := alu1 s d a fun x => (x.setWidth 16).signExtend 64
/-- SEXTW (R181). -/
def execSextw (d a : Reg) (s : State) : Out := alu1 s d a fun x => (x.setWidth 32).signExtend 64
/-- ZEXTB (R181). -/
def execZextb (d a : Reg) (s : State) : Out := alu1 s d a fun x => (x.setWidth 8).setWidth 64
/-- ZEXTH (R181). -/
def execZexth (d a : Reg) (s : State) : Out := alu1 s d a fun x => (x.setWidth 16).setWidth 64
/-- ZEXTW (R181). -/
def execZextw (d a : Reg) (s : State) : Out := alu1 s d a fun x => (x.setWidth 32).setWidth 64
/-- MUL (R182). -/
def execMul (d a b : Reg) (s : State) : Out := alu2 s d a b (· * ·)
/-- MULH (R182). -/
def execMulh (d a b : Reg) (s : State) : Out := alu2 s d a b mulh64
/-- MULHU (R182). -/
def execMulhu (d a b : Reg) (s : State) : Out := alu2 s d a b mulhu64
/-- DIV (R182). -/
def execDiv (d a b : Reg) (s : State) : Out := alu2 s d a b div64
/-- DIVU (R182). -/
def execDivu (d a b : Reg) (s : State) : Out := alu2 s d a b divu64
/-- REM (R182). -/
def execRem (d a b : Reg) (s : State) : Out := alu2 s d a b rem64
/-- REMU (R182). -/
def execRemu (d a b : Reg) (s : State) : Out := alu2 s d a b remu64
/-- ADDI (R183). -/
def execAddi (d a : Reg) (imm : BitVec 16) (s : State) : Out := alu1 s d a fun x => x + immS imm
/-- ANDI (R183). -/
def execAndi (d a : Reg) (imm : BitVec 16) (s : State) : Out := alu1 s d a fun x => x &&& immZ imm
/-- ORI (R183). -/
def execOri (d a : Reg) (imm : BitVec 16) (s : State) : Out := alu1 s d a fun x => x ||| immZ imm
/-- XORI (R183). -/
def execXori (d a : Reg) (imm : BitVec 16) (s : State) : Out := alu1 s d a fun x => x ^^^ immZ imm
/-- SLTI (R183). -/
def execSlti (d a : Reg) (imm : BitVec 16) (s : State) : Out := alu1 s d a fun x => boolWord (ltS x (immS imm))
/-- SLTIU (R183). -/
def execSltiu (d a : Reg) (imm : BitVec 16) (s : State) : Out := alu1 s d a fun x => boolWord (ltU x (immS imm))
/-- SEQI (R183). -/
def execSeqi (d a : Reg) (imm : BitVec 16) (s : State) : Out := alu1 s d a fun x => boolWord (decide (x = immS imm))
/-- SHLI (R184). -/
def execShli (d a : Reg) (n : Fin 64) (s : State) : Out := alu1 s d a fun x => x <<< n.val
/-- SHRI (R184). -/
def execShri (d a : Reg) (n : Fin 64) (s : State) : Out := alu1 s d a fun x => x >>> n.val
/-- SARI (R184). -/
def execSari (d a : Reg) (n : Fin 64) (s : State) : Out := alu1 s d a fun x => x.sshiftRight n.val
/-- MOVW (R185). -/
def execMovw (d : Reg) (pos : Fin 4) (imm : BitVec 16) (s : State) : Out :=
  writes s d fun _ => immZ imm <<< (16 * pos.val)
/-- MOVK (R185). -/
def execMovk (d : Reg) (pos : Fin 4) (imm : BitVec 16) (s : State) : Out :=
  writes s d fun r => (r.get d &&& ~~~((0xFFFF : Word) <<< (16 * pos.val))) ||| (immZ imm <<< (16 * pos.val))

end Sys2Proof.Machine
end

