-- ==== Sys2Proof/Machine/Crypto.lean ====
section
/-!
DEFINITION. SHA-384 (FIPS 180-4, named by R25, R31 and R76), Philox-4x32-10 (named by R73), and AES-256 (FIPS
197) in its modes GCM (R38, R40) and XTS (R36): the spec names these functions, and their constants come from
their own standards (PRESUMED, log entry 6).
-/
namespace Sys2Proof.Machine

/-- Round constants of SHA-384. -/
def shaK : List Nat :=
  [0x428A2F98D728AE22, 0x7137449123EF65CD, 0xB5C0FBCFEC4D3B2F, 0xE9B5DBA58189DBBC,
   0x3956C25BF348B538, 0x59F111F1B605D019, 0x923F82A4AF194F9B, 0xAB1C5ED5DA6D8118,
   0xD807AA98A3030242, 0x12835B0145706FBE, 0x243185BE4EE4B28C, 0x550C7DC3D5FFB4E2,
   0x72BE5D74F27B896F, 0x80DEB1FE3B1696B1, 0x9BDC06A725C71235, 0xC19BF174CF692694,
   0xE49B69C19EF14AD2, 0xEFBE4786384F25E3, 0x0FC19DC68B8CD5B5, 0x240CA1CC77AC9C65]
  ++ [0x2DE92C6F592B0275, 0x4A7484AA6EA6E483, 0x5CB0A9DCBD41FBD4, 0x76F988DA831153B5,
   0x983E5152EE66DFAB, 0xA831C66D2DB43210, 0xB00327C898FB213F, 0xBF597FC7BEEF0EE4,
   0xC6E00BF33DA88FC2, 0xD5A79147930AA725, 0x06CA6351E003826F, 0x142929670A0E6E70,
   0x27B70A8546D22FFC, 0x2E1B21385C26C926, 0x4D2C6DFC5AC42AED, 0x53380D139D95B3DF,
   0x650A73548BAF63DE, 0x766A0ABB3C77B2A8, 0x81C2C92E47EDAEE6, 0x92722C851482353B]
  ++ [0xA2BFE8A14CF10364, 0xA81A664BBC423001, 0xC24B8B70D0F89791, 0xC76C51A30654BE30,
   0xD192E819D6EF5218, 0xD69906245565A910, 0xF40E35855771202A, 0x106AA07032BBD1B8,
   0x19A4C116B8D2D0C8, 0x1E376C085141AB53, 0x2748774CDF8EEB99, 0x34B0BCB5E19B48A8,
   0x391C0CB3C5C95A63, 0x4ED8AA4AE3418ACB, 0x5B9CCA4F7763E373, 0x682E6FF3D6B2B8A3,
   0x748F82EE5DEFB2FC, 0x78A5636F43172F60, 0x84C87814A1F0AB72, 0x8CC702081A6439EC]
  ++ [0x90BEFFFA23631E28, 0xA4506CEBDE82BDE9, 0xBEF9A3F7B2C67915, 0xC67178F2E372532B,
   0xCA273ECEEA26619C, 0xD186B8C721C0C207, 0xEADA7DD6CDE0EB1E, 0xF57D4F7FEE6ED178,
   0x06F067AA72176FBA, 0x0A637DC5A2C898A6, 0x113F9804BEF90DAE, 0x1B710B35131C471B,
   0x28DB77F523047D84, 0x32CAAB7B40C72493, 0x3C9EBE0A15C9BEBC, 0x431D67C49C100D4C,
   0x4CC5D4BECB3E42B6, 0x597F299CFC657E2A, 0x5FCB6FAB3AD6FAEC, 0x6C44198C4A475817]

/-- Initial hash value of SHA-384. -/
def shaH0 : List Nat :=
  [0xCBBB9D5DC1059ED8, 0x629A292A367CD507, 0x9159015A3070DD17, 0x152FECD8F70E5939,
   0x67332667FFC00B31, 0x8EB44A8768581511, 0xDB0C2E0D64F98FA7, 0x47B5481DBEFA4FA4]

/-- Rotation of a 64-bit number to the right. -/
def rotr64 (x n : Nat) : Nat := x / 2 ^ n + x % 2 ^ n * 2 ^ (64 - n)

/-- The small sigma functions of the message schedule. -/
def shaSigma (a b c x : Nat) : Nat := rotr64 x a ^^^ rotr64 x b ^^^ x / 2 ^ c

/-- The message schedule, newest word first: n more words from the 16 or more already there. -/
def shaSchedule : Nat → List Nat → List Nat
  | 0, w => w
  | n + 1, w =>
    let x := (shaSigma 19 61 6 (w.getD 1 0) + w.getD 6 0 + shaSigma 1 8 7 (w.getD 14 0) + w.getD 15 0) % 2 ^ 64
    shaSchedule n (x :: w)

/-- One round of the compression function. -/
def shaRound (h : List Nat) (kw : Nat × Nat) : List Nat :=
  match h with
  | [a, b, c, d, e, f, g, hh] =>
    let s1 := rotr64 e 14 ^^^ rotr64 e 18 ^^^ rotr64 e 41
    let ch := (e &&& f) ^^^ ((2 ^ 64 - 1 - e) &&& g)
    let t1 := (hh + s1 + ch + kw.1 + kw.2) % 2 ^ 64
    let s0 := rotr64 a 28 ^^^ rotr64 a 34 ^^^ rotr64 a 39
    let mj := (a &&& b) ^^^ (a &&& c) ^^^ (b &&& c)
    [(t1 + s0 + mj) % 2 ^ 64, a, b, c, (d + t1) % 2 ^ 64, e, f, g]
  | l => l

/-- The big-endian number of a list of bytes. -/
def beNat (l : List Byte) : Nat := l.foldl (fun a b => a * 256 + b.toNat) 0

/-- The 16 words of one 128-byte block, newest first. -/
def shaWords : Nat → List Byte → List Nat → List Nat
  | 0, _, acc => acc
  | n + 1, l, acc => shaWords n (l.drop 8) (beNat (l.take 8) :: acc)

/-- Compresses n blocks. -/
def shaBlocks : Nat → List Byte → List Nat → List Nat
  | 0, _, h => h
  | n + 1, l, h =>
    let w := (shaSchedule 64 (shaWords 16 (l.take 128) [])).reverse
    let r := (shaK.zip w).foldl shaRound h
    shaBlocks n (l.drop 128) (h.zipWith (fun a b => (a + b) % 2 ^ 64) r)

/-- The n bytes of v, highest first. -/
def beBytes (n v : Nat) : List Byte := (toBytes n v).reverse

/-- SHA-384: the 48 digest bytes of a message. -/
def sha384 (m : List Byte) : List Byte :=
  let z := (239 - m.length % 128) % 128
  let p := m ++ [0x80#8] ++ List.replicate z 0#8 ++ beBytes 16 (8 * m.length)
  ((shaBlocks (p.length / 128) p shaH0).take 6).flatMap (beBytes 8)

/-- MRn := SHA-384(MRn ‖ d), both held as little-endian numbers of 48 bytes (R31, R32). -/
def extendMr (mr d : Nat) : Nat := ofBytes (sha384 (toBytes 48 mr ++ toBytes 48 d))

/-- n rounds of Philox-4x32 with key (k0, k1). -/
def philoxRounds : Nat → Nat → Nat → Nat × Nat × Nat × Nat → Nat × Nat × Nat × Nat
  | 0, _, _, c => c
  | n + 1, k0, k1, (c0, c1, c2, c3) =>
    let p0 := c0 * 0xD2511F53
    let p1 := c2 * 0xCD9E8D57
    philoxRounds n ((k0 + 0x9E3779B9) % 2 ^ 32) ((k1 + 0xBB67AE85) % 2 ^ 32)
      (p1 / 2 ^ 32 ^^^ c1 ^^^ k0, p1 % 2 ^ 32, p0 / 2 ^ 32 ^^^ c3 ^^^ k1, p0 % 2 ^ 32)

/-- The four output words of Philox-4x32-10 of a 128-bit counter under a 64-bit key. -/
def philox (key ctr : Nat) : List Nat :=
  let r := philoxRounds 10 (key % 2 ^ 32) (key / 2 ^ 32 % 2 ^ 32)
    (ctr % 2 ^ 32, ctr / 2 ^ 32 % 2 ^ 32, ctr / 2 ^ 64 % 2 ^ 32, ctr / 2 ^ 96 % 2 ^ 32)
  [r.1, r.2.1, r.2.2.1, r.2.2.2]

/-- One lane of the random token whose first counter is base: word w of the token (R73). -/
def philoxWord (key base w : Nat) : Nat := (philox key ((base + w / 4) % 2 ^ 128)).getD (w % 4) 0

/-- The random token whose first counter is base (R73). -/
def philoxToken (key base : Nat) : Lanes := Vector.ofFn fun i => BitVec.ofNat 48 (philoxWord key base i.val)

/-! ### AES-256 -/

/-- Multiplication in GF(2^8) modulo AES's polynomial. -/
def gfMul (a b : Nat) : Nat :=
  ((List.range 8).foldl (fun (p : Nat × Nat) i =>
    (if bit b i then p.1 ^^^ p.2 else p.1, if p.2 < 128 then 2 * p.2 else (2 * p.2) ^^^ 0x11B)) (0, a)).1
/-- The inverse in GF(2^8), a^254; 0 stays 0. -/
def gfInv (a : Nat) : Nat := ((List.range 7).foldl (fun (p : Nat × Nat) _ => let q := gfMul p.2 p.2; (gfMul p.1 q, q)) (1, a)).1
/-- AES's substitution of a byte. -/
def aesSub (a : Nat) : Nat :=
  let x := gfInv a
  (List.range 5).foldl (fun y i => y ^^^ (x * 2 ^ i % 256 + x / 2 ^ (8 - i))) 0 ^^^ 0x63
/-- Bytes added in GF(2). -/
def xorBytes (a b : List Nat) : List Nat := a.zipWith (· ^^^ ·) b
/-- The 15 round keys of a 32-byte key, newest word first: n more words of 4 bytes. -/
def aesExpand : Nat → Nat → List (List Nat) → List (List Nat)
  | 0, _, w => w
  | n + 1, i, w =>
    let t := w.headD []
    let t := if i % 8 = 0 then
        xorBytes ((t.drop 1 ++ t.take 1).map aesSub) [(List.range (i / 8 - 1)).foldl (fun r _ => gfMul r 2) 1, 0, 0, 0]
      else if i % 8 = 4 then t.map aesSub else t
    aesExpand n (i + 1) (xorBytes (w.getD 7 []) t :: w)
/-- The words of a key's schedule, oldest first. -/
def aesKey (key : List Nat) : List (List Nat) :=
  (aesExpand 52 8 ((List.range 8).map fun i => ((key.drop (4 * i)).take 4)).reverse).reverse
/-- Round key r. -/
def roundKey (w : List (List Nat)) (r : Nat) : List Nat := ((w.drop (4 * r)).take 4).flatten
/-- The rows of a block shifted. -/
def aesShift (b : List Nat) : List Nat := (List.range 16).map fun i => b.getD ((i + 4 * (i % 4)) % 16) 0
/-- The columns of a block mixed. -/
def aesMix (b : List Nat) : List Nat := (List.range 16).map fun i =>
  let c (j : Nat) : Nat := b.getD (i / 4 * 4 + (i + j) % 4) 0
  gfMul (c 0) 2 ^^^ gfMul (c 1) 3 ^^^ c 2 ^^^ c 3
/-- AES-256 of one 16-byte block under a 32-byte key. -/
def aes (key block : List Nat) : List Nat :=
  let w := aesKey key
  let b := (List.range 13).foldl (fun b r => xorBytes (aesMix (aesShift (b.map aesSub))) (roundKey w (r + 1))) (xorBytes block (roundKey w 0))
  xorBytes (aesShift (b.map aesSub)) (roundKey w 14)

/-- Bytes as numbers. -/
def nats (l : List Byte) : List Nat := l.map fun b => b.toNat
/-- Numbers as bytes. -/
def bytesOf (l : List Nat) : List Byte := l.map fun n => BitVec.ofNat 8 n
/-- The 32 bytes of a 256-bit key, lowest first (DESIGN CHOICE, log entry 6). -/
def keyBytes (k : Nat) : List Nat := nats (toBytes 32 k)

/-! ### GCM (R38, R40) -/

/-- The big-endian number of a block. -/
def beOf (l : List Nat) : Nat := l.foldl (fun a b => a * 256 + b) 0
/-- The 16 bytes of a number, highest first. -/
def be16 (n : Nat) : List Nat := nats (beBytes 16 n)
/-- GHASH's product. -/
def ghMul (x y : Nat) : Nat :=
  ((List.range 128).foldl (fun (p : Nat × Nat) i =>
    (if bit x (127 - i) then p.1 ^^^ p.2 else p.1, if p.2 % 2 = 0 then p.2 / 2 else (p.2 / 2) ^^^ (0xE1 * 2 ^ 120))) (0, y)).1
/-- Bytes cut into n blocks of 16, the last padded with zeros. -/
def blocks16 (l : List Nat) : List (List Nat) :=
  (List.range ((l.length + 15) / 16)).map fun i => ((l.drop (16 * i)).take 16 ++ List.replicate 16 0).take 16
/-- The key stream of n bytes under a key and a 12-byte IV. -/
def gcmStream (key iv : List Nat) (n : Nat) : List Nat :=
  ((List.range ((n + 15) / 16)).flatMap fun i => aes key (iv ++ (be16 (i + 2)).drop 12)).take n
/-- The tag of associated data and ciphertext. -/
def gcmTag (key iv aad c : List Nat) : List Nat :=
  let h := beOf (aes key (List.replicate 16 0))
  let g := (blocks16 aad ++ blocks16 c ++ [be16 (aad.length * 8 * 2 ^ 64 + c.length * 8)]).foldl (fun y b => ghMul (y ^^^ beOf b) h) 0
  xorBytes (be16 g) (aes key (iv ++ [0, 0, 0, 1]))
/-- AES-256-GCM: the ciphertext of a message, with its 16-byte tag. -/
def gcmSeal (key iv : Nat) (aad m : List Byte) : List Byte :=
  let k := keyBytes key
  let v := nats (toBytes 12 iv)
  let c := xorBytes (nats m) (gcmStream k v m.length)
  bytesOf (c ++ gcmTag k v (nats aad) c)
/-- AES-256-GCM: the message, only if the tag verifies. -/
def gcmOpen (key iv : Nat) (aad l : List Byte) : Option (List Byte) :=
  let k := keyBytes key
  let v := nats (toBytes 12 iv)
  let n := l.length - 16
  let c := nats (l.take n)
  if 16 ≤ l.length ∧ bytesOf (gcmTag k v (nats aad) c) = l.drop n then some (bytesOf (xorBytes c (gcmStream k v n))) else none

/-! ### XTS (R36) -/

/-- A tweak block times x. -/
def xtsNext (t : Nat) : Nat := if t < 2 ^ 127 then 2 * t else (2 * t % 2 ^ 128) ^^^ 0x87
/-- AES-256-XTS of one data unit of 16-byte blocks under a tweak. -/
def xtsSeal (k1 k2 tweak : Nat) (m : List Byte) : List Byte :=
  let t := ofBytes (bytesOf (aes (keyBytes k2) (nats (toBytes 16 tweak))))
  (blocks16 (nats m)).zipIdx.flatMap fun e =>
    let x := nats (toBytes 16 ((List.range e.2).foldl (fun t _ => xtsNext t) t))
    bytesOf (xorBytes (aes (keyBytes k1) (xorBytes e.1 x)) x)

end Sys2Proof.Machine
end

