-- ==== Sys2Proof/Machine/Serial.lean ====
section
/-!
DEFINITION. Stream addresses and serial arithmetic (R284, R285), and a stream's derived values
(R287 to R289, R295).
-/
namespace Sys2Proof.Machine

/-- The stream number of a stream address (R284). -/
def streamNo (va : Nat) : Nat := fld va 62 48
/-- The offset of a stream address (R284). -/
def streamOff (va : Nat) : Nat := va % 2 ^ 48

/-- The serial distance from b to a, modulo 2^48 (R285). -/
def sdist (a b : Nat) : Nat := (a + 2 ^ 48 - b % 2 ^ 48) % 2 ^ 48
/-- a is ahead of b (R285). -/
def ahead (a b : Nat) : Bool := decide (0 < sdist a b) && decide (sdist a b < 2 ^ 47)
/-- a is behind b (R285). -/
def behind (a b : Nat) : Bool := decide (2 ^ 47 ≤ sdist a b)
/-- a is at or before b (R285). -/
def atOrBefore (a b : Nat) : Bool := !ahead a b
/-- The serial minimum of two values (R285). -/
def smin (a b : Nat) : Nat := if ahead a b then b else a

/-- A reader slot of a stream (R287). -/
def Stream.slot (x : Stream) (k : Nat) : Slot := getTD x.slots k {}
/-- The visible crest of a slot (R290, R295). -/
def Stream.vc (x : Stream) (k : Nat) : Nat :=
  if (x.slot k).gen then smin x.crest (x.slot (x.slot k).gsel).toe else x.crest
/-- The serial minimum of the toes of the attached slots, or none (R289). -/
def minToe : Tab Slot → Option Nat
  | [] => none
  | (_, w) :: l =>
    if w.att then (match minToe l with | none => some w.toe | some t => some (smin w.toe t)) else minToe l
/-- The number of frames of the window (R287). -/
def Stream.w (x : Stream) : Nat := x.wm1 + 1
/-- The base offset of the frame that contains STOE (R288). -/
def Stream.base (x : Stream) : Nat := x.stoe / 2 ^ x.f * 2 ^ x.f
/-- The window end (R288). -/
def Stream.wend (x : Stream) : Nat := (x.base + x.w * 2 ^ x.f) % 2 ^ 48
/-- Recomputes STOE and TSLOT (R288, R289). -/
def Stream.settle (x : Stream) : Stream :=
  let t := (minToe x.slots).getD x.crest
  let k := sdist (t / 2 ^ x.f * 2 ^ x.f) x.base / 2 ^ x.f
  { x with stoe := t, tslot := (x.tslot + k) % x.w }
/-- Where a byte of a stream's frames lies after the pages under them have moved, oldest move first (R153). -/
def relocated (l : List (Nat × Nat × Nat)) (ga : Nat) : Nat :=
  l.foldl (fun g e => if e.1 ≤ g ∧ g < e.1 + e.2.1 then e.2.2 + (g - e.1) else g) ga
/-- The global address of a backed offset (R288). -/
def Stream.addr (x : Stream) (o : Nat) : Nat :=
  relocated x.reloc (x.fbase + ((x.tslot + sdist o x.base / 2 ^ x.f) % x.w) * 2 ^ x.f + o % 2 ^ x.f)
/-- Whether a stream lives on another module (R299). -/
def State.remoteStream (s : State) (x : Stream) : Bool := decide (x.bk = 2) && decide (gaModule x.fbase ≠ s.boot.modnum)
/-- The slot that serves an occupant (R290). -/
def occSlot (l : Tab Slot) (occ : Nat) : Option Nat :=
  match l.find? (fun e => e.2.att && !e.2.host && decide (e.2.own = occ)) with
  | some e => some e.1
  | none => none
/-- The slot that a VF holds (R294). -/
def hostSlot (l : Tab Slot) (vf : Nat) : Option Nat :=
  match l.find? (fun e => e.2.att && e.2.host && decide (e.2.own = vf)) with
  | some e => some e.1
  | none => none
/-- The slot's cursor (R287). -/
def Slot.cursor (w : Slot) : Nat := (w.toe + w.curd) % 2 ^ 48

/-- A defined stream of a partition (R284, R286). -/
def Part.stream (x : Part) (n : Nat) : Option Stream :=
  match x.stable with
  | some (_, count) => if n < count then getT x.streams n else none
  | none => none

/-- The checks of a stream access at issue (R188, R284): the fault code, if any. -/
def streamCheck (x : Part) (va n : Nat) : Option Nat :=
  if va % n ≠ 0 then some cALIGN
  else match x.stream (streamNo va) with
    | none => some cACCESS
    | some w => if streamOff va / 2 ^ w.f ≠ (streamOff va + n - 1) / 2 ^ w.f then some cALIGN else none

end Sys2Proof.Machine
end

