-- ==== Sys2Proof/Machine/Memory.lean ====
section
/-!
DEFINITION. The memory words of the control cores: loads and stores (R188 to R191), the SYNCMEM
group (R362 to R365), read-modify-writes (R367 to R369), FENCE (R366), WAIT (R192) and WAITA
(R372). Each word makes its checks and issues; what happens at the home is an event.
-/
namespace Sys2Proof.Machine

/-- A word that cannot issue yet: nothing changes (R48, R179). -/
def stall (s : State) : Out := .next s

/-- The bytes of a load or store have passed their checks: the global address (0 for a stream
access, whose address its home finds), or the fault and its detail (R188, R284). -/
def accessAddr (s : State) (r : Run) (va : Word) (n : Nat) (rd wr : Bool) :
    Except (Nat × Nat) (Nat × Option Page) :=
  if isStream va then
    match s.part (partOf r.rc.inst) with
    | none => .error (cACCESS, 0)
    | some x => match streamCheck x va.toNat n with
      | some c => .error (c, if c = cACCESS then streamNo va.toNat else 0)
      | none => .ok (0, none)
  else match resolve s r va n rd wr with
    | .error e => .error e
    | .ok (ga, q) => .ok (ga, some q)

/-- The translation of an access has used its die's TLB (R328). -/
def looked (s : State) (n : Nat) (r : Run) (pg : Option Page) : State :=
  match pg with
  | some q => tlbLook s (n / 16) (partOf r.rc.inst) q
  | none => s
/-- An access that faults in translation: a missing page was walked for, and a present one looked up. -/
def missed (s : State) (n : Nat) (r : Run) (va : Word) (code : Nat) : State :=
  if code = cPAGE then s.walk (partOf r.rc.inst)
  else if code = cACCESS then
    match s.part (partOf r.rc.inst) with
    | some x => looked s n r (findPage x.pages va.toNat)
    | none => s
  else s

/-- Whether a page lets a plain load be served by the read-only fabric cache: HBM of another module or oasis,
mapped fabric-cacheable (R268, R278, R279, R326). -/
def fabricPage (s : State) : Option Page → Bool
  | none => false
  | some q => decide (q.attr = 2) && (decide (gaKind q.ga = 1) || (decide (gaKind q.ga = 0) && decide (gaModule q.ga ≠ s.boot.modnum)))

/-- The run after its first load has issued (R44). -/
def Run.loaded (r : Run) : Run := { r with first := none }

/-- LD (R188): precise faults, else the load issues and completes later; one of a stream is an acquire (R293, R358). -/
def execLd (d base : Reg) (size : Size) (signed : Bool) (hint : Hint) (off : BitVec 11) (s : State) : Out :=
  onRun s fun n r =>
    let va := kmAddr r base size off
    match accessAddr s r va size.bytes true false with
    | .error e => .next (trap (missed s n r va e.1) n r e.1 va e.2)
    | .ok (ga, pg) =>
      if 63 ≤ r.ldc then stall s else
      .next (issue (looked s n r pg) n r.loaded fun id => { mkPend s n r .ldc (.load size.bytes signed (r.first.isNone && fabricPage s pg)) d.val va ga (r.first.isSome || isStream va) id with page := pg, hint := hint })

/-- ST (R189). -/
def execSt (src base : Reg) (size : Size) (hint : Hint) (off : BitVec 11) (s : State) : Out :=
  onRun s fun n r =>
    let va := kmAddr r base size off
    match accessAddr s r va size.bytes false true with
    | .error e => .next (trap (missed s n r va e.1) n r e.1 va e.2)
    | .ok (ga, pg) =>
      if 63 ≤ r.stc then stall s else
      .next (issue (looked s n r pg) n r fun id => { mkPend s n r .stc (.store size.bytes (r.get src)) 0 va ga false id with page := pg, hint := hint })

/-- LD.ACQ (R363). -/
def execLdAcq (d base : Reg) (size : Size) (_scope : Scope) (signed : Bool) (s : State) : Out :=
  onRun s fun n r =>
    let va := r.get base
    match accessAddr s r va size.bytes true false with
    | .error e => .next (trap (missed s n r va e.1) n r e.1 va e.2)
    | .ok (ga, pg) =>
      if 63 ≤ r.ldc then stall s else
      .next (issue (looked s n r pg) n r.loaded fun id => { mkPend s n r .ldc (.load size.bytes signed false) d.val va ga true id with page := pg })

/-- ST.REL waits for the run's earlier loads and stores (R364). -/
def execStRel (src base : Reg) (size : Size) (_scope : Scope) (s : State) : Out :=
  onRun s fun n r =>
    let va := r.get base
    match accessAddr s r va size.bytes false true with
    | .error e => .next (trap (missed s n r va e.1) n r e.1 va e.2)
    | .ok (ga, pg) =>
      if r.ldc > 0 ∨ r.stc > 0 then stall s else
      .next (issue (looked s n r pg) n r fun id => { mkPend s n r .stc (.store size.bytes (r.get src)) 0 va ga false id with page := pg })

/-- Whether an M-tile address lies in a stash or stream-window bank of the instance (R269, R365). -/
def wrongBank (s : State) (r : Run) (ga : Nat) : Bool :=
  decide (gaKind ga = 2) && (sramAt s (partOf r.rc.inst) ga).isNone

/-- LDSYN and LDSYN.K (R365): `keep` leaves the word full. -/
def loadSync (s : State) (d base : Reg) (keep : Bool) : Out :=
  onRun s fun n r =>
    let va := r.get base
    if va.toNat % 8 ≠ 0 then .next (trap s n r cALIGN va)
    else if isStream va then .next (trap s n r cACCESS va)
    else match resolve s r va 8 true false with
    | .error e => .next (trap (missed s n r va e.1) n r e.1 va e.2)
    | .ok (ga, q) =>
      let pg := some q
      if (gaKind ga ≠ 0 ∧ gaKind ga ≠ 2) ∨ wrongBank s r ga = true then .next (trap (looked s n r pg) n r cACCESS va ga)
      else if 63 ≤ r.ldc then stall s else
      .next (issue (looked s n r pg) n r.loaded fun id => { mkPend s n r .ldc (.sync keep) d.val va ga true id with page := pg })
/-- LDSYN (R365). -/
def execLdsyn (d base : Reg) (_scope : Scope) (s : State) : Out := loadSync s d base false
/-- LDSYN.K (R365). -/
def execLdsynK (d base : Reg) (_scope : Scope) (s : State) : Out := loadSync s d base true

/-- The ATOM group (R368, R369). -/
def atom (s : State) (op : AtomOp) (d a b : Reg) (order : Order) : Out :=
  onRun s fun n r =>
    let va := r.get a
    if va.toNat % 8 ≠ 0 then .next (trap s n r cALIGN va)
    else if isStream va then .next (trap s n r cACCESS va)
    else match resolve s r va 8 true true with
    | .error e => .next (trap (missed s n r va e.1) n r e.1 va e.2)
    | .ok (ga, q) =>
      let pg := some q
      if gaKind ga = 3 ∨ wrongBank s r ga = true then .next (trap (looked s n r pg) n r cACCESS va ga)
      else if (order = .rel ∨ order = .acqRel) ∧ (r.ldc > 0 ∨ r.stc > 0) then stall s
      else if 63 ≤ r.ldc then stall s else
      let acq := decide (order = .acq) || decide (order = .acqRel) || r.first.isSome
      .next (issue (looked s n r pg) n r.loaded fun id => { mkPend s n r .ldc (.rmw op (r.get b) (r.get d)) d.val va ga acq id with page := pg })
/-- AADD (R368). -/
def execAadd (d a b : Reg) (_sc : Scope) (o : Order) (s : State) : Out := atom s .add d a b o
/-- AAND (R368). -/
def execAand (d a b : Reg) (_sc : Scope) (o : Order) (s : State) : Out := atom s .and d a b o
/-- AOR (R368). -/
def execAor (d a b : Reg) (_sc : Scope) (o : Order) (s : State) : Out := atom s .or d a b o
/-- AXOR (R368). -/
def execAxor (d a b : Reg) (_sc : Scope) (o : Order) (s : State) : Out := atom s .xor d a b o
/-- AMIN (R368). -/
def execAmin (d a b : Reg) (_sc : Scope) (o : Order) (s : State) : Out := atom s .min d a b o
/-- AMAX (R368). -/
def execAmax (d a b : Reg) (_sc : Scope) (o : Order) (s : State) : Out := atom s .max d a b o
/-- AMINU (R368). -/
def execAminu (d a b : Reg) (_sc : Scope) (o : Order) (s : State) : Out := atom s .minu d a b o
/-- AMAXU (R368). -/
def execAmaxu (d a b : Reg) (_sc : Scope) (o : Order) (s : State) : Out := atom s .maxu d a b o
/-- ASWP (R368). -/
def execAswp (d a b : Reg) (_sc : Scope) (o : Order) (s : State) : Out := atom s .swp d a b o
/-- ACAS (R368). -/
def execAcas (d a b : Reg) (_sc : Scope) (o : Order) (s : State) : Out := atom s .cas d a b o
/-- AFADD (R368). -/
def execAfadd (d a b : Reg) (_sc : Scope) (o : Order) (s : State) : Out := atom s .fadd d a b o

/-- The new value of a read-modify-write, or none where it writes nothing (R224, R368, R369). -/
def atomNew (op : AtomOp) (m b d : Word) : Option Word :=
  match op with
  | .add => some (m + b)
  | .and => some (m &&& b)
  | .or => some (m ||| b)
  | .xor => some (m ^^^ b)
  | .min => some (if m.slt b then m else b)
  | .max => some (if m.slt b then b else m)
  | .minu => some (if m.ult b then m else b)
  | .maxu => some (if m.ult b then b else m)
  | .swp => some b
  | .cas => if m = d then some b else none
  | .fadd => some (BitVec.ofNat 64 (m.toNat / 2 ^ 32 * 2 ^ 32 + f32Add m.toNat b.toNat))

/-- FENCE waits until the run's loads and stores have completed (R366). -/
def execFence (_scope : Scope) (s : State) : Out :=
  onRun s fun n r => if r.ldc > 0 ∨ r.stc > 0 then stall s else .next (retire s n r)

/-- WAIT (R192); a limit of 63 never waits, because a counter is never above 63. -/
def execWait (l st c t : Fin 64) (s : State) : Out :=
  onRun s fun n r =>
    if r.ldc > l.val ∨ r.stc > st.val ∨ r.cpc > c.val ∨ r.pnc > t.val then stall s else .next (retire s n r)

/-- WAITA makes its checks; the run then ends under R199, and the request goes to the word's home
(R372). -/
def execWaita (a b : Reg) (scope : Scope) (disp : BitVec 13) (s : State) : Out :=
  onRun s fun n r =>
    let va := r.get a
    let code : Int := (r.pc : Int) + 1 + disp.toInt
    if code < 0 ∨ (s.image r).words ≤ code then .next (trap s n r cILLEGAL)
    else if va.toNat % 8 ≠ 0 then .next (trap s n r cALIGN va)
    else if isStream va then .next (trap s n r cACCESS va)
    else match resolve s r va 8 true false with
    | .error e => .next (trap (missed s n r va e.1) n r e.1 va e.2)
    | .ok (ga, q) =>
      if gaKind ga = 3 ∨ wrongBank s r ga = true then .next (trap (looked s n r (some q)) n r cACCESS va ga) else
      let rc : Rec := { arg := r.get 1, fp := r.get 31, inst := r.rc.inst, ascope := scope, afirst := true, code := code.toNat }
      .next ((looked s n r (some q)).setRun n (some { r with ending := some (.waita (partOf r.rc.inst) ga va (r.get b) rc (some q)) }))

end Sys2Proof.Machine
end

