-- ==== Sys2Proof/Machine/Records.lean ====
section
/-!
DEFINITION. The words that create continuation records and end runs (R194 to R200), the caravan
words (R201 to R203) and QPOST (R141).
-/
namespace Sys2Proof.Machine

/-- A word that is a release waits until the run's earlier loads and stores have completed (R200,
R364, R396; DEDUCED, log entry 20). -/
def Run.drained (r : Run) : Bool := decide (r.ldc = 0) && decide (r.stc = 0)

/-- The deque a run's record goes to. -/
def State.deque (s : State) (n : Nat) (r : Run) : Deque := (s.core n).deque (occOf r.rc.inst)
/-- Replaces that deque. -/
def State.setDeque (s : State) (n : Nat) (r : Run) (d : Deque) : State :=
  s.setCore n ((s.core n).setDeque (occOf r.rc.inst) d)

/-- SPAWN (R195). -/
def execSpawn (c f b : Reg) (s : State) : Out :=
  onRun s fun n r =>
    match checkRec (s.image r) (r.get c) (r.get f) false with
    | some e => .next (trap s n r e (if e = cILLEGAL then 0 else r.get f))
    | none =>
      if !r.drained then stall s
      else if (s.deque n r).fullBottom then .next (trap s n r cACCESS)
      else
        let rc := { ctlRec r (r.get c) (r.get f) (r.get b) true with join := 0 }
        .next (retire (s.setDeque n r ((s.deque n r).pushBottom rc)) n r)

/-- Issues an operation that has taken effect and whose result arrives later (R180, R193). -/
def issueValue (s : State) (n : Nat) (r : Run) (d : Reg) (v : Word) : State :=
  issue s n r fun id => { mkPend s n r .ldc (.value v) d.val 0 0 false id with st := .done v }

/-- JREC (R196). -/
def execJrec (c f b : Reg) (s : State) : Out :=
  onRun s fun n r =>
    match checkRec (s.image r) (r.get c) (r.get f) true with
    | some e => .next (trap s n r e (if e = cILLEGAL then 0 else r.get f))
    | none =>
      if !r.drained then stall s
      else
        let rc := ctlRec r (r.get c) (r.get f) (r.get b) true
        if rc.join = 0 then
          if (s.deque n r).fullBottom then .next (trap s n r cACCESS)
          else
            .next (issueValue (s.setDeque n r ((s.deque n r).pushBottom rc)) n r c 0xFFFFFFFFFFFFFFFE)
        else match s.part (partOf r.rc.inst) with
          | none => .next (issueValue s n r c (BitVec.allOnes 64))
          | some x =>
            if x.poolFree then
              let q := poolPut s (partOf r.rc.inst) rc
              .next (issueValue q.2.2 n r c (BitVec.ofNat 64 (q.2.1 * 2 ^ 16 + q.1)))
            else .next (issueValue s n r c (BitVec.allOnes 64))

/-- The record a handle names: its entry, if the handle is current and the record belongs to the
partition's current occupant (R174, R197). One that JREC did not make has JOIN 0 and is named by none (DESIGN CHOICE, log
entry 57). -/
def joinEntry (x : Part) (h : Nat) : Option Rec :=
  if h / 2 ^ 32 ≠ 0 then none
  else
    let e := getTD x.pool (h % 2 ^ 16) {}
    match e.rc with
    | none => none
    | some rc => if e.gen = fld h 31 16 ∧ rc.join > 0 ∧ occOf rc.inst = x.cur then some rc else none

/-- JDEC (R197, R200). -/
def execJdec (d h : Reg) (s : State) : Out :=
  onRun s fun n r =>
    if !r.drained then stall s else
    let p := partOf r.rc.inst
    match s.part p with
    | none => .next (issueValue s n r d (BitVec.allOnes 64))
    | some x =>
      let hv := (r.get h).toNat
      match joinEntry x hv with
      | none => .next (issueValue s n r d (BitVec.allOnes 64))
      | some rc =>
        if rc.join = 1 then
          let s1 := s.setPart p (poolDel x (hv % 2 ^ 16))
          .next (issueValue (runnable s1 p (some n) { rc with join := 0 }) n r d 0)
        else
          let e := getTD x.pool (hv % 2 ^ 16) {}
          let x1 := { x with pool := putT x.pool (hv % 2 ^ 16) { e with rc := some { rc with join := rc.join - 1 } } }
          .next (issueValue (s.setPart p x1) n r d (BitVec.ofNat 64 (rc.join - 1)))

/-- YIELD checks its operands; the run then ends under R199 (R198). -/
def execYieldRun (c f b : Reg) (s : State) : Out :=
  onRun s fun n r =>
    match checkRec (s.image r) (r.get c) (r.get f) false with
    | some e => .next (trap s n r e (if e = cILLEGAL then 0 else r.get f))
    | none =>
      let rc := { ctlRec r (r.get c) (r.get f) (r.get b) true with join := 0 }
      .next (s.setRun n (some { r with ending := some (.yieldRun rc) }))

/-- END: the run ends under R199 (R198). -/
def execEndRun (s : State) : Out :=
  onRun s fun n r => .next (s.setRun n (some { r with ending := some .endRun }))

/-- A caravan word that returns a status issues to its home (R201). -/
def caravanOp (s : State) (d : Reg) (f : Run → Act) : Out :=
  onRun s fun n r =>
    if 63 ≤ r.ldc then stall s
    else .next (issue s n r (mkPend s n r .ldc (f r) d.val 0 0 false))
/-- CNEW (R202). -/
def execCnew (d : Reg) (s : State) : Out := caravanOp s d fun _ => .cnew
/-- CJOIN (R202). -/
def execCjoin (d a : Reg) (s : State) : Out := caravanOp s d fun r => .cjoin (r.get a)
/-- CLEAVE (R202). -/
def execCleave (d a : Reg) (s : State) : Out := caravanOp s d fun r => .cleave (r.get a)
/-- CFREE (R202). -/
def execCfree (d a : Reg) (s : State) : Out := caravanOp s d fun r => .cfree (r.get a)

/-- CWAIT checks its operands; the run then waits under R199 and sends its arrival (R203). -/
def execCwait (c a b : Reg) (s : State) : Out :=
  onRun s fun n r =>
    match checkRec (s.image r) (r.get c) (r.get 31) false with
    | some e => .next (trap s n r e (if e = cILLEGAL then 0 else r.get 31))
    | none =>
      let rc := { ctlRec r (r.get c) (r.get 31) (r.get b) true with join := 0 }
      .next (s.setRun n (some { r with ending := some (.cwait (r.get a) rc) }))

/-- The lowest token index whose field is not legal (R131, R132); the PARENT value is checked only
for host packets. -/
def badToken (w : List Word) (host : Bool) : Option Nat :=
  let t (i : Nat) : Nat := (w.getD i 0).toNat
  if fld (t 0) 63 50 ≠ 0 ∨ fld (t 0) 47 32 ≠ 0 ∨ t 0 % 2 ^ 32 = 0 then some 0
  else if t 1 % 64 ≠ 0 then some 1
  else if fld (t 2) 63 56 ≠ 0 then some 2
  else if t 4 / 2 ^ 32 ≠ 0 ∨ (host = true ∧ t 4 ≠ 0xFFFFFFFF) then some 4
  else if t 5 / 2 ^ 32 ≠ 0 then some 5
  else if t 6 ≠ 0 then some 6
  else if t 7 ≠ 0 then some 7
  else none

/-- The packet that eight tokens make (R131). -/
def mkPacket (w : List Word) (vf : Nat) (child : Bool) : Packet :=
  let t (i : Nat) : Nat := (w.getD i 0).toNat
  { prio := fld (t 0) 49 48, cfg := t 0 % 2 ^ 32, argva := w.getD 1 0, cga := t 2 % 2 ^ 56, cval := w.getD 3 0
    parent := t 4 % 2 ^ 32, seq := t 5 % 2 ^ 32, rsv := badToken w (!child), vf := vf, child := child }

/-- A number's 64-bit words, lowest first. -/
def wordsN : Nat → Nat → List Word
  | 0, _ => []
  | n + 1, v => BitVec.ofNat 64 v :: wordsN n (v / 2 ^ 64)

end Sys2Proof.Machine
end

