-- ==== Sys2Proof/Machine/Ports.lean ====
section
/-!
DEFINITION. The PORT group (R204 to R207) and the system words NOP, TRAP, BRK, SRD, SWR, FREC, KEEP
(R208 to R213) and SVC (R143).
-/
namespace Sys2Proof.Machine

/-- The port files of a run (R204). -/
def State.portFile (s : State) (n : Nat) (r : Run) : PortFile := getTD (s.core n).ports (occOf r.rc.inst) {}
/-- Replaces them. -/
def State.setPortFile (s : State) (n : Nat) (r : Run) (f : PortFile) : State :=
  s.setCore n { s.core n with ports := putT (s.core n).ports (occOf r.rc.inst) f }

/-- Whether an outstanding command of the run's instance names a port of this core (R206). -/
def namesPort (s : State) (n : Nat) (r : Run) (sink : Bool) (port : Nat) : Bool :=
  s.cmds.any fun c => decide (c.num = r.rc.inst) && decide (c.core = n) && decide (c.port = port) &&
    (if sink then decide (c.op = 0) && !c.flag else decide (c.op = 1))

/-- PUTT (R205, R206). -/
def execPutt (port : Fin 16) (a : Reg) (s : State) : Out :=
  onRun s fun n r =>
    let f := s.portFile n r
    let q := getTD f.vs port.val []
    if q.length < 16 then
      .next (retire (s.setPortFile n r { f with vs := putT f.vs port.val (q ++ [r.get a]) }) n r)
    else if namesPort s n r false port.val then stall s
    else .next (trap s n r cCHANNEL 0 port.val)

/-- TAKT (R205, R206). -/
def execTakt (port : Fin 16) (a : Reg) (s : State) : Out :=
  onRun s fun n r =>
    let f := s.portFile n r
    match getTD f.vk port.val [] with
    | t :: q => .next (retire (s.setPortFile n r { f with vk := putT f.vk port.val q }) n (r.set a t))
    | [] => if namesPort s n r true port.val then stall s else .next (trap s n r cCHANNEL 0 port.val)

/-- ACRST (R205). -/
def execAcrst (ac : Fin 8) (a : Reg) (kind : AcKind) (s : State) : Out :=
  onRun s fun n r =>
    let f := s.portFile n r
    .next (retire (s.setPortFile n r { f with ac := putT f.ac ac.val { v := r.get a, n := 0, kind := kind } }) n r)

/-- ACRD (R205). -/
def execAcrd (ac : Fin 8) (a : Reg) (count : Bool) (s : State) : Out :=
  onRun s fun n r =>
    let x := getTD (s.portFile n r).ac ac.val {}
    .next (retire s n (r.set a (if count then BitVec.ofNat 64 x.n else x.v)))

/-- A contribution to an accumulator (R206). -/
def Ac.add (x : Ac) (c : Word) : Ac :=
  let v := match x.kind with
    | .int => x.v + c
    | .fw => (fwAdd .rne (x.v.setWidth 48) (c.setWidth 48)).setWidth 64
    | .umax => if x.v.ult c then c else x.v
    | .umin => if x.v.ult c then x.v else c
  { x with v := v, n := (x.n + 1) % 2 ^ 32 }

/-- START of a chain (R88). -/
def Image.chainStart (i : Image) (key k : Nat) : Nat := fld (i.frame (21 + k) key) 251 248
/-- Whether chain k of a tile is used (R80). -/
def Image.hasChain (i : Image) (key k : Nat) : Bool := bit (i.frame 0 key) (242 + k)

/-- The tiles of an instance that have a chain started by a control line (R168, R170). -/
def lineTiles (i : Inst) (line : Nat) : List Nat :=
  (i.tiles.filter fun t => (List.range 4).any fun k => i.img.hasChain t.1 k && decide (i.img.chainStart t.1 k = line)).map (·.1)

/-- Sends one token on a control line (R170): to every tile that listens and to the line count. -/
def sendLine (i : Inst) (line : Nat) : Inst :=
  { i with lineMsgs := i.lineMsgs ++ (lineTiles i line).map (fun t => (line, some t)) ++ [(line, none)] }

/-- CTOK is a release at .mod (R207, R361). -/
def execCtok (line : Fin 8) (s : State) : Out :=
  onRun s fun n r =>
    if !r.drained then stall s
    else .next (retire (s.modInst (keyOf r.rc.inst) fun i => sendLine i line.val) n r)

/-- CTWAIT (R207): requests of one line are served in their order of arrival. -/
def execCtwait (line : Fin 8) (a : Reg) (s : State) : Out :=
  onRun s fun n r =>
    let v := (r.get a).toNat
    if v = 0 then .next (retire s n r)
    else if 65535 < v then .next (trap s n r cCHANNEL 0 line.val)
    else match s.inst (keyOf r.rc.inst) with
    | none => stall s
    | some i =>
      let q := if r.queued then i.ctreqs else i.ctreqs ++ [{ line := line.val, core := n, rid := r.rid, n := v }]
      let first := match q.find? (fun c => decide (c.line = line.val)) with
        | some c => decide (c.rid = r.rid)
        | none => false
      let cnt := getTD i.lines line.val 0
      if first && decide (v ≤ cnt) then
        let i1 := { i with ctreqs := delFirst (fun c => decide (c.rid = r.rid)) q, lines := putT i.lines line.val (cnt - v) }
        .next (retire (s.setInst (keyOf r.rc.inst) i1) n { r with queued := false })
      else
        .next ((s.setInst (keyOf r.rc.inst) { i with ctreqs := q }).setRun n (some { r with queued := true }))

/-- NOP (R208). -/
def execNop (s : State) : Out := onRun s fun n r => .next (retire s n r)

/-- TRAP (R209): the run ends through the trap continuation with g[a] in its record. -/
def execTrap (a : Reg) (s : State) : Out := onRun s fun n r => .next (trap s n r cTRAP (r.get a))

/-- Posts a fault record to a partition's fault queue, with the continuation it releases (R381). -/
def post (s : State) (p : Nat) (x : Post) : State := s.modPart p fun q => { q with posts := q.posts ++ [x] }

/-- Whether an operation is one that a save withdraws from its home: a stream read or a synchronising load (R396). -/
def Pend.withdraws (q : Pend) : Bool :=
  match q.act with
  | .load .. => isStream q.va
  | .sync _ => true
  | _ => false
/-- Withdraws the reads that a run has waiting at their homes, QPOST's packet read among them (R396); one that waits on
another module stays there (DEDUCED, log entry 35). -/
def withdraw (s : State) (p : Nat) (r : Run) : State :=
  let far (q : Pend) : Bool := isStream q.va && match s.part p with
    | some x => (match x.stream (streamNo q.va.toNat) with | some w => s.remoteStream w | none => false)
    | none => false
  let mine (q : Pend) : Bool := decide (q.rid = r.rid) && q.withdraws && decide (q.st = .waiting) && !far q
  let ids := r.qread.toList ++ (s.pends.filter mine).map (·.id)
  let keep (l : List StreamWait) : List StreamWait := l.filter fun v => !ids.contains v.op
  { s with pends := s.pends.map fun q => if mine q then { q with st := .issued } else q }.modPart p fun x =>
    { x with streams := mapT (fun _ w => { w with waits := keep w.waits, held := keep w.held, served := w.served.filter fun v => !ids.contains v.1 }) x.streams }
/-- BRK (R210): the run is saved precisely, as at a front, and its record posted; the core is free for other work. -/
def execBrk (s : State) : Out :=
  onRun s fun n r =>
    let p := partOf r.rc.inst
    let s1 := (withdraw s p r).modPart p fun x =>
      { x with saved := x.saved ++ [{ core := n, run := { r with began := s.cyc - r.began, qread := none }, brk := some n }] }
    .next ((post s1 p { fr := { runFault s n r cTRAP 0 0 with frozen := false } }).setRun n none)

/-- The value of a special register (R102); a reserved number never decodes. -/
def special (s : State) (n : Nat) (r : Run) (k : Nat) : Word :=
  match k with
  | 0 => BitVec.ofNat 64 n
  | 1 => BitVec.ofNat 64 r.rc.inst
  | 2 => BitVec.ofNat 64 s.cyc
  | 3 => BitVec.ofNat 64 (s.cyc - r.began)
  | 4 => BitVec.ofNat 64 r.rc.code
  | _ => match s.part (partOf r.rc.inst) with
    | some x => BitVec.ofNat 64 x.spacw
    | none => 0

/-- SRD (R211); a reserved number traps with ILLEGAL (R100). -/
def execSrd (d : Reg) (k : Fin 32) (s : State) : Out :=
  onRun s fun n r =>
    if k.val ≤ 5 then .next (retire s n (r.set d (special s n r k.val))) else .next (trap s n r cILLEGAL)

/-- SWR (R211): only SPACW is writable, and its reserved bits are written as zero (R102). -/
def execSwr (a : Reg) (k : Fin 32) (s : State) : Out :=
  onRun s fun n r =>
    if k.val = 5 then
      .next (retire (s.modPart (partOf r.rc.inst) fun x => { x with spacw := (r.get a).toNat % 2 ^ 32 }) n r)
    else .next (trap s n r cILLEGAL)

/-- FREC (R212). -/
def execFrec (d : Reg) (s : State) : Out :=
  onRun s fun n r => .next (retire s n (r.set d (if r.rc.trapc then r.rc.frec else 0)))

/-- KEEP (R213). -/
def execKeep (s : State) : Out :=
  onRun s fun n r => .next (retire (s.modInst (keyOf r.rc.inst) fun i => { i with keep := true }) n r)

/-- Whether an address argument of a partition is reachable with the permissions needed (R144): its global address and its
page. A stash page must name a stash bank of the occupant's (R269). -/
def reachable (s : State) (p va n : Nat) (rd wr : Bool) : Option (Nat × Page) :=
  match s.part p with
  | none => none
  | some x =>
    if va % n ≠ 0 ∨ va ≥ 2 ^ 57 then none
    else match translate x va rd wr with
      | .ok (ga, q) => if gaKind ga = 2 ∨ gaKind ga = 3 ∨ stashBad s p (some q) = true then none else some (ga, q)
      | .error _ => none

/-- The service call queue of a partition, or of function 0 as number 12 (R143). -/
def State.callList (s : State) (q : Nat) : List Call := getTD s.calls q []

/-- SVC (R143). -/
def execSvc (d a : Reg) (s : State) : Out :=
  onRun s fun n r =>
    let p := partOf r.rc.inst
    let va := (r.get a).toNat
    if r.stc > 0 then stall s else
    if (reachable s p va 64 true true).isNone then .next (retire s n (r.set d 1))
    else if 64 ≤ (s.callList p).length then .next (retire s n (r.set d 2))
    else
      let s1 := { s with calls := putT s.calls p (s.callList p ++ [{ part := p, occ := occOf r.rc.inst, va := va }]) }
      .next (retire s1 n (r.set d 0))

end Sys2Proof.Machine
end

