-- ==== Sys2Proof/Machine/Engine.lean ====
section
/-!
DEFINITION. The ENGINE group at issue (R316, R317, R321): the checks, the captured registers and
the A-tile that executes the command. The command's work is an event (COMMAND_ARRIVAL).
-/
namespace Sys2Proof.Machine

/-- The members of the ENGINE group by number (R316). -/
abbrev eSIN : Nat := 0
/-- SOUT. -/
abbrev eSOUT : Nat := 1
/-- CPY. -/
abbrev eCPY : Nat := 2
/-- RED. -/
abbrev eRED : Nat := 3
/-- GATH. -/
abbrev eGATH : Nat := 4
/-- SCAT. -/
abbrev eSCAT : Nat := 5
/-- PLD. -/
abbrev ePLD : Nat := 6
/-- PDR. -/
abbrev ePDR : Nat := 7

/-- The rows of a command (R317). -/
def Cmd.nrows (c : Cmd) : Nat := fld c.shape.toNat 63 48
/-- The row length in elements (R317). -/
def Cmd.rlen (c : Cmd) : Nat := fld c.shape.toNat 23 0
/-- The source pitch (R317). -/
def Cmd.spitch (c : Cmd) : Int := sx 24 (fld c.shape.toNat 47 24)
/-- The destination pitch (R317). -/
def Cmd.dpitch (c : Cmd) : Int := sx 24 (fld c.ctl.toNat 63 40)
/-- The source format (R317). -/
def Cmd.sfmt (c : Cmd) : Nat := fld c.ctl.toNat 21 16
/-- The destination format (R317). -/
def Cmd.dfmt (c : Cmd) : Nat := fld c.ctl.toNat 27 22
/-- The store rounding (R317). -/
def Cmd.rnd_ (c : Cmd) : Nat := fld c.ctl.toNat 15 13
/-- RAW (R317). -/
def Cmd.raw (c : Cmd) : Bool := bit c.ctl.toNat 12
/-- CURS (R317). -/
def Cmd.curs (c : Cmd) : Bool := bit c.ctl.toNat 30
/-- The TB4 type (R317). -/
def Cmd.tbt (c : Cmd) : Nat := fld c.ctl.toNat 10 9
/-- Whether the source is memory (R317). -/
def Cmd.memSrc (c : Cmd) : Bool := decide (c.op ≠ eSOUT) && decide (c.op ≠ ePDR)
/-- Whether the destination is memory (R317). -/
def Cmd.memDst (c : Cmd) : Bool := decide (c.op ≠ eSIN) && decide (c.op ≠ ePLD)

/-- The conditions of R317 that are checked at issue. -/
def Cmd.legal (c : Cmd) : Bool :=
  let k := c.ctl.toNat
  decide (fld k 39 31 = 0) && decide (fld k 29 28 = 0) && !bit k 11 && !bit k 8 &&
  (!c.curs || decide (c.op = eSIN) || decide (c.op = eCPY)) &&
  decide (c.rnd_ ≤ 4) && (fmtOf c.sfmt).isSome && (fmtOf c.dfmt).isSome &&
  (!c.raw || ((!c.memSrc || isIntFmt c.sfmt) && (!c.memDst || isIntFmt c.dfmt))) &&
  (match c.op with
   | 0 => !isBlockFmt c.sfmt && decide (c.dfmt = 0)
   | 1 => !isBlockFmt c.dfmt && decide (c.sfmt = 0)
   | 2 => !(isBlockFmt c.sfmt && isBlockFmt c.dfmt)
   | 3 => decide (c.sfmt = 0) && decide (c.dfmt = 0) && !c.raw
   | 4 => !isBlockFmt c.sfmt && !isBlockFmt c.dfmt
   | 5 => !isBlockFmt c.sfmt && !isBlockFmt c.dfmt
   | 6 => decide (c.nrows = 64) && decide (c.rlen = 64) && decide (c.dfmt = 0) && decide (c.dpitch = 0) && decide (k % 256 = 0)
   | _ => decide (c.nrows = 64) && decide (c.rlen = 64) && decide (c.sfmt = 0) && decide (c.spitch = 0) && decide (k % 256 = 0))

/-- The panel target of PLD and PDR: its tile key and its slot (R317). -/
def Cmd.target (c : Cmd) : Nat × Nat := (tkey (fld c.dst.toNat 20 14) (fld c.dst.toNat 13 7), c.dst.toNat % 8)
/-- Whether an instance owns the A-tile of a side (0 west, 1 east) and a relative row: its columns
touch that edge of the mesh (R10, R148, R321). -/
def ownsATile (i : Inst) (side row : Nat) : Bool :=
  decide (row < 8 * i.img.bh) &&
    (if side = 0 then decide (i.x0 = 0) else decide (i.x0 + 8 * i.img.bw = 64))

/-- The A-tile of PLD and PDR: on the edge nearest to the column, west on a tie (R321). -/
def panelSide (i : Inst) (tx : Nat) : Nat :=
  let west := decide (i.x0 = 0)
  let east := decide (i.x0 + 8 * i.img.bw = 64)
  if west && east then (if 8 * i.img.bw - 1 - tx < tx then 1 else 0) else if west then 0 else 1

/-- Whether PLD and PDR may address a target: a C-tile position of the rectangle with a frame 0 of
the instance (R321). -/
def targetOk (i : Inst) (tk : Nat) : Bool :=
  decide (tk % 128 < 8 * i.img.bw) && decide (tk / 128 < 8 * i.img.bh) &&
    decide ((tk % 128 + tk / 128) % 2 = 0) && (getT i.tiles tk).isSome

/-- The command's A-tile: side and relative row, or none if the instance does not own it or the
target is no panel of the instance (R321). -/
def Cmd.where_ (c : Cmd) (i : Inst) : Option (Nat × Nat) :=
  if c.op = ePLD ∨ c.op = ePDR then
    if targetOk i c.target.1 then
      let sd := panelSide i (c.target.1 % 128)
      if ownsATile i sd (c.target.1 / 128) then some (sd, c.target.1 / 128) else none
    else none
  else
    let sd := b2n (bit c.ctl.toNat 7)
    if ownsATile i sd (c.ctl.toNat % 128) then some (sd, c.ctl.toNat % 128) else none

/-- Issues an ENGINE command (R316, R321): ILLEGAL and ACCESS are precise faults, and the command
counts in CPC, or in PNC for PLD and PDR (R193). -/
def engine (s : State) (op : Nat) (a : Reg) (port : Nat) (flag : Bool) (cls : Fin 4) (x desc : Option Reg) : Out :=
  onRun s fun n r =>
    let g (k : Nat) : Word := if h : a.val + k < 32 then r.get ⟨a.val + k, h⟩ else 0
    let f := s.fresh
    let c : Cmd :=
      { id := f.1, core := n, rid := r.rid, part := partOf r.rc.inst, key := keyOf r.rc.inst, num := r.rc.inst
        widx := r.pc, op := op, port := port, flag := flag, src := g 0, dst := g 1, shape := g 2, ctl := g 3
        x := x.map r.get, desc := desc.map r.get, cls := cls.val, fp := r.get 31, arg := r.get 1, trapc := r.rc.trapc }
    let k : Cls := if op = ePLD ∨ op = ePDR then .pnc else .cpc
    if a.val = 0 ∨ a.val % 4 ≠ 0 then .next (trap s n r cILLEGAL)
    else if !c.legal then .next (trap s n r cILLEGAL)
    else match s.inst (keyOf r.rc.inst) with
    | none => .next (trap s n r cACCESS)
    | some i =>
      match c.where_ i with
      | none => .next (trap s n r cACCESS)
      | some (side, row) =>
        if 63 ≤ r.cnt k then stall s
        else .next (retire { f.2 with cmds := f.2.cmds ++ [{ c with pos := tkey row (0x40 + side) }] } n (r.inc k))

/-- SIN (R316, R318): to a vk port, or with `toAc` to an accumulator. -/
def execSin (port : Fin 16) (a : Reg) (cls : Fin 4) (toAc : Bool) (s : State) : Out :=
  engine s eSIN a port.val toAc cls none none
/-- SOUT (R316, R318). -/
def execSout (port : Fin 16) (a : Reg) (cls : Fin 4) (s : State) : Out := engine s eSOUT a port.val false cls none none
/-- CPY (R316, R318). -/
def execCpy (x a : Reg) (cls : Fin 4) (nofe : Bool) (s : State) : Out := engine s eCPY a 0 nofe cls (some x) none
/-- RED (R316, R319): the operation's number stands in the port field. -/
def execRed (a : Reg) (cls : Fin 4) (op : Fin 9) (s : State) : Out := engine s eRED a op.val false cls none none
/-- GATH (R316, R320). -/
def execGath (x a : Reg) (cls : Fin 4) (nofe : Bool) (s : State) : Out := engine s eGATH a 0 nofe cls (some x) none
/-- SCAT (R316, R320). -/
def execScat (x a : Reg) (cls : Fin 4) (nofe : Bool) (s : State) : Out := engine s eSCAT a 0 nofe cls (some x) none
/-- PLD (R316, R321). -/
def execPld (x a : Reg) (cls : Fin 4) (s : State) : Out := engine s ePLD a 0 false cls (some x) none
/-- PLD with a follow-on (R252, R316). -/
def execPldF (x a b : Reg) (cls : Fin 4) (s : State) : Out := engine s ePLD a 0 false cls (some x) (some b)
/-- PDR (R316, R321). -/
def execPdr (x a : Reg) (cls : Fin 4) (nofe : Bool) (s : State) : Out := engine s ePDR a 0 nofe cls (some x) none

end Sys2Proof.Machine
end

