-- ==== Sys2Proof/Machine/Ranges.lean ====
section
/-!
DEFINITION. The bytes that operations touch, by address and by the memory behind it (R191, R315, R322): of a run's
accesses, and of engine commands (R312, R317 to R320).
-/
namespace Sys2Proof.Machine

/-! ### Ranges -/

/-- Whether two byte ranges meet, modulo 2^64. -/
def meets (lo : Int) (len : Nat) (va n : Nat) : Bool :=
  decide (((va : Int) - lo) % 2 ^ 64 < len) || decide ((lo - (va : Int)) % 2 ^ 64 < n)
/-- The memory behind a byte range, by global address and length: the frames of a stream (R288), or mapped pages
(R326). -/
def physRanges (s : State) (p lo n : Nat) : List (Nat × Nat) :=
  match s.part p with
  | none => []
  | some x =>
    if bit lo 63 then match x.stream (streamNo lo) with
      | none => []
      | some w =>
        let o := streamOff lo
        let f := 2 ^ w.f
        if !w.reloc.isEmpty then (List.range n).map fun j => (w.addr (o + j), 1)
        else (List.range (min (n / f + 2) w.w)).filterMap fun j =>
          let a := if j = 0 then o else (o / f + j) * f
          let e := min (o + n) ((o / f + j + 1) * f)
          if a < e then some (w.addr a, e - a) else none
    else x.pages.filterMap fun q =>
      let a := max lo q.va
      let e := min (lo + n) (q.va + q.size)
      if a < e then some (fwdGa s (q.ga + (a - q.va)), e - a) else none
/-- Whether some of the ranges of two lists meet. -/
def rangesMeet (l m : List (Nat × Nat)) : Bool :=
  l.any fun a => m.any fun b => decide (a.1 < b.1 + b.2) && decide (b.1 < a.1 + a.2)
/-- Whether two byte ranges of a partition have a byte in common: by their addresses, or in the memory behind
them. -/
def sharesByte (s : State) (p : Nat) (lo : Int) (len va n : Nat) : Bool :=
  decide (0 < len) && decide (0 < n) &&
    (meets lo len va n || rangesMeet (physRanges s p va n) (physRanges s p (lo % 2 ^ 64).toNat len))

/-! ### A run's accesses (R191) -/

/-- The bytes of an access. -/
def Act.len : Act → Nat
  | .load n _ _ => n
  | .store n _ => n
  | _ => 8
/-- Whether an act is a load or store of memory (R355). -/
def Act.mem : Act → Bool
  | .load .. => true
  | .store .. => true
  | .sync .. => true
  | .rmw .. => true
  | _ => false
/-- Whether an act is a WAITA's request (R372). -/
def Act.waits : Act → Bool
  | .waita .. => true
  | _ => false
/-- Whether an operation writes memory. -/
def Act.writes : Act → Bool
  | .store .. => true
  | .rmw .. => true
  | _ => false
/-- Whether an operation has not been performed yet. -/
def OpSt.open_ : OpSt → Bool
  | .issued => true
  | .waiting => true
  | _ => false
/-- The memory that a run's access was translated to. -/
def Pend.phys (q : Pend) (s : State) : List (Nat × Nat) :=
  if isStream q.va then physRanges s q.part q.va.toNat q.act.len else [(fwdGa s q.ga, q.act.len)]
/-- Whether a run's access has a byte in common with a byte range. -/
def Pend.touches (q : Pend) (s : State) (va n : Nat) : Bool :=
  decide (0 < n) && (meets q.va.toNat q.act.len va n || rangesMeet (physRanges s q.part va n) (q.phys s))
/-- Whether an earlier operation of the same run that sharesByte a range has not been performed yet
(R191). -/
def earlierOverlap (s : State) (q : Pend) : Bool :=
  (s.pends.takeWhile (fun x => decide (x.id ≠ q.id))).any fun x =>
    decide (x.rid = q.rid) && decide (x.core = q.core) && x.act.mem && q.act.mem && x.st.open_ &&
    (meets x.va.toNat x.act.len q.va.toNat q.act.len || rangesMeet (q.phys s) (x.phys s))

/-! ### Engine commands and the run's later stores (R322) -/

/-- The bits of an element of a format. -/
def fmtBits (f : Nat) : Nat := match fmtOf f with | some k => k.bits | none => 64
/-- The element size of RED's operation in bits (R319). -/
def redBits (op : Nat) : Nat := if op = 1 then 32 else if op = 8 then 16 else 64
/-- Entry r of a command's index array, as memory holds it (R320). -/
def idxEntry (s : State) (c : Cmd) (r : Nat) : Int :=
  match c.x, s.part c.part with
  | some b, some x =>
    (match translate x ((b.toNat + 8 * r) % 2 ^ 64) true false with
     | .ok (ga, _) => (match homeRead s c.part ga 8 with | .ok v => sx 64 v | .error _ => 0)
     | .error _ => 0)
  | _, _ => 0
/-- The bits of an element on a side of a command. -/
def Cmd.bits (c : Cmd) (dst : Bool) : Nat := if c.op = eRED then redBits c.port else fmtBits (if dst then c.dfmt else c.sfmt)
/-- Whether a command takes its rows through an index array (R320). -/
def Cmd.indexed (c : Cmd) : Bool := decide (c.op = eGATH) || decide (c.op = eSCAT)
/-- The first element of row r on a side (R317, R320). -/
def Cmd.rowElem (c : Cmd) (dst : Bool) (r : Nat) (idx : Int) : Int :=
  (if (if dst then decide (c.op = eSCAT) else decide (c.op = eGATH)) then idx else r) * (if dst then c.dpitch else c.spitch)
/-- The base address of a side: a cursor stands for a source's offset (R318). The memory side of PDR is
its first register (R317). -/
def Cmd.base (c : Cmd) (dst : Bool) : Nat :=
  if dst then (if c.op = ePDR then c.src.toNat else c.dst.toNat)
  else match c.cur with
    | some o => 2 ^ 63 + streamNo c.src.toNat * 2 ^ 48 + o
    | none => c.src.toNat
/-- The byte ranges that n elements from element e occupy on a memory side: their codes, and their
scale bytes where the side is block-scaled (R312). -/
def Cmd.spans (c : Cmd) (dst : Bool) (e : Int) (n : Nat) : List (Int × Nat) :=
  if n = 0 ∨ (if dst then c.memDst else c.memSrc) = false then []
  else
    let b := c.bits dst
    (((c.base dst : Nat) : Int) + e * b / 8, ((e * b % 8).toNat + n * b + 7) / 8) ::
      (if isBlockFmt (if dst then c.dfmt else c.sfmt) then
        [(((c.x.getD 0).toNat : Int) + e / 32, ((e + n - 1) / 32 - e / 32 + 1).toNat)] else [])
/-- Where elements of a side lie (R312): the address of the first byte, the bytes, and the bit at which
they begin. -/
def Cmd.place (c : Cmd) (dst : Bool) (e : Int) (n : Nat) : Nat × Nat × Nat :=
  let b : Nat := c.bits dst
  let sh := (e * b % 8).toNat
  (((((c.base dst : Nat) : Int) + e * b / 8) % 2 ^ 64).toNat, (sh + n * b + 7) / 8, sh)
/-- The address of the scale byte of block b (R312). -/
def Cmd.scaleVa (c : Cmd) (b : Int) : Nat := ((((c.x.getD 0).toNat : Int) + b) % 2 ^ 64).toNat
/-- The address of entry r of the index array (R320). -/
def Cmd.idxVa (c : Cmd) (r : Nat) : Nat := ((c.x.getD 0).toNat + 8 * r) % 2 ^ 64
/-- Whether a side is a stream (R284). -/
def Cmd.stream (c : Cmd) (dst : Bool) : Bool := (if dst then c.memDst else c.memSrc) && bit (c.base dst) 63
/-- Whether a format of a side is block-scaled. -/
def Cmd.block (c : Cmd) (dst : Bool) : Bool :=
  (if dst then c.memDst else c.memSrc) && decide (c.op ≠ eRED) && isBlockFmt (if dst then c.dfmt else c.sfmt)
/-- Whether elements [c0, c0 + n) of row r of a side, under an index entry, meet a byte range. -/
def Cmd.elemMeets (c : Cmd) (s : State) (dst : Bool) (r : Nat) (idx : Option Int) (c0 n : Nat) (va len : Nat) : Bool :=
  let i : Int := match idx with | some i => i | none => if c.indexed then idxEntry s c r else r
  (c.spans dst (c.rowElem dst r i + c0) n).any fun x => sharesByte s c.part x.1 x.2 va len
/-- Whether a command's elements from the next on meet a byte range on a side. -/
def Cmd.restMeets (c : Cmd) (s : State) (dst : Bool) (va len : Nat) : Bool :=
  (List.range (c.nrows - c.r)).any fun j =>
    let c0 := if j = 0 then c.c else 0
    c.elemMeets s dst (c.r + j) (if j = 0 then c.idx else none) c0 (c.rlen - c0) va len
/-- The first element of a chunk on a side. -/
def Chunk.elem (k : Chunk) (c : Cmd) (dst : Bool) : Int := c.rowElem dst k.r (k.idx.getD k.r) + k.c
/-- The accesses that a chunk's elements make next: to its index entry, to its codes, to a scale byte, its writes, or
the read-modify-write of RED. -/
def Cmd.next (c : Cmd) (k : Chunk) : List (Nat × Nat) :=
  let at_ (p : Nat × Nat × Nat) : List (Nat × Nat) := [(p.1, p.2.1)]
  if c.indexed && k.idx.isNone then [(c.idxVa k.r, 8)]
  else if !k.outs.isEmpty then k.outs.map fun o => (o.va, o.n)
  else if c.memSrc && decide (k.codes.length < k.n) then at_ (c.place false (k.elem c false) (if c.stream false then k.n else 1))
  else if c.block false && decide (k.scales.length < k.n) then [(c.scaleVa (k.elem c false / 32), 1)]
  else if c.op = eRED then at_ (c.place true (k.elem c true) 1) else []
/-- Whether moving elements meet a byte range on a side. -/
def Chunk.meets (k : Chunk) (c : Cmd) (s : State) (dst : Bool) (va len : Nat) : Bool :=
  if k.outs.isEmpty then c.elemMeets s dst k.r k.idx k.c k.n va len || (!dst && (c.next k).any fun a => sharesByte s c.part (a.1 : Nat) a.2 va len)
  else dst && k.outs.any fun o => sharesByte s c.part (o.va : Nat) o.n va len
/-- Whether what a group will write meets a byte range. -/
def Gather.meets (g : Gather) (c : Cmd) (s : State) (va len : Nat) : Bool := c.elemMeets s true g.r g.idx g.c g.n va len
/-- The A-tile of a command. -/
def State.cmdTile (s : State) (c : Cmd) : Option Tile := match s.inst c.key with
  | some i => if i.num = c.num then getT i.tiles c.pos else none
  | none => none
/-- The elements of a command in a list of eddy entries. -/
def ofCmd (id : Nat) (l : List Eddy) : List Chunk :=
  l.filterMap fun e => match e with | .cmd j _ k _ => if j = id then some k else none | .pat .. => none
/-- The elements that a command moves or replays, and those in the eddy queue. -/
def Cmd.moving (c : Cmd) (s : State) : List Chunk :=
  c.chunk.toList ++ c.back ++ match s.cmdTile c with | some t => ofCmd c.id t.eddy | none => []
/-- Whether a command still touches bytes of a range. -/
def Cmd.touches (c : Cmd) (s : State) (va len : Nat) : Bool :=
  c.restMeets s false va len || c.restMeets s true va len ||
    ((c.moving s).any fun k => k.meets c s false va len || k.meets c s true va len) || (c.gather.any fun g => g.meets c s va len) ||
    (c.indexed && (match c.x with | some b => decide (c.r < c.nrows) && sharesByte s c.part (b.toNat + 8 * c.r : Nat) (8 * (c.nrows - c.r)) va len | none => false))
/-- Whether an earlier command of the run keeps a store of it waiting (R191, R322). -/
def cmdBlocks (s : State) (q : Pend) (n : Nat) : Bool :=
  s.cmds.any fun c => decide (c.rid = q.rid) && decide (c.id < q.id) &&
    c.st.open_ && c.touches s q.va.toNat n

end Sys2Proof.Machine
end

