-- ==== Sys2Proof/Machine/Streams.lean ====
section
/-!
DEFINITION. Streams at their homes (R287 to R300): the rules for reads, stores, commits, releases,
rewinds and gates, the wait list, the doldrums detector, the host's alias windows and control pages,
and the STREAM words at issue (R302 to R309).
-/
namespace Sys2Proof.Machine

/-- A stream of a partition, if defined. -/
def State.stream (s : State) (p n : Nat) : Option Stream :=
  match s.part p with
  | some x => x.stream n
  | none => none
/-- Replaces a stream. -/
def State.setStream (s : State) (p n : Nat) (x : Stream) : State :=
  s.modPart p fun q => { q with streams := putT q.streams n x }

/-- Why a stream's home refuses an access: its switch die is lost (R299) or the partition holds no pod key (R37), or
its window bank's occupant is unloaded or the bank has another use (R288, R405). -/
def streamDown (s : State) (p : Nat) (x : Stream) : Option Nat :=
  if x.bk = 2 then
    if s.oasis.lost.any (fun l => decide (l = (gaModule x.fbase, fld x.fbase 37 36))) then some cLOST
    else match s.part p with
      | some y => if y.podKey.isNone && !y.podWait then some cACCESS else none
      | none => some cACCESS
  else if x.bk = 0 then
    if x.lost then some cACCESS
    else match s.inst (p * 8 + x.hsel) with
      | none => some cACCESS
      | some i =>
        match getT i.tiles (tkey (gaY x.fbase - i.y0) (gaX x.fbase - i.x0)) with
        | none => some cACCESS
        | some _ =>
          if i.img.bankUse (tkey (gaY x.fbase - i.y0) (gaX x.fbase - i.x0)) (fld x.fbase 19 16) = 2 then none else some cACCESS
  else none

/-- Whether a stream's home holds its accesses: the window bank's occupant is out, and has not been unloaded (R396, R405). -/
def streamOut (s : State) (p : Nat) (x : Stream) : Bool :=
  decide (x.bk = 0) && !x.lost && match s.part p with
    | some q => decide (q.cur ≠ x.hsel) && (s.inst (p * 8 + x.hsel)).isSome
    | none => false

/-- Reads n bytes of one frame of a stream (R288); frames under which pages have moved may lie in pieces (R153). -/
def frameRead (s : State) (p : Nat) (x : Stream) (o n : Nat) : List Byte :=
  if x.bk = 0 then
    match s.inst (p * 8 + x.hsel) with
    | some i => match getT i.tiles (tkey (gaY x.fbase - i.y0) (gaX x.fbase - i.x0)) with
      | some t => memGets t.sram (x.addr o % 2 ^ 20) n
      | none => []
    | none => []
  else if x.reloc.isEmpty then memGets s.mem (x.addr o) n
  else (List.range n).map fun j => memGet s.mem (x.addr (o + j))

/-- Whether n bytes of a stream's frames hold an uncorrectable error (R269). -/
def frameBad (s : State) (p : Nat) (x : Stream) (o n : Nat) : Bool :=
  if x.bk = 0 then
    match s.inst (p * 8 + x.hsel) with
    | some i => match getT i.tiles (tkey (gaY x.fbase - i.y0) (gaX x.fbase - i.x0)) with
      | some t => badAt t.bad (x.addr o % 2 ^ 20) n
      | none => false
    | none => false
  else if x.reloc.isEmpty then badAt s.bad (x.addr o) n
  else (List.range n).any fun j => badAt s.bad (x.addr (o + j)) 1

/-- Writes bytes into a frame of a stream (R288); every copy of their lines is given up first (R271, R279). -/
def frameWrite (s : State) (p : Nat) (x : Stream) (o : Nat) (bs : List Byte) : State :=
  if x.bk = 0 then
    s.modInst (p * 8 + x.hsel) fun i =>
      let tk := tkey (gaY x.fbase - i.y0) (gaX x.fbase - i.x0)
      match getT i.tiles tk with
      | some t => i.setTile tk { t with sram := memPuts t.sram (x.addr o % 2 ^ 20) bs, bad := mended t.bad (x.addr o % 2 ^ 20) bs.length }
      | none => i
  else
    let put (s : State) (a : Nat) (bs : List Byte) : State :=
      let s := giveUp s a bs.length
      (wordsOf a bs.length).foldl wakeWord (toMirror { s.setMem (memPuts s.mem a bs) with bad := mended s.bad a bs.length } p a bs)
    if x.reloc.isEmpty then put s (x.addr o) bs
    else (bs.foldl (fun a b => (put a.1 (x.addr a.2) [b], a.2 + 1)) (s, o)).1

/-- Reads bytes that may lie in several frames of a stream, each wherever its slot is (R288, R297). -/
def framesRead (s : State) (p : Nat) (x : Stream) (o n : Nat) : List Byte :=
  (List.range n).flatMap fun i => frameRead s p x ((o + i) % 2 ^ 48) 1
/-- Writes such bytes. -/
def framesWrite (s : State) (p : Nat) (x : Stream) (o : Nat) (bs : List Byte) : State :=
  (bs.foldl (fun a b => (frameWrite a.1 p x (a.2 % 2 ^ 48) [b], a.2 + 1)) (s, o)).1

/-- What the home makes of an access: done with a value, a fault, or it waits. -/
inductive Verdict (α : Type) where
  | ok (a : α)
  | bad (code : Nat)
  | wait

/-- R290: a device read of [o, o + n) by an agent of occupant c. -/
def readRule (x : Stream) (c o n : Nat) : Verdict Unit :=
  match occSlot x.slots c with
  | none => .bad cUNATTACHED
  | some k =>
    if behind o (x.slot k).toe then .bad cBEHIND
    else if atOrBefore (o + n) (x.vc k) then .ok () else .wait

/-- R291: a store of [o, o + n). -/
def storeRule (x : Stream) (o n : Nat) : Verdict Unit :=
  if behind o x.stoe then .bad cBEHIND
  else if atOrBefore (o + n) x.wend then .ok () else .wait

/-- SREL's effect on slot k (R306). -/
def Stream.release (x : Stream) (k t : Nat) : Stream :=
  let w := x.slot k
  let t := smin t (x.vc k)
  if ahead t w.toe then
    ({ x with slots := putT x.slots k { w with curd := w.curd - sdist t w.toe, toe := t } }).settle
  else x

/-- What the doldrums detector watches: CREST, and of each slot its TOE, its cursor and its gate (R300). -/
def Stream.marks (x : Stream) : Nat × List (Nat × Nat × Option Nat) :=
  (x.crest, (List.range 8).map fun k => ((x.slot k).toe, (x.slot k).cursor, if (x.slot k).gen then some (x.slot k).gsel else none))
/-- The stream after an event: the detector's count begins again where something it watches has changed (R300). -/
def Stream.after (x y : Stream) (now : Nat) : Stream := if y.marks = x.marks then y else { y with moved := now }
/-- A command with CURS reserves a span of bytes from its occupant's cursor (R318). -/
def Stream.reserve (x : Stream) (c b : Nat) : Except Nat (Stream × Nat) :=
  match occSlot x.slots c with
  | none => .error cUNATTACHED
  | some k =>
    let w := x.slot k
    if 2 ^ 36 ≤ w.curd + b then .error cACCESS
    else .ok ({ x with slots := putT x.slots k { w with curd := w.curd + b } }, w.cursor)

/-- Detaches a slot: ATT clears and TOE stays; a gate on others stands (R294, R295). -/
def Stream.detach (x : Stream) (k : Nat) : Stream :=
  ({ x with slots := putT x.slots k { x.slot k with att := false } }).settle

/-- The STREAM words at the home (R303 to R309), for occupant `c`. -/
def streamOp (x : Stream) (c f k : Nat) (arg : Word) (flag : Bool) : Verdict (Stream × Word) :=
  let o := streamOff arg.toNat
  let w := x.slot k
  let own := w.att && !w.host && decide (w.own = c)
  match f with
  | 0 =>
    if w.att || (occSlot x.slots c).isSome then .bad cACCESS
    else
      let y : Slot := { w with att := true, host := false, gen := false, own := c, curd := 0, toe := if flag then x.crest else x.stoe }
      .ok (({ x with slots := putT x.slots k y }).settle, 0)
  | 1 =>
    (match occSlot x.slots c with
     | none => .bad cUNATTACHED
     | some j => .ok (x.detach j, 0))
  | 2 =>
    if atOrBefore o x.crest then .ok (x, 0)
    else if atOrBefore o x.wend then .ok (({ x with crest := o }).settle, 0) else .wait
  | 3 => if own then .ok (x.release k o, 0) else .bad cUNATTACHED
  | 4 =>
    if !own then .bad cUNATTACHED
    else if behind o w.toe then .bad cBEHIND
    else if sdist o w.toe ≥ 2 ^ 36 then .bad cACCESS
    else .ok ({ x with slots := putT x.slots k { w with curd := sdist o w.toe } }, 0)
  | 5 =>
    let v : Nat := match arg.toNat with
      | 0 => x.crest
      | 1 => x.vc k
      | 2 => w.toe
      | 3 => w.cursor
      | 4 => x.stoe
      | 5 => x.wend
      | _ => b2n w.att * 2048 + b2n w.host * 1024 + b2n w.gen * 512 + w.gsel * 64 + w.own
    .ok (x, BitVec.ofNat 64 v)
  | _ =>
    if flag then
      (if arg.toNat % 8 = k then .bad cACCESS
       else .ok ({ x with slots := putT x.slots k { w with gen := true, gsel := arg.toNat % 8 } }, 0))
    else .ok ({ x with slots := putT x.slots k { w with gen := false } }, 0)

/-- A loaded value, extended as the load says (R188). -/
def extend (n : Nat) (signed : Bool) (v : Nat) : Word := if signed then sext (8 * n) v else BitVec.ofNat 64 v

/-- Examines one operation of a run at its stream's home (R290 to R292, R305): its new state, and
the state of the machine. While the occupant of a window bank is out, it waits in the order of its arrival (R396). -/
def examine (s : State) (q : Pend) : State × OpSt :=
  let n := streamNo q.va.toNat
  let o := streamOff q.va.toNat
  let bad (c : Nat) (d : Nat := n) : State × OpSt := (s, .faulted (pendFault s q c d))
  match s.stream q.part n with
  | none => bad cACCESS
  | some x =>
    match streamDown s q.part x with
    | some c => bad c (if c = cLOST then x.addr o else n)
    | none =>
      if streamOut s q.part x then (s, .waiting) else
      match q.act with
      | .load b sg _ =>
        (match readRule x (occOf q.inst) o b with
         | .ok _ => if frameBad s q.part x o b then bad cACCESS else (s, .done (extend b sg (ofBytes (frameRead s q.part x o b))))
         | .bad c => bad c
         | .wait => (s, .waiting))
      | .store b v =>
        (match storeRule x o b with
         | .ok _ => (frameWrite s q.part x o (toBytes b v.toNat), .done 0)
         | .bad c => bad c
         | .wait => (s, .waiting))
      | .stream f k arg flag =>
        (match streamOp x (occOf q.inst) f k arg flag with
         | .ok (x', v) =>
           (s.setStream q.part n (x.after x' s.cyc), .done v)
         | .bad c => bad c
         | .wait => (s, .waiting))
      | _ => bad cACCESS

/-- The bits of a value where a mask is set, of another elsewhere. -/
def merge (mask new old : Nat) : Nat := (new &&& mask) ||| (old ^^^ (old &&& mask))

/-- An A-tile's access at its stream's home (R284, R290, R291): performed with a value, or refused with
a fault code; none while it waits. -/
def tileServe (s : State) (p n : Nat) (w : StreamWait) : Option (State × Nat × Nat) :=
  match s.stream p n with
  | none => some (s, cACCESS, 0)
  | some x =>
    match streamDown s p x with
    | some c => some (s, c, 0)
    | none =>
      if streamOut s p x || s.flipHolds w.op (x.addr w.off) then none else
      match w.data with
      | none => (match readRule x w.occ w.off w.n with
        | .ok _ => if frameBad s p x w.off w.n then some (s, cACCESS, 0) else some (s, 0, ofBytes (frameRead s p x w.off w.n))
        | .bad c => some (s, c, 0)
        | .wait => none)
      | some (v, m) => (match storeRule x w.off w.n with
        | .ok _ => some (frameWrite s p x w.off (toBytes w.n (merge m v (ofBytes (frameRead s p x w.off w.n)))), 0, 0)
        | .bad c => some (s, c, 0)
        | .wait => none)

/-! ### The host's windows (R297, R298) -/

/-- The unique offset congruent to x modulo the window size, from a start (R297). -/
def aliasOff (start a x : Nat) : Nat := (start + (x + a - start % a) % a) % 2 ^ 48
/-- Counts a discarded host store (R297, R298). -/
def Stream.disc (x : Stream) : Stream := { x with sdisc := min (x.sdisc + 1) (2 ^ 32 - 1) }
/-- Whether a flip or a lost port holds host bytes of a stream's frames (R128). -/
def framesShut (s : State) (x : Stream) (o n : Nat) : Bool := (List.range n).any fun i => s.shut (x.addr ((o + i) % 2 ^ 48)) 1
/-- The register of a control page at an offset (R298). -/
def Stream.page (x : Stream) (o : Nat) : Nat :=
  match o with
  | 0x000 => x.crest
  | 0x008 => x.stoe
  | 0x010 => x.wend
  | 0x018 => x.lzero * 2 ^ 32 + x.sdisc
  | y => if 0x40 ≤ y ∧ y < 0xC0 then (if y % 16 = 0 then (x.slot ((y - 0x40) / 16)).toe else if y % 16 = 8 then x.vc ((y - 0x40) / 16) else 0) else 0
/-- What a host party does at a stream's home, through a VF (R297, R298): the state, and the value that a load returns;
none while a flip holds it. -/
def hostAct (s : State) (p n : Nat) (x : Stream) (vf : Nat) : HostStream → Option (State × Nat)
  | .load a b k =>
    let zero : Option (State × Nat) := some (s.setStream p n { x with lzero := min (x.lzero + 1) (2 ^ 32 - 1) }, 0)
    match hostSlot x.slots vf with
    | none => zero
    | some j =>
      let o := aliasOff (x.slot j).toe a b
      if (streamDown s p x).isNone && !behind o (x.slot j).toe && atOrBefore (o + k) (x.vc j) then
        (if framesShut s x o k then none else some (s, ofBytes (framesRead s p x o k)))
      else zero
  | .store a b k data =>
    let o := aliasOff x.stoe a b
    if (streamDown s p x).isNone && !behind o x.stoe && atOrBefore (o + k) x.wend then
      (if framesShut s x o k then none else some (framesWrite s p x o (toBytes k data), 0))
    else some (s.setStream p n x.disc, 0)
  | .page o _ => some (s, x.page o)
  | .crest c =>
    if behind c x.crest then some (s, 0)
    else if ahead c x.wend then some (s.setStream p n x.disc, 0)
    else some (s.setStream p n (x.after ({ x with crest := c }).settle s.cyc), 0)
  | .toe k v =>
    if hostSlot x.slots vf = some k then some (s.setStream p n (x.after (x.release k v) s.cyc), 0)
    else some (s.setStream p n x.disc, 0)
  | .clear => some (s.setStream p n { x with lzero := 0, sdisc := 0 }, 0)
/-- SATTACH's effect on slot k (R294, R301); none where the call answers SVC_STATE. -/
def Stream.attach (x : Stream) (k vf : Nat) (crest gate : Bool) (gsel : Nat) : Option Stream :=
  if x.sc ≠ 4 ∨ (x.slot k).att = true ∨ (hostSlot x.slots vf).isSome = true then none
  else
    let y : Slot := { att := true, host := true, gen := gate, gsel := gsel, own := vf, toe := if crest then x.crest else x.stoe }
    some ({ x with slots := putT x.slots k y }).settle
/-- The 96 bits of a reader slot (R287). -/
def Slot.encode (w : Slot) : Nat :=
  b2n w.att * 2 ^ 95 + b2n w.host * 2 ^ 94 + b2n w.gen * 2 ^ 93 + w.gsel * 2 ^ 90 + w.own * 2 ^ 84 + w.curd * 2 ^ 48 + w.toe
/-- The 1024 bits of a descriptor (R287). -/
def Stream.encode (x : Stream) : Nat :=
  ((List.range 8).foldl (fun a k => a + (x.slot k).encode * 2 ^ (256 + 96 * k)) 0) + 2 ^ 255 + x.bk * 2 ^ 253 + x.f * 2 ^ 248 +
    x.wm1 * 2 ^ 232 + x.sc * 2 ^ 229 + x.stalle * 2 ^ 223 + x.hsel * 2 ^ 215 + x.fbase * 2 ^ 152 + x.tslot * 2 ^ 136 + x.stoe * 2 ^ 48 + x.crest
/-- Detaches the slots an occupant holds, and loses the frames of its window-bank streams (R294, R405). -/
def unloadStream (occ : Nat) (x : Stream) : Stream :=
  let x := { x with slots := mapT (fun _ w => if w.att && !w.host && decide (w.own = occ) then { w with att := false } else w) x.slots }
  let x := x.settle
  if x.bk = 0 ∧ x.hsel = occ then { x with lost := true } else x

/-- Detaches the host slots of a VF from a stream (R294, R387). -/
def detachVf (n : Nat) (x : Stream) : Stream :=
  match hostSlot x.slots n with
  | some k => x.detach k
  | none => x

/-! ### Parties on other modules (R299) -/

/-- An access from another module as an operation of a run of its occupant's (R299). -/
def StreamWait.pend (w : StreamWait) (p n : Nat) (act : Act) : Pend :=
  { id := w.op, core := 0, rid := 0, part := p, inst := w.occ * 2 ^ 25, va := BitVec.ofNat 64 (2 ^ 63 + n * 2 ^ 48 + w.off), cls := .pnc, act := act }
/-- The answer to a party on another module, as one number: a fault code and a value, or for a stream call a status. -/
abbrev FarAnswer := Option (State × Nat × Nat)
/-- A party on another module at its stream's home (R299): what returns, or none while it waits. A stream call of another
module answers 0, or 1 where the home refuses it (R301). -/
def farServe (s : State) (p n : Nat) (w : StreamWait) (act : LlStream) : FarAnswer :=
  let at_ (f : Stream → FarAnswer) : FarAnswer := match s.stream p n with
    | none => some (s, cACCESS, 0)
    | some x => f x
  let put (x y : Stream) (v : Nat) : FarAnswer := some (s.setStream p n (x.after y s.cyc), 0, v)
  match act with
  | .read b => tileServe s p n { w with n := b, data := none }
  | .store b v m => tileServe s p n { w with n := b, data := some (v, m) }
  | .op f k arg flag => (match examine s (w.pend p n (.stream f k arg flag)) with
    | (s, .done v) => some (s, 0, v.toNat)
    | (s, .faulted f) => some (s, f.code, 0)
    | _ => none)
  | .span b => at_ fun x => match streamDown s p x, x.reserve w.occ b with
      | some c, _ => some (s, c, 0)
      | none, .error c => some (s, c, 0)
      | none, .ok y => put x y.1 y.2
  | .host vf h => at_ fun x => (hostAct s p n x vf h).map fun r => (r.1, 0, r.2)
  | .attach k vf crest gate gsel => at_ fun x => match x.attach k vf crest gate gsel with
      | some y => put x y 0
      | none => some (s, 0, 1)
  | .detach k => at_ fun x => put x (x.detach k) 0
  | .stall e => at_ fun x => some (s.setStream p n { x with stalle := e }, 0, 0)
  | .stat => at_ fun x => some (s, 0, x.encode)
  | .leave => at_ fun x => put x (unloadStream w.occ x) 0
  | .vfLeave vf => at_ fun x => put x (detachVf vf x) 0

/-- Takes a waiting access off its stream's list. -/
def dropWait (s : State) (p n op : Nat) : State :=
  match s.stream p n with
  | some x => s.setStream p n { x with waits := delFirst (fun y => decide (y.op = op)) x.waits }
  | none => s
/-- Examines the waiting accesses of a stream once, in their order (R292): of a run, of a party on another module,
or of an A-tile. -/
def reexamine (s : State) (p n : Nat) : List StreamWait → State
  | [] => s
  | w :: l =>
    match w.via, s.pend w.op with
    | some v, _ =>
      (match farServe s p n w v.2 with
       | none => reexamine s p n l
       | some (s, c, x) => reexamine ((dropWait s p n w.op).answerOn v.1 p c x) p n l)
    | none, none =>
      if w.tile then
        match tileServe s p n w with
        | none => reexamine s p n l
        | some (s1, c, v) =>
          let s2 := match s1.stream p n with
            | some x => s1.setStream p n { x with waits := delFirst (fun y => decide (y.op = w.op)) x.waits, served := x.served ++ [(w.op, c, v)] }
            | none => s1
          reexamine s2 p n l
      else reexamine s p n l
    | none, some q =>
      match examine s q with
      | (s1, .waiting) => reexamine s1 p n l
      | (s1, st) => reexamine (dropWait (s1.setPend { q with st := st }) p n w.op) p n l

/-- The accesses of a stream's wait list (R292). -/
def waitMax : Nat := 64
/-- Held accesses enter the wait list while it has room, in their order (R292). -/
def Stream.letIn (x : Stream) : Stream :=
  let k := waitMax - x.waits.length
  { x with waits := x.waits ++ x.held.take k, held := x.held.drop k }
/-- Examines the waiting accesses until none moves any more: at most once for each that waits or is held. -/
def settleWaits (s : State) (p n : Nat) : Nat → State
  | 0 => s
  | f + 1 =>
    match s.stream p n with
    | none => s
    | some x =>
      if x.waits.isEmpty && x.held.isEmpty then s
      else settleWaits (reexamine (s.setStream p n x.letIn) p n x.letIn.waits) p n f

/-- Examines the waiting accesses of a stream after an event of its order (R292). A stream that lives on another
module has them examined there (R299). -/
def wakeStream (s : State) (p n : Nat) : State :=
  match s.stream p n with
  | none => s
  | some x => if s.remoteStream x then s else settleWaits s p n (x.waits.length + x.held.length + 1)

/-- Enters an access in a stream's wait list; one that finds it full is held at its requester (R292). -/
def addWait (s : State) (p n : Nat) (w : StreamWait) : State :=
  match s.stream p n with
  | none => s
  | some x =>
    if (x.waits ++ x.held).any (fun v => decide (v.op = w.op)) then s
    else if x.waits.length < waitMax then s.setStream p n { x with waits := x.waits ++ [w] }
    else s.setStream p n { x with held := x.held ++ [w] }

/-- Whether an operation is a withdrawn request of a saved run, which issues again only after the restore (R210, R396,
R398). -/
def runSaved (s : State) (q : Pend) : Bool :=
  q.withdraws && match s.part q.part with
  | some x => x.saved.any fun v => decide (v.run.rid = q.rid)
  | none => false
/-- What a run's operation asks of a stream's home (R299). -/
def Act.asks : Act → Option LlStream
  | .load n _ _ => some (.read n)
  | .store n v => some (.store n v.toNat (2 ^ (8 * n) - 1))
  | .stream f k arg flag => some (.op f k arg flag)
  | _ => none
/-- Whether a word is the fault code of an answer from a stream's home (R290 to R292, R299, R300, R305). -/
def answerCode (c : Nat) : Bool := [cACCESS, cBEHIND, cSTALL, cUNATTACHED, cLOST].contains c
/-- Sends what a party asks of a stream's home on another module (R299, R336). -/
def askStream (s : State) (p n occ off : Nat) (x : Stream) (act : LlStream) : Option State :=
  s.sendToken (gaModule x.fbase) (planeOf x.fbase) p (memTag (gaModule x.fbase) (planeOf x.fbase)) (.stream n occ off act)
/-- The continuation words of a STREAM_STALL record (R380). -/
def stallWords (x : Stream) : List Word :=
  [BitVec.ofNat 64 x.crest, BitVec.ofNat 64 x.stoe] ++ (List.range 8).map (fun k => BitVec.ofNat 64 (x.slot k).toe) ++
    (List.range 8).map (fun k => BitVec.ofNat 64 (x.slot k).cursor) ++ List.replicate 6 0
/-- Those words in an answer from a home on another module: 18 offsets of 48 bits, and six zeros (R299, R300). -/
def answerWords (code v : Nat) : List Word :=
  if code = cSTALL then (List.range 18).map (fun k => BitVec.ofNat 64 (v / 2 ^ (64 * k) % 2 ^ 48)) ++ List.replicate 6 0 else []
/-- An operation of a run for a stream that lives on another module (R299): its token leaves, and a later turn whose
argument 1 is 1 or 2 brings the answer, the value or the fault code of argument 2, with the words of argument 3 where it
is STREAM_STALL (DESIGN CHOICE, log entry 35). -/
def streamAway (s : State) (q : Pend) (n : Nat) (x : Stream) : State :=
  match streamDown s q.part x, q.st, q.act with
  | some c, _, _ => s.setPend { q with st := .faulted (pendFault s q c (if c = cLOST then x.addr (streamOff q.va.toNat) else n)) }
  | none, .waiting, a =>
    if s.arg 1 = 1 then s.setPend { q with st := .done (match a with | .load b sg _ => extend b sg (s.arg 2 % 2 ^ (8 * b)) | _ => BitVec.ofNat 64 (s.arg 2)) }
    else if s.arg 1 = 2 ∧ answerCode (s.arg 2) = true then
      s.setPend { q with st := .faulted { pendFault s q (s.arg 2) (if s.arg 2 = cLOST then x.addr (streamOff q.va.toNat) else n) with
        ext := answerWords (s.arg 2) (s.arg 3) } }
    else s
  | none, _, a => match a.asks with
    | some r => (match askStream s q.part n (occOf q.inst) (streamOff q.va.toNat) x r with
      | some s => s.setPend { q with st := .waiting }
      | none => s)
    | none => s
/-- The answer to an A-tile's access to a stream that lives on another module comes back, as `streamAway` says. -/
def tileBack (s : State) (op : Nat) : State :=
  match s.parts.findSome? fun y => (y.2.streams.find? fun e => s.remoteStream e.2 && e.2.waits.any fun w => decide (w.op = op)).map fun e => (y.1, e) with
  | none => s
  | some (p, n, x) =>
    let back (c v : Nat) : State := s.setStream p n { x with waits := delFirst (fun w => decide (w.op = op)) x.waits, served := x.served ++ [(op, c, v)] }
    match streamDown s p x with
    | some c => back c 0
    | none => if s.arg 1 = 1 then back 0 (s.arg 2) else if s.arg 1 = 2 ∧ answerCode (s.arg 2) = true then back (s.arg 2) (s.arg 3) else s
/-- An access of a number that a stream's home has answered: its fault code or 0, and its value, or the words of a
STREAM_STALL. -/
def takeServed (s : State) (p op : Nat) : Option (State × Nat × Nat) :=
  match s.part p with
  | none => none
  | some x => match x.streams.find? fun e => e.2.served.any fun v => decide (v.1 = op) with
    | none => none
    | some (n, w) => match w.served.find? fun v => decide (v.1 = op) with
      | none => none
      | some v => some (s.setStream p n { w with served := delFirst (fun v => decide (v.1 = op)) w.served }, v.2.1, v.2.2)
/-- Whether an access waits at a stream's home. -/
def inWaits (s : State) (p op : Nat) : Bool :=
  match s.part p with
  | none => false
  | some x => x.streams.any fun e => (e.2.waits ++ e.2.held).any fun v => decide (v.op = op)
/-- Whether a stream's home has an access of a number, waiting or answered. -/
def atStream (s : State) (p op : Nat) : Bool := inWaits s p op || (takeServed s p op).isSome
/-- An access of a number leaves every stream's home: it is withdrawn, or what issued it has stopped. -/
def leaveStreams (s : State) (p op : Nat) : State :=
  s.modPart p fun x => { x with streams := mapT (fun _ w => { w with
    waits := w.waits.filter fun v => decide (v.op ≠ op), held := w.held.filter fun v => decide (v.op ≠ op)
    served := w.served.filter fun v => decide (v.1 ≠ op) }) x.streams }

/-- Whether an operation of a run is held before its stream's home (R128, R191, R210, R322). -/
def streamHeld (s : State) (q : Pend) (x : Stream) : Bool :=
  earlierOverlap s q || runSaved s q ||
    (match q.act with
     | .load .. => s.flipHolds q.id (x.addr (streamOff q.va.toNat))
     | .store b _ => s.flipHolds q.id (x.addr (streamOff q.va.toNat)) || cmdBlocks s q b
     | _ => false)
/-- The home examines an operation of a run, which then is done, has faulted or waits (R290 to R292). -/
def streamTake (s : State) (q : Pend) (n : Nat) : State :=
  match examine s q with
  | (s1, .waiting) => addWait (s1.setPend { q with st := .waiting }) q.part n { op := q.id, since := s.cyc }
  | (s1, st) => wakeStream (s1.setPend { q with st := st }) q.part n
/-- An access or operation of a run reaches its stream's home (R290 to R292, R299). -/
def streamAtHome (s : State) (pick : Act → Bool) : Out :=
  .next (match s.pend (s.arg 0) with
  | none => tileBack s (s.arg 0)
  | some q =>
    let n := streamNo q.va.toNat
    if !(pick q.act && isStream q.va && q.st.open_) then s
    else match s.stream q.part n with
    | some x =>
      if s.remoteStream x && decide (q.st = .waiting) then streamAway s q n x
      else if decide (q.st ≠ .issued) || streamHeld s q x then s
      else if noKey s q.part x.fbase then askAgain s q.part
      else if s.remoteStream x then streamAway s q n x
      else streamTake s q n
    | none => if q.st = .issued ∧ runSaved s q = false ∧ earlierOverlap s q = false then streamTake s q n else s)

/-- STREAM_READ_AT_HOME (R290): argument 0 names the operation. -/
def execStreamReadAtHome (s : State) : Out := streamAtHome s fun a => match a with | .load .. => true | _ => false
/-- STREAM_STORE_AT_HOME (R291): argument 0 names the operation. -/
def execStreamStoreAtHome (s : State) : Out := streamAtHome s fun a => match a with | .store .. => true | _ => false
/-- STREAM_OP_AT_HOME (R292, R303 to R309): argument 0 names the operation. -/
def execStreamOpAtHome (s : State) : Out := streamAtHome s fun a => match a with | .stream .. => true | _ => false

/-! ### The host at its ports (R297, R298) -/

/-- The window of a VF's BAR2 that holds an offset. -/
def findWindow : List Window → Nat → Option Window
  | [], _ => none
  | w :: l, o => if w.offset ≤ o ∧ o < w.offset + w.size then some w else findWindow l o
/-- Sends bytes to the host as the answer to a load. -/
def answer (s : State) (hport : Nat) (bs : List Byte) : State :=
  { s with hports := putT s.hports hport { getTD s.hports hport {} with out := (getTD s.hports hport {}).out ++ [bs] } }
/-- Whether a host party's act may move what waiting accesses wait for (R292). -/
def hostMoves : HostStream → Bool
  | .crest _ => true
  | .toe .. => true
  | _ => false
/-- Answers a load of n bytes, or nothing for a store. -/
def answerLoad (s : State) (hport : Nat) (ret : Option Nat) (v : Nat) : State :=
  match ret with
  | some n => answer s hport (toBytes n v)
  | none => s
/-- A host party acts at a stream's home (R297 to R299): here, or on another module, where its token goes and what a load
returns is open (DESIGN CHOICE, log entry 35). It waits for the pod partition key (R37), for a link, and for a flip. -/
def hostStream (s : State) (v : Vf) (vf n : Nat) (h : HostStream) (ret : Option Nat) : State :=
  match s.stream v.part n with
  | none => answerLoad s v.hport ret 0
  | some x =>
    if noKey s v.part x.fbase then askAgain s v.part
    else if s.remoteStream x && (streamDown s v.part x).isNone then
      match askStream s v.part n 0 0 x (.host vf h) with
      | none => s
      | some s => answerLoad s.free.2 v.hport ret s.free.1
    else match hostAct s v.part n x vf h with
      | none => s
      | some (s, m) => answerLoad (if hostMoves h then wakeStream s v.part n else s) v.hport ret m

/-- ALIAS_LOAD (R297): data inside the visible window, else zeros and a count. -/
def execAliasLoad (vf off n : Nat) (s : State) : Out :=
  .next (match getT s.vfs vf with
  | none => s
  | some v =>
    if !s.ideUp v.hport then s else
    match findWindow v.windows off with
    | none => answer s v.hport (List.replicate n 0)
    | some w => hostStream s v vf w.stream (if w.ctl then .page (off - w.offset) n else .load w.size (off - w.offset) n) (some n))
/-- ALIAS_STORE (R297). -/
def execAliasStore (vf off n data : Nat) (s : State) : Out :=
  .next (match getT s.vfs vf with
  | none => s
  | some v =>
    if !s.ideUp v.hport then s else
    match findWindow v.windows off with
    | none => s
    | some w => if w.ctl then s else hostStream s v vf w.stream (.store w.size (off - w.offset) n data) none)
/-- A control-page write through a VF that has the page of the stream. -/
def ctlWrite (s : State) (vf stream : Nat) (h : HostStream) : Out :=
  .next (match getT s.vfs vf with
  | none => s
  | some v => if !s.ideUp v.hport || !v.windows.any (fun w => w.ctl && decide (w.stream = stream)) then s else hostStream s v vf stream h none)
/-- CREST_WRITE (R298). -/
def execCrestWrite (vf stream value : Nat) (s : State) : Out := ctlWrite s vf stream (.crest (value % 2 ^ 48))
/-- TOE_WRITE (R298): a release by the slot's own VF, as SREL. -/
def execToeWrite (vf stream slot value : Nat) (s : State) : Out := ctlWrite s vf stream (.toe slot (value % 2 ^ 48))
/-- LZERO_SDISC_WRITE (R298): any write clears both fields. -/
def execLzeroSdiscWrite (vf stream : Nat) (s : State) : Out := ctlWrite s vf stream .clear

/-! ### The STREAM words at issue (R302) -/

/-- Issues a STREAM word: g[a] must be a stream address of a defined stream. -/
def streamWord (s : State) (f k : Nat) (a : Reg) (d : Reg) (cls : Cls) (rel : Bool) (flag : Bool) (arg : Run → Word) : Out :=
  onRun s fun n r =>
    let va := r.get a
    let ok := isStream va && (s.stream (partOf r.rc.inst) (streamNo va.toNat)).isSome
    if !ok then .next (trap s n r cACCESS va)
    else if (rel && !r.drained) || decide (63 ≤ r.cnt cls) then stall s
    else .next (issue s n r (mkPend s n r cls (.stream f k (arg r) flag) d.val va 0 false))

/-- SOPEN (R303). -/
def execSopen (a : Reg) (k : Fin 8) (crest : Bool) (s : State) : Out := streamWord s 0 k.val a 0 .cpc false crest fun r => r.get a
/-- SCLOSE (R304). -/
def execSclose (a : Reg) (s : State) : Out := streamWord s 1 0 a 0 .cpc false false fun r => r.get a
/-- SCOMMIT (R305). -/
def execScommit (a : Reg) (s : State) : Out := streamWord s 2 0 a 0 .cpc true false fun r => r.get a
/-- SREL (R306). -/
def execSrel (a : Reg) (k : Fin 8) (s : State) : Out := streamWord s 3 k.val a 0 .cpc true false fun r => r.get a
/-- SRWD (R307). -/
def execSrwd (a : Reg) (k : Fin 8) (s : State) : Out := streamWord s 4 k.val a 0 .cpc false false fun r => r.get a
/-- SQRY (R308). -/
def execSqry (d a : Reg) (k : Fin 8) (m : Fin 7) (s : State) : Out :=
  streamWord s 5 k.val a d .ldc false false fun _ => BitVec.ofNat 64 m.val
/-- SGATE (R309). -/
def execSgate (a b : Reg) (k : Fin 8) (on : Bool) (s : State) : Out :=
  streamWord s 6 k.val a 0 .cpc false on fun r => if on then r.get b else 0

end Sys2Proof.Machine
end

