-- ==== Sys2Proof/Machine/Caches.lean ====
section
/-!
DEFINITION. The caches (R126, R127, R268 to R283, R378): which lines the L1s, L2s, stash banks and
fabric caches hold and in which state, retention, and the CACHE words. Data lives once, in memory;
only a fabric cache, which is not coherent, holds data of its own (R279; DEDUCED, log entry 11).
-/
namespace Sys2Proof.Machine

/-- A control core's L1 (R273). -/
def State.l1 (s : State) (n : Nat) : List L1Line := getTD s.caches.l1 n []
/-- Replaces an L1. -/
def State.setL1 (s : State) (n : Nat) (l : List L1Line) : State :=
  { s with caches := { s.caches with l1 := putT s.caches.l1 n l } }
/-- A die's L2 (R274). -/
def State.l2 (s : State) (d : Nat) : List L2Line := getTD s.caches.l2 d []
/-- Replaces an L2. -/
def State.setL2 (s : State) (d : Nat) (l : List L2Line) : State :=
  { s with caches := { s.caches with l2 := putT s.caches.l2 d l } }
/-- A die's read-only fabric cache (R279). -/
def State.fab (s : State) (d : Nat) : List FLine := getTD s.caches.fab d []

/-- The set of an L2 line address (R151). -/
def l2Set (pa : Nat) : Nat := (fld pa 22 10 ^^^ fld pa 35 23 ^^^ (fld pa 45 36 * 8)) % 8192
/-- The colour of an L2 line address (R151). -/
def colourOf (pa : Nat) : Nat := l2Set pa / 256
/-- The set of an L1 line (R273). -/
def l1Set (ga : Nat) : Nat := fld ga 13 7

/-- The reserved way count of a partition (R276). -/
def Part.rw (x : Part) : Nat := x.retain.foldl (fun m e => if e.2.active then max m e.2.w else m) 0
/-- The lowest-numbered active retention register that satisfies a condition. -/
def lowestRetain (x : Part) (p : Retain → Bool) : Option Nat :=
  (List.range 8).find? fun k => (getTD x.retain k {}).active && p (getTD x.retain k {})
/-- The retention register of an access (R275, R276). -/
def retainOf (x : Part) (va : Nat) (hint : Hint) : Option Nat :=
  match lowestRetain x (fun r => decide (r.base ≤ va) && decide (va < r.base + r.len)) with
  | some k => some k
  | none => if hint = .retainClass then lowestRetain x (fun _ => true) else none

/-- The lines of a list that lie in a set, with a predicate on their way. -/
def inSet (l : List L2Line) (set : Nat) (p : Nat → Bool) : List L2Line :=
  l.filter fun x => decide (l2Set x.ga = set) && p x.way
/-- The first way from lo below hi that no line of a list holds. -/
def freeWay (l : List L2Line) (lo hi : Nat) : Option Nat :=
  ((List.range hi).drop lo).find? fun w => !l.any (fun x => decide (x.way = w))

/-- Whether a monitor is armed on a word in a range of one home (R373). -/
def armedIn (s : State) (lo hi : Nat) : Bool :=
  (getTD s.mons (monTable lo) []).any fun m => decide (lo ≤ m.ga) && decide (m.ga < hi)
/-- Whether an address belongs to the host's coherence: host memory, or a page in host bias (R126, R127). -/
def State.hostLine (s : State) (ga : Nat) : Bool := decide (gaKind ga = 4) || s.hostBias ga
/-- Whether a line holds a half that an armed monitor keeps against replacement (R373). -/
def pinned (s : State) (y : L2Line) : Bool := s.hostLine y.ga && armedIn s y.ga (y.ga + 1024)

/-- Chooses the way of a new line and the line that it replaces (R276): the way, the line that goes, and
whether the retention register overflowed; none where every candidate is pinned. -/
def allocWay (l : List L2Line) (set rw : Nat) (marked : Bool) (pin : L2Line → Bool) : Option (Nat × Option L2Line × Bool) :=
  let resv := inSet l set fun w => decide (16 - rw ≤ w)
  let ordy := inSet l set fun w => decide (w < 16 - rw)
  let evict (c : List L2Line) (ovf : Bool) : Option (Nat × Option L2Line × Bool) :=
    (c.filter fun y => !pin y).getLast?.map fun v => (v.way, some v, ovf)
  if marked && decide ((resv.filter fun x => x.mark.isSome).length < rw) then
    match freeWay resv (16 - rw) 16 with
    | some w => some (w, none, false)
    | none => evict (resv.filter fun x => x.mark.isNone) false
  else
    match freeWay ordy 0 (16 - rw) with
    | some w => some (w, none, marked)
    | none => evict ordy marked

/-- An access at its home L2 (R274 to R276): the line becomes most recent, or is allocated, and an eviction
recalls every copy above it. The dirty bit of a sector stands for the dirty copies above it too, and host lines
keep MESI by halves instead. A resident line is marked whether or not the access allocates its sector. -/
def touchL2 (s : State) (p va ga : Nat) (write : Bool) (hint : Hint) : State :=
  match s.part p with
  | none => s
  | some x =>
    let d := gaDie ga
    let l := s.l2 d
    let line := ga / 1024 * 1024
    let sec := ga / 128 % 8
    let dirty (v : Nat) : Nat := if write && !s.hostLine ga then v ||| 2 ^ sec else v
    match l.find? fun y => decide (y.ga = line) with
    | some y =>
      let k := lowestRetain x fun r => decide (r.base ≤ va) && decide (va < r.base + r.len)
      let y := { y with mark := if y.mark.isSome then y.mark else k.map fun k => (p, k) }
      let y' := if hint = .noAllocate ∧ bit y.valid sec = false then y else { y with valid := y.valid ||| 2 ^ sec, dirty := dirty y.dirty }
      if hint = .evictFirst ∨ hint = .noAllocate then s.setL2 d (updFirst (fun z => decide (z.ga = line)) (fun _ => y') l)
      else s.setL2 d (y' :: delFirst (fun z => decide (z.ga = line)) l)
    | none =>
      let m := retainOf x va hint
      if hint = .noAllocate then s
      else match allocWay l (l2Set line) x.rw m.isSome (pinned s) with
      | none => s
      | some (w, old, ovf) =>
        let l := match old with | some v => l.filter fun z => decide (z.ga ≠ v.ga) | none => l
        let s := match old with | some v => dropStash (dropL1 s v.ga (v.ga + 1024)) v.ga (v.ga + 1024) true | none => s
        let y : L2Line := { ga := line, valid := 2 ^ sec, dirty := dirty 0, mark := m.map (fun k => (p, k)), way := w }
        let s := s.setL2 d (if hint = .evictFirst then l ++ [y] else y :: l)
        match ovf, m with
        | true, some k =>
          s.setPart p { x with retain := putT x.retain k { getTD x.retain k {} with ovf := min ((getTD x.retain k {}).ovf + 1) (2 ^ 32 - 1) } }
        | _, _ => s

/-- A line whose covered part takes a state at most `st`: the line, or one 64-byte half of a host line. -/
def L1Line.cap (x : L1Line) (half : Option Bool) (st : Nat) : L1Line :=
  match half with
  | none => { x with lo := min x.lo st, hi := min x.hi st }
  | some false => { x with lo := min x.lo st }
  | some true => { x with hi := min x.hi st }
/-- The state of the part of a line that an access covers. -/
def L1Line.st (x : L1Line) : Option Bool → Nat
  | none => max x.lo x.hi
  | some false => x.lo
  | some true => x.hi
/-- The L1 copies of an address, but for those of a core that keeps its own, take a state at most `st`: MESI is 0 I,
1 S, 2 E, 3 M. A line whose halves are both Invalid is free (R127). -/
def capOthers (s : State) (keep : Option Nat) (ga st : Nat) (half : Option Bool) : State :=
  { s with caches := { s.caches with l1 := mapT (fun k l => if keep = some k then l else
      (l.map fun x => if x.ga = ga / 128 * 128 then x.cap half st else x).filter fun x => decide (x.lo ≠ 0) || decide (x.hi ≠ 0)) s.caches.l1 } }

/-- An access of a core's L1 takes its line, or one half of a host line, to a state (R273, R275, R378). -/
def touchL1 (s : State) (n ga st : Nat) (hint : Hint) (half : Option Bool) : State :=
  let line := ga / 128 * 128
  let l := s.l1 n
  let set (x : L1Line) : L1Line :=
    match half with
    | none => { x with lo := max x.lo st, hi := max x.hi st }
    | some false => { x with lo := max x.lo st }
    | some true => { x with hi := max x.hi st }
  match l.find? fun x => decide (x.ga = line) with
  | some x =>
    if hint = .evictFirst ∨ hint = .noAllocate then s.setL1 n (updFirst (fun z => decide (z.ga = line)) (fun _ => set x) l)
    else s.setL1 n (set x :: delFirst (fun z => decide (z.ga = line)) l)
  | none =>
    if hint = .noAllocate then s
    else
      let mine := l.filter fun x => decide (l1Set x.ga = l1Set line)
      let l := if mine.length < 20 then l else match mine.getLast? with
        | some v => l.filter fun x => decide (x.ga ≠ v.ga)
        | none => l
      let y := set { ga := line, lo := 0, hi := 0 }
      s.setL1 n (if hint = .evictFirst then l ++ [y] else y :: l)

/-- The state of a 64-byte half of host memory at its home L2: 0 I, 1 S, 2 E, 3 M (R127). -/
def halfGet (s : State) (h : Nat) : Nat :=
  match (s.l2 (gaDie (h * 64))).find? fun y => decide (y.ga = h / 16 * 1024) with
  | some y => getTD y.half (h % 16) 0
  | none => 0
/-- A host line with the state of one half set; a sector whose halves are both Invalid is free, and so is a line
with no sector left (R127). -/
def L2Line.setHalf (y : L2Line) (j st : Nat) : Option L2Line :=
  let half := putT y.half j st
  let dead := decide (getTD half (j / 2 * 2) 0 = 0) && decide (getTD half (j / 2 * 2 + 1) 0 = 0)
  let valid := if dead then y.valid - (if bit y.valid (j / 2) then 2 ^ (j / 2) else 0) else y.valid ||| 2 ^ (j / 2)
  if valid = 0 then none else some { y with half := half, valid := valid }
/-- Sets the state of a half in a line that the home L2 holds. -/
def halfSet (s : State) (h st : Nat) : State :=
  s.setL2 (gaDie (h * 64)) ((s.l2 (gaDie (h * 64))).filterMap fun y => if y.ga = h / 16 * 1024 then y.setHalf (h % 16) st else some y)
/-- Whether a monitor is armed on a word of an address's line, or of its 64-byte half of a host line (R373). -/
def armedUnit (s : State) (ga : Nat) : Bool :=
  if s.hostLine ga then armedIn s (ga / 64 * 64) (ga / 64 * 64 + 64) else armedIn s (ga / 128 * 128) (ga / 128 * 128 + 128)
/-- The home L2 obtains a 64-byte half (R126, R127, R378): S for a load, E for a read-modify-write that writes
nothing, M once written; and S under an armed monitor, for then a store is written through (R373). A miss that allocates
nothing leaves none. -/
def hostHalf (s : State) (p va ga : Nat) (write rmw : Bool) (hint : Hint) : State :=
  let h := halfGet s (ga / 64)
  let s := touchL2 s p va ga write hint
  if hint = .noAllocate ∧ h = 0 then s
  else halfSet s (ga / 64) (if armedUnit s ga then 1 else if write then 3 else max (if rmw then 2 else 1) h)
/-- The caches keep an address's line, or its 64-byte half of a host line, only shared, as they do while a monitor is
armed on it: what is more is written back (R373). -/
def shareOnly (s : State) (ga : Nat) : State :=
  let host := s.hostLine ga
  let s := capOthers s none ga 1 (if host then some (bit ga 6) else none)
  let s := if host && decide (1 < halfGet s (ga / 64)) then halfSet s (ga / 64) 1 else s
  dropStash s (ga / 128 * 128) (ga / 128 * 128 + 128) false

/-- The stash sector of a backing address: bank × 512 + sector (R270). -/
def stashIdx (q : Page) (ga : Nat) : Nat := q.sbank * 512 + fld ga 15 7
/-- An access through a stash page (R270, R271): the sector at the stash home is hit, or filled from its home L2,
exclusive where it is written. A line with an armed monitor stays shared (R373). A hit marks its line at the home L2 as
any access does (R276). -/
def touchStash (s : State) (p : Nat) (q : Page) (va ga : Nat) (excl write : Bool) : State :=
  match s.tileAt p q.sx q.sy with
  | none => s
  | some (k, tk, t) =>
    let tag := getTD t.stash (stashIdx q ga) (0, 0)
    if tag.2 ≠ 0 ∧ tag.1 = ga / 2 ^ 16 ∧ (excl = false ∨ tag.2 = 2) then touchL2 s p va ga write .noAllocate
    else
      let lo := ga / 128 * 128
      let s := touchL2 (dropStash (capOthers s none ga (if excl then 0 else 1) none) lo (lo + 128) excl) p va ga write .normal
      s.modTile k tk fun t => { t with stash := putT t.stash (stashIdx q ga) (ga / 2 ^ 16, if excl && !armedUnit s ga then 2 else 1) }

/-- Whether a core's L1 holds an address's line, or its half of a host line. -/
def inL1 (s : State) (n ga : Nat) (half : Option Bool) : Bool := (s.l1 n).any fun x => decide (x.ga = ga / 128 * 128) && decide (x.st half ≠ 0)
/-- Whether the home L2 holds an address's sector, or its half of a host line; it holds all that an L1 does (R274). -/
def inL2 (s : State) (ga : Nat) (half : Option Bool) : Bool :=
  match half with
  | some _ => decide (halfGet s (ga / 64) ≠ 0)
  | none => (s.l2 (gaDie ga)).any fun y => decide (y.ga = ga / 1024 * 1024) && bit y.valid (ga / 128 % 8)
/-- The L1 and L2 effects of an access through no stash page to a line that this module's L2s hold, as `home` makes
them at the L2, which learns of every access (R273, R275, R276, R370): a line in the L1, or with an allocating hint, is
held there as long as the L2 holds it. -/
def touchCore (s : State) (core : Option Nat) (ga : Nat) (write : Bool) (hint : Hint) (half : Option Bool) (home : State → State) : State :=
  match core with
  | none => home s
  | some n =>
    let t := home s
    let st := if write && !armedUnit t ga then 3 else 1
    if inL2 t ga half = true ∧ (hint ≠ .noAllocate ∨ inL1 s n ga half = true) then touchL1 t n ga st hint half else t

/-- The cache effects of one access to memory at its home (R126, R268 to R279, R327, R370, R378), from a control
core or, where there is none, from an agent without an L1. Every copy elsewhere that the access cannot leave is
written back and given up first: of a line that is written, modified or reached uncached, all of them; of a line
that is read, what is more than shared. -/
def touch (s : State) (core : Option Nat) (p va ga : Nat) (write rmw : Bool) (hint : Hint) (pg : Option Page) : State :=
  let s := if write then dropFabric s ga 1 else s
  let attr := match pg with | some q => q.attr | none => 0
  let lo := ga / 128 * 128
  let excl := write || rmw
  let keep := if rmw ∨ attr = 3 then none else core
  let cap := if excl = true ∨ attr = 3 then 0 else 1
  if s.hostLine ga then
    let half := some (bit ga 6)
    let s := capOthers s keep ga cap half
    if attr = 3 then halfSet s (ga / 64) (if armedUnit s ga then min 1 (halfGet s (ga / 64)) else 0)
    else touchCore s keep ga write hint half fun s => hostHalf s p va ga write rmw hint
  else if gaKind ga ≠ 0 ∨ gaModule ga ≠ s.boot.modnum then s
  else match attr, pg with
    | 1, some q => touchStash s p q va ga excl write
    | _, _ =>
      let s := dropStash (capOthers s keep ga cap none) lo (lo + 128) (decide (cap = 0))
      let hint := if attr = 3 then .noAllocate else hint
      touchCore s keep ga write hint none fun s => touchL2 s p va ga write hint
/-- The units that n bytes lie in, each by its first byte of them: the sectors, or the 64-byte halves of host lines
(R127). -/
def unitsOf (s : State) (ga n : Nat) : List Nat :=
  ((List.range ((ga % 64 + n + 63) / 64)).map fun k => max ga ((ga / 64 + k) * 64)).filter fun g =>
    decide (g = ga) || decide (g % 128 = 0) || s.hostLine g
/-- The cache effects of an access of n bytes by an agent without an L1, unit by unit. -/
def touchRange (s : State) (p va ga n : Nat) (write rmw : Bool) (pg : Option Page) : State :=
  (unitsOf s ga n).foldl (fun s g => touch s none p (va + (g - ga)) g write rmw .normal pg) s

/-! ### CACHE words (R280 to R283) -/

/-- The checks of a range at issue (R280). -/
def rangeBad (base len : Nat) : Bool :=
  decide (2 ^ 40 < len) || decide (2 ^ 64 < base + len) ||
    (decide (0 < len) && (decide (2 ^ 57 ≤ base) || decide (2 ^ 57 < base + len)))

/-- Issues a CACHE word; it counts in CPC until it completes. -/
def cacheWord (s : State) (f : Nat) (a b : Option Reg) (w : Nat) (scope : Scope) (inv : Bool) : Out :=
  onRun s fun n r =>
    let base := match a with | some x => (r.get x).toNat | none => 0
    let len := match b with | some x => (r.get x).toNat | none => 0
    if a.isSome && rangeBad base len then .next (trap s n r cACCESS (BitVec.ofNat 64 base))
    else if 63 ≤ r.cpc then stall s
    else .next (issue s n r (mkPend s n r .cpc (.cache f base len w scope inv) 0 (BitVec.ofNat 64 base) 0 false))

/-- RETAIN (R281): w carries the ways and the register as ways × 8 + register. -/
def execRetain (a b : Reg) (k : Fin 8) (w : Fin 9) (s : State) : Out :=
  cacheWord s 0 (some a) (some b) (w.val * 8 + k.val) .mod false
/-- UNPIN (R281). -/
def execUnpin (k : Fin 8) (s : State) : Out := cacheWord s 1 none none k.val .mod false
/-- CFLUSH (R282). -/
def execCflush (a b : Reg) (scope : Scope) (inv : Bool) (s : State) : Out := cacheWord s 2 (some a) (some b) 0 scope inv
/-- RCINV of every line (R283). -/
def execRcinv (s : State) : Out := cacheWord s 3 none none 0 .mod false
/-- RCINV of a range (R283). -/
def execRcinvRange (a b : Reg) (s : State) : Out := cacheWord s 4 (some a) (some b) 0 .mod false

/-- Clears the marks of one register in every L2 (R281). -/
def clearMarks (s : State) (p k : Nat) : State :=
  { s with caches := { s.caches with l2 := mapT (fun _ l => l.map fun y => if y.mark = some (p, k) then { y with mark := none } else y) s.caches.l2 } }

/-- The global addresses of the lines of a VA range that are mapped, cut to a page (R280). -/
def rangeGas (x : Part) (base len gran : Nat) : List (Nat × Nat) :=
  let lo := base / gran * gran
  let hi := alignUp (base + len) gran
  if len = 0 then [] else
  x.pages.filterMap fun q =>
    let l := max lo q.va
    let h := min hi (q.va + q.size)
    if l < h then some (q.ga + (l - q.va), q.ga + (h - q.va)) else none

/-- Whether an address lies in one of the ranges. -/
def inRanges (l : List (Nat × Nat)) (ga : Nat) : Bool := l.any fun e => decide (e.1 ≤ ga) && decide (ga < e.2)

/-- Cleans, or cleans and invalidates, an L1 (R282); host lines only at .sys, where they go. -/
def flushL1 (rs : List (Nat × Nat)) (sys inv : Bool) (l : List L1Line) : List L1Line :=
  l.filterMap fun x =>
    if !inRanges rs x.ga then some x
    else if gaKind x.ga = 4 then (if sys then none else some x)
    else if inv then none
    else some { x with lo := if x.lo = 3 then 2 else x.lo, hi := if x.hi = 3 then 2 else x.hi }

/-- Cleans, or cleans and invalidates, the sectors of an L2 that lie in a range (R282); a line with no sector left is
free, and its mark goes with it. Host lines go at .sys. -/
def flushL2 (rs : List (Nat × Nat)) (sys inv : Bool) (l : List L2Line) : List L2Line :=
  l.filterMap fun y =>
    let host := decide (gaKind y.ga = 4)
    let hits (j : Nat) : Bool := inRanges rs (y.ga + 128 * j)
    let keep (m : Nat) : Nat := (List.range 8).foldl (fun a j => if bit m j && !hits j then a + 2 ^ j else a) 0
    if (host && !sys) || !(List.range 8).any hits then some y
    else if host || inv then
      (if keep y.valid = 0 then none
       else some { y with valid := keep y.valid, dirty := keep y.dirty, half := y.half.filter fun e => !hits (e.1 / 2) })
    else some { y with dirty := keep y.dirty, half := y.half.map fun e => if hits (e.1 / 2) then (e.1, min e.2 2) else e }

/-- Cleans, or cleans and invalidates, the stash tags of a tile (R282). -/
def flushStash (rs : List (Nat × Nat)) (inv : Bool) (t : Tile) : Tile :=
  { t with stash := t.stash.filterMap fun e =>
      if !inRanges rs (e.2.1 * 2 ^ 16 + e.1 % 512 * 128) then some e
      else if inv then none else some (e.1, (e.2.1, if e.2.2 = 2 then 1 else e.2.2)) }

/-- The effect of a CACHE word when it completes (R281 to R283). -/
def cacheEffect (s : State) (q : Pend) : State :=
  match q.act, s.part q.part with
  | .cache f base len w scope inv, some x =>
    let rs := rangeGas x base len 128
    let fabKeep (y : FLine) : Bool := decide (y.part ≠ q.part)
    match f with
    | 0 =>
      let s := clearMarks s q.part (w % 8)
      let lo := base / 1024 * 1024
      let r : Retain := { active := decide (0 < len), base := lo, len := alignUp (base + len) 1024 - lo, w := w / 8
                          ovf := (getTD x.retain (w % 8) {}).ovf }
      s.modPart q.part fun x => { x with retain := putT x.retain (w % 8) r }
    | 1 =>
      (clearMarks s q.part w).modPart q.part fun x =>
        { x with retain := putT x.retain w { ovf := (getTD x.retain w {}).ovf } }
    | 2 =>
      let sys := decide (scope = .sys)
      let cores (c : Nat) : Bool := if scope = .tile then decide (c = q.core) else if scope = .die then decide (c / 16 = q.core / 16) && bit x.cores c else true
      let s := { s with caches := { s.caches with l1 := mapT (fun c l => if cores c then flushL1 rs sys inv l else l) s.caches.l1 } }
      if scope = .tile then s
      else
        let s := { s with insts := mapT (fun _ i =>
            if scope = .die ∧ i.part ≠ q.part then i
            else { i with tiles := mapT (fun tk t => if scope = .die ∧ dieOf (i.x0 + tk % 128) (i.y0 + tk / 128) ≠ q.core / 16 then t else flushStash rs inv t) i.tiles }) s.insts }
        if scope = .die then s
        else { s with caches := { s.caches with l2 := mapT (fun _ l => flushL2 rs sys inv l) s.caches.l2 } }
    | 3 => { s with caches := { s.caches with fab := mapT (fun _ l => l.filter fabKeep) s.caches.fab } }
    | _ => { s with caches := { s.caches with fab := mapT (fun _ l => l.filter fun y => fabKeep y || !inRanges rs y.ga) s.caches.fab } }
  | _, _ => s

/-- An operation that has completed leaves its counter (R193). -/
def complete (s : State) (q : Pend) : State :=
  (s.modRun q.core q.rid q.part fun r => if r.rid = q.rid then r.release q else r).delPend q.id

/-- CACHE_INSTRUCTION_COMPLETION (R281 to R283): argument 0 names the operation. -/
def execCacheInstructionCompletion (s : State) : Out :=
  match s.pend (s.arg 0) with
  | none => .next s
  | some q => match q.act with
    | .cache .. => .next (complete (cacheEffect s q) q)
    | _ => .next s

/-! ### Recalls and snoops (R271, R378) -/

/-- STASH_RECALL (R271): arguments name the instance, the tile, the bank and the sector; a dirty copy
is written back, and the copy is given up. -/
def execStashRecall (s : State) : Out :=
  .next (s.modInst (s.arg 0) fun i =>
    match getT i.tiles (s.arg 1) with
    | some t => i.setTile (s.arg 1) { t with stash := delT t.stash (s.arg 2 * 512 + s.arg 3) }
    | none => i)

/-- The L1 copies of a half take a state at most `st`. -/
def capL1 (s : State) (h st : Nat) : State := capOthers s none (h * 64) st (some (decide (h % 2 = 1)))

/-- The host port of a half's address; snoops of a half in HBM come through port 0 (DESIGN CHOICE, log entry 9). -/
def halfPort (h : Nat) : Nat := b2n (bit (h * 64) 45)
/-- A snoop through a half's port, which serves none before it has IDE (R39). -/
def snoop (half : Nat) (s : State) (f : State → State) : Out := .next (if s.ideUp (halfPort half) then f s else s)

/-- SNPDATA (R378): the data is returned, an M half is written back, and the half is left Shared. -/
def execSnpData (half : Nat) (s : State) : Out :=
  snoop half s fun s => (answer (capL1 (halfSet s half (min 1 (halfGet s half))) half 1) (halfPort half) (memGets s.mem (half * 64) 64))
/-- SNPINV (R378): an M half is written back, the half is left Invalid, and its monitors wake. The half is
then the host's own: where argument 0 is odd, argument 1 holds the 64 bytes that it stores there (R126, R376;
DESIGN CHOICE, log entry 9). -/
def execSnpInv (half : Nat) (s : State) : Out := snoop half s fun s =>
  let ga := half * 64
  let s1 := capL1 (halfSet s half 0) half 0
  let s2 := if s.arg 0 % 2 = 1 ∧ (gaKind ga = 4 ∨ s.hostBias ga = true) then
      { s1.setMem (memPuts s1.mem ga (toBytes 64 (s.arg 1))) with bad := mended s1.bad ga 64 }
    else s1
  (List.range 8).foldl (fun s i => wakeWord s (ga + 8 * i)) s2
/-- SNPCUR (R378): the data is returned and nothing changes. -/
def execSnpCur (half : Nat) (s : State) : Out := snoop half s fun s => (answer s (halfPort half) (memGets s.mem (half * 64) 64))

end Sys2Proof.Machine
end

