-- ==== Sys2Proof/Machine/Life.lean ====
section
/-!
DEFINITION. How instances end: completion records (R132), unloading (R405), aborting (R51, R383),
freezing a tile or a pattern (R382), and the parts of images that firings read (R80 to R91).
-/
namespace Sys2Proof.Machine

/-! ### Completion records (R132) -/

/-- Whether a completion record can be written at an address (R131, R132). An offset outside its kind's layout (R266)
can receive none (DESIGN CHOICE, log entry 45). -/
def cgaOk (ga : Nat) : Bool :=
  decide (ga % 16 = 0) && (decide (gaKind ga = 0) || decide (gaKind ga = 1) || decide (gaKind ga = 4)) && gaLegal ga

/-- Writes the bytes of a completion record as one write at the home, for no partition: every copy of its line is given
up (R271, R273, R279, R378). -/
def writeCompl (s : State) (ga : Nat) (bs : List Byte) : State :=
  match homeWrite s 0 ga bs with
  | .ok s => touchRange s hostQueue (2 ^ 64) ga bs.length true false none
  | .error _ => s
/-- Writes the 16-byte completion record; with no usable address nothing is written. A flipping page or a port without
IDE holds it, and it keeps its place among the records that are held (R39, R51, R128). -/
def complRecord (s : State) (cga : Option Nat) (cval : Word) (status detail num : Nat) : State :=
  match cga with
  | none => s
  | some ga =>
    if cgaOk ga then
      let bs := toBytes 8 cval.toNat ++ toBytes 8 (num * 2 ^ 32 + detail * 256 + status)
      if s.compls.isEmpty && !s.shut ga 16 then writeCompl s ga bs else { s with compls := s.compls ++ [(ga, bs)] }
    else s
/-- Writes the completion records that waited for a flip, in their order, up to the first that still waits (R39, R128). -/
def flushCompls (s : State) : List (Nat × List Byte) → State
  | [] => { s with compls := [] }
  | e :: l => if s.shut e.1 16 then { s with compls := e :: l } else flushCompls (writeCompl s e.1 e.2) l

/-- The completion of a packet that became no instance. -/
def packetDone (s : State) (p : Packet) (status detail : Nat) : State :=
  complRecord s (some p.cga) p.cval status detail 0xFFFFFFFF

/-- A child of an instance has retired (R51). -/
def childGone (s : State) (parent : Option Nat) : State :=
  match parent with
  | none => s
  | some n => match s.instNum n with
    | some _ => s.modInst (keyOf n) fun i => { i with kids := i.kids - 1 }
    | none => s

/-- The parent a packet names, if it is a child. -/
def Packet.par (p : Packet) : Option Nat := if p.child then some p.parent else none

/-! ### Unloading (R294, R299, R405) -/

/-- Examines the waiting accesses of every stream of a partition. -/
def wakeStreams (s : State) (p : Nat) : State :=
  match s.part p with
  | none => s
  | some x => (x.streams.map (·.1)).foldl (fun s n => wakeStream s p n) s

/-- An occupant or a VF leaves the streams that live on other modules: its slots are detached there (R299, R387, R405). -/
def leaveFar (s : State) (p occ : Nat) (act : LlStream) : State :=
  match s.part p with
  | none => s
  | some x => (x.streams.filter fun e => s.remoteStream e.2).foldl (fun s e =>
      let pl := planeOf e.2.fbase
      s.sendLater (gaModule e.2.fbase) pl p (memTag (gaModule e.2.fbase) pl) (.stream e.1 occ 0 act)) s
/-- Unloads the instance in a slot: its tiles, registers and SRAM are gone, its deques and port files
are cleared, and its stream slots are detached. -/
def unload (s : State) (k : Nat) : State :=
  let p := k / 8
  let occ := k % 8
  let s := { s with insts := delT s.insts k }
  let s := { s with cores := mapT (fun n c =>
    if (match s.part p with | some x => bit x.cores n | none => false)
    then { c with deques := delT c.deques occ, ports := delT c.ports occ } else c) s.cores }
  let s := s.modPart p fun x =>
    { x with
      streams := mapT (fun _ w => unloadStream occ w) x.streams
      wsaved := x.wsaved.filter fun (e : Nat × Nat × Nat) => decide (e.1 ≠ occ) }
  wakeStreams (leaveFar s p occ .leave) p

/-! ### Aborting (R51, R53, R383) -/

/-- Whether a record belongs to an instance. -/
def ofInst (num : Nat) (r : Rec) : Bool := decide (r.inst = num)

/-- Empties the pool entries of an instance. -/
def purgePool (x : Part) (num : Nat) : Part :=
  { x with pool := mapT (fun _ e => match e.rc with
      | some r => if r.inst = num then { gen := (e.gen + 1) % 65536, rc := none } else e
      | none => e) x.pool }

/-- Stops every agent of an instance and discards what it holds. -/
def purge (s : State) (k num : Nat) : State :=
  let p := k / 8
  let keep : Rec → Bool := fun r => !ofInst num r
  let gone : List (Nat × Nat × Nat) → List (Nat × Nat × Nat) := fun l => l.filter fun (e : Nat × Nat × Nat) =>
    !(decide (e.1 = p) && match s.part p with
      | some x => match (getTD x.pool e.2.1 {}).rc with | some r => ofInst num r | none => true
      | none => true)
  let tiles : List (Nat × Tile) := match s.inst k with | some i => i.tiles | none => []
  let dead : List Nat := (s.pends.filter fun q => decide (q.inst = num)).map (·.id) ++
    (s.cmds.filter fun c => decide (c.num = num)).map (·.id) ++
    (s.cores.filterMap fun c => match c.2.run with | some r => if r.rc.inst = num then r.qread else none | none => none) ++
    tiles.flatMap fun t => t.2.pats.flatMap fun j => j.2.accs.map (·.op)
  let s := { s with mons := mapT (fun _ l => (l.map fun (m : Monitor) => { m with parked := gone m.parked }).filter fun m => !m.parked.isEmpty) s.mons }
  let s := { s with cores := mapT (fun _ c => { c with
      run := match c.run with | some r => if r.rc.inst = num then none else some r | none => none
      held := c.held.filter keep
      deques := mapT (fun _ d => { spill := d.spill.filter keep, hw := d.hw.filter keep }) c.deques }) s.cores }
  let s := { s with pends := s.pends.filter fun q => decide (q.inst ≠ num) || (match q.act, q.st with | .value _, .waiting => true | _, _ => false) }
  let s := { s with cmds := s.cmds.filter fun c => decide (c.num ≠ num) }
  s.modPart p fun x =>
    { purgePool x num with
      inj := x.inj.filter keep, ready := x.ready.filter keep, rheld := x.rheld.filter keep
      saved := x.saved.filter fun v => decide (v.run.rc.inst ≠ num)
      wsaved := x.wsaved.filter (fun (e : Nat × Nat × Nat) => match (getTD x.pool e.2.1 {}).rc with | some r => keep r | none => false)
      caravans := x.caravans.filter (fun c => decide (c.2.inst ≠ num))
      posts := x.posts.map fun (q : Post) => if q.fr.inst = num then { q with cont := none, entry := none } else q
      streams := mapT (fun _ w => { w with waits := w.waits.filter (fun v => !dead.contains v.op), held := w.held.filter (fun v => !dead.contains v.op), served := w.served.filter fun v => !dead.contains v.1 }) x.streams }

/-! ### The placement queue and the packets that wait for room in it (R138, R155) -/

/-- Joins a packet to a placement queue: by priority, then in order of acceptance (R155). -/
def enqueue (pk : Packet) : List Packet → List Packet
  | [] => [pk]
  | q :: l => if q.prio < pk.prio then pk :: q :: l else q :: enqueue pk l
/-- Whether a partition's placement queue has room (R155). -/
def Part.room (x : Part) : Bool := decide (x.queue.length < 1024)
/-- Parked packets whose CFGID was bound proceed while the placement queue has room (R138, R155). -/
def unparkVf (s : State) (n : Nat) : Nat → State
  | 0 => s
  | k + 1 => match getT s.vfs n with
    | none => s
    | some v => match s.part v.part, v.park.find? fun q => q.bind.isSome with
      | some x, some q =>
        if x.room then
          unparkVf ({ s with vfs := putT s.vfs n { v with park := delFirst (fun q => q.bind.isSome) v.park } }.setPart v.part { x with queue := enqueue q x.queue }) n k
        else s
      | _, _ => s
/-- Parked packets of a partition's VFs proceed. -/
def unpark (s : State) (p : Nat) : State :=
  (s.vfs.filter fun v => decide (v.2.part = p)).foldl (fun s v => unparkVf s v.1 256) s

/-- The children of an instance that are still packets are aborted with it; packets that waited for their places in a queue take them (R138). -/
def abortPackets (s : State) (num : Nat) : State :=
  let mine (q : Packet) : Bool := q.child && decide (q.parent = num)
  let l := (s.parts.flatMap fun x => x.2.queue.filter mine) ++ (s.vfs.flatMap fun v => (v.2.kids ++ v.2.park).filter mine)
  let s := { s with parts := mapT (fun _ x => { x with queue := x.queue.filter fun q => !mine q }) s.parts }
  let s := { s with vfs := mapT (fun _ v => { v with kids := v.kids.filter fun q => !mine q, park := v.park.filter fun q => !mine q }) s.vfs }
  let s := (s.parts.map (·.1)).foldl unpark s
  l.foldl (fun s q => packetDone s q 2 0) s

/-- Writes the record of an aborted instance, or, where a closing VF still owes that of a child of its, leaves the record to
that VF behind it (R51, R387; DEDUCED, log entry 46). -/
def abortRecord (s : State) (e : Owed) : State :=
  match s.vfs.find? fun v => v.2.stopped.any fun o => decide (o.parent = some e.num) with
  | some (n, v) => { s with vfs := putT s.vfs n { v with stopped := v.stopped ++ [e] } }
  | none => childGone (complRecord s e.cga e.cval 2 e.detail e.num) e.parent
/-- ABORTS an instance (R383), its children first, to a nesting depth of n. -/
def abortInst : Nat → State → Nat → Nat → State
  | 0, s, _, _ => s
  | n + 1, s, k, detail =>
    match s.inst k with
    | none => s
    | some i =>
      let kids := (s.insts.filter fun e => decide (e.2.parent = some i.num)).map (·.1)
      let s := kids.foldl (fun s k => abortInst n s k 0) s
      let s := abortPackets s i.num
      let s := unload (purge s k i.num) k
      if i.phase = .idle then s
      else abortRecord s { num := i.num, cga := i.cga, cval := i.cval, detail := detail, parent := i.parent }

/-- Aborts an instance; every instance of the module may be its descendant. -/
def abort (s : State) (k detail : Nat) : State := abortInst 97 s k detail

/-! ### Freezing (R382, R383) -/

/-- The module column that a fault record gives a tile (R380). -/
def recX (i : Inst) (tk : Nat) : Nat := if 0x40 ≤ tk % 128 then tk % 128 else i.x0 + tk % 128

/-- A fault freezes a tile: its firing ends, its record is posted; a masked code aborts the instance
at once (R382, R383). -/
def freezeTile (s : State) (k tk : Nat) (fr : FaultRec) : State :=
  match s.inst k with
  | none => s
  | some i =>
    match s.part (k / 8) with
    | none => s
    | some x =>
      if bit x.fmask fr.code then abort s k fr.code
      else post (s.modTile k tk fun t =>
        { t with frozen := some fr, firing := none, lastSlot := some fr.unit, mq := t.mq.filter fun e => !e.firing }) (k / 8) { fr := { fr with inst := i.num } }

/-! ### What firings read of an image (R80 to R91) -/

/-- The endpoint of a port (R83). -/
def Image.ep (i : Image) (tk p : Nat) : Nat := fld (i.frame (9 + p / 2) tk) (128 * (p % 2) + 127) (128 * (p % 2))
/-- V of an endpoint. -/
def epV (e : Nat) : Bool := bit e 127
/-- CHID of an endpoint. -/
def epCh (e : Nat) : Nat := fld e 126 117
/-- SLOT of an endpoint. -/
def epSlot (e : Nat) : Nat := fld e 116 114
/-- RATE of an endpoint. -/
def epRate (e : Nat) : Nat := fld e 113 110
/-- DEPTH of an endpoint. -/
def epDepth (e : Nat) : Nat := fld e 109 105
/-- INIT of an endpoint. -/
def epInit (e : Nat) : Nat := fld e 104 100
/-- FB of an endpoint. -/
def epFb (e : Nat) : Bool := bit e 99
/-- COMM of an endpoint. -/
def epComm (e : Nat) : Bool := bit e 98
/-- Whether a port is an input (R83). -/
def isInput (p : Nat) : Bool := decide (p < 4) || (decide (8 ≤ p) && decide (p < 16))
/-- Whether a port is wide (R83). -/
def isWide (p : Nat) : Bool := decide (p < 8)

/-- The two endpoints of one frame: those of a channel at an input or an output. -/
def frameEnd (ch : Nat) (input : Bool) (e : Nat × Nat) : Option (Nat × Nat) :=
  let f := e.1 / 2 ^ 14
  let ok (h : Nat) : Bool :=
    let w := fld e.2 (128 * h + 127) (128 * h)
    epV w && decide (epCh w = ch) && (isInput (2 * (f - 9) + h) == input)
  if 9 ≤ f ∧ f ≤ 20 then
    if ok 0 then some (e.1 % 2 ^ 14, 2 * (f - 9)) else if ok 1 then some (e.1 % 2 ^ 14, 2 * (f - 9) + 1) else none
  else none
/-- The tile and port where a channel begins or ends (R84). -/
def Image.endOf (i : Image) (ch : Nat) (input : Bool) : Option (Nat × Nat) := i.frames.findSome? (frameEnd ch input)

/-- Whether actor slot k of a tile is used (R80). -/
def Image.hasSlot (i : Image) (tk k : Nat) : Bool := bit (i.frame 0 tk) (246 + k)
/-- The kind of a tile: 0 C, 1 M, 2 A (R80). -/
def Image.kind (i : Image) (tk : Nat) : Nat := fld (i.frame 0 tk) 255 254
/-- ENTRY of a slot (R81). -/
def Image.slotEntry (i : Image) (tk k : Nat) : Nat := fld (i.frame (1 + k) tk) 254 248
/-- LEN of a slot (R81). -/
def Image.slotLen (i : Image) (tk k : Nat) : Nat := fld (i.frame (1 + k) tk) 247 240
/-- A firing-store word of a tile (R78). -/
def Image.pword (i : Image) (tk w : Nat) : Nat := fld (i.frame (32 + w / 4) tk) (64 * (w % 4) + 63) (64 * (w % 4))

/-! ### The frame of a pattern (R89) -/

/-- The 128 bits of pattern j of an A-tile. -/
def Image.pat (i : Image) (tk j : Nat) : Nat := fld (i.frame 27 tk) (128 * j + 127) (128 * j)
/-- V. -/
def patV (w : Nat) : Bool := bit w 127
/-- DIR: whether the pattern stores. -/
def patStore (w : Nat) : Bool := bit w 126
/-- FMT. -/
def patFmt (w : Nat) : Nat := fld w 125 120
/-- RND. -/
def patRnd (w : Nat) : Nat := fld w 119 117
/-- RAW. -/
def patRaw (w : Nat) : Bool := bit w 116
/-- REUSE. -/
def patReuse (w : Nat) : Bool := bit w 115
/-- TBT. -/
def patTbt (w : Nat) : Nat := fld w 114 113
/-- DOM. -/
def patDom (w : Nat) : Nat := fld w 112 109
/-- The port that RNDP names. -/
def patRndp (w : Nat) : Nat := 8 + fld w 108 106
/-- CHAIN. -/
def patChain (w : Nat) : Nat := fld w 105 104
/-- The data port: a wide output for a load, a wide input for a store. -/
def patPort (w : Nat) : Nat := (if patStore w then 0 else 4) + fld w 103 102

/-- Whether an A-tile has a rim port (R338): the endpoints of ni7 and no7 are in use, and no pattern's RNDP is 7. -/
def Image.rim (i : Image) (tk : Nat) : Bool :=
  decide (i.kind tk = 2) && epV (i.ep tk 15) && epV (i.ep tk 23) &&
    !([0, 1].any fun j => patV (i.pat tk j) && decide (patRndp (i.pat tk j) = 15))
/-- Whether pattern j of an A-tile uses a port (R311, R314). -/
def Image.patUses (i : Image) (tk j p : Nat) : Bool :=
  let w := i.pat tk j
  patV w && (decide (p = 8 + 2 * j) || (isBlockFmt (patFmt w) && decide (p = 9 + 2 * j)) || decide (p = patPort w) ||
    (decide (patRnd w = 4) && decide (p = patRndp w)))
/-- Whether a port belongs to a unit of its A-tile and so to no actor. -/
def Image.unitPort (i : Image) (tk p : Nat) : Bool :=
  decide (i.kind tk = 2) && (i.patUses tk 0 p || i.patUses tk 1 p || (i.rim tk && (decide (p = 15) || decide (p = 23))))

end Sys2Proof.Machine
end

