-- ==== Sys2Proof/Machine/Firing.lean ====
section
/-!
DEFINITION. How a firing executes (R104, R109, R159 to R164, R214 to R217): what a slot of a firing
word reads, what it answers, how the two slots of a word take effect together, ports and channels,
counter chains, and the selection of firings.
-/
namespace Sys2Proof.Machine

/-- A wide lane vector of +0 (R56). -/
def zeroLanes : Lanes := Vector.replicate 64 0

/-- What the slots of a firing word read: the instance, the tile and its firing as they stand before
the word (R215). -/
structure View where
  key : Nat
  tk  : Nat
  i   : Inst
  t   : Tile
  f   : Firing
  modnum : Nat

/-- Where a firing goes after a word. -/
inductive Ctl where
  | next | jump (t : Int) | fin
  deriving DecidableEq, Repr

/-- What a slot makes of a word: a fault, a stall, progress within a word that goes on, its effect, or
a matrix operation that enters the issue point. `late` is there for a slot that writes SRAM: its write again, for
a word in which both slots write the same bytes (DESIGN CHOICE, log entry 21). -/
inductive SlotRes where
  | fault (code detail : Nat)
  | stall
  | part (f : State → State)
  | ok (f : State → State) (late : Option (State → State)) (ctl : Ctl)
  | mop (op : MOp) (f : State → State)

/-- A slot's effect on its tile alone. -/
def View.tile (v : View) (f : Tile → Tile) : SlotRes := .ok (fun s => s.modTile v.key v.tk f) none .next
/-- A slot's effect on the machine. -/
def View.eff (_ : View) (f : State → State) : SlotRes := .ok f none .next

/-- Reads s[r]. -/
def View.s (v : View) (r : SReg) : Word := v.t.s[r]
/-- Reads q[r]; q0 reads true (R103). -/
def View.q (v : View) (r : QReg) : Bool := if r.val = 0 then true else v.t.q[r]
/-- Reads v[r]. -/
def Tile.vreg (t : Tile) (r : Nat) : Lanes := getTD t.v r zeroLanes
/-- Reads v[r]. -/
def View.v (v : View) (r : VReg) : Lanes := v.t.vreg r.val
/-- Reads m[r]; m0 reads all ones (R103). -/
def View.m (v : View) (r : MReg) : Word := if r.val = 0 then BitVec.allOnes 64 else v.t.m[r]

/-- Writes s[r]. -/
def Tile.setS (t : Tile) (r : SReg) (x : Word) : Tile := { t with s := t.s.set r x }
/-- Writes q[r]; q0 is never a destination (R108). -/
def Tile.setQ (t : Tile) (r : QReg) (b : Bool) : Tile := if r.val = 0 then t else { t with q := t.q.set r b }
/-- Writes v[r]. -/
def Tile.setV (t : Tile) (r : Nat) (x : Lanes) : Tile := { t with v := putT t.v r x }
/-- Writes m[r]; m0 is never a destination (R108). -/
def Tile.setM (t : Tile) (r : MReg) (x : Word) : Tile := if r.val = 0 then t else { t with m := t.m.set r x }

/-- Bit i of a lane mask. -/
def lane (m : Word) (i : Nat) : Bool := m.getLsbD i
/-- The lanes of `new` where the mask is set, of `old` elsewhere (R226). -/
def blend (m : Word) (new old : Lanes) : Lanes := Vector.ofFn fun i => if lane m i.val then new[i] else old[i]
/-- Writes the governed lanes of v[d] (R226). -/
def View.setV (v : View) (d : VReg) (m : MReg) (x : Lanes) : SlotRes :=
  v.tile fun t => t.setV d.val (blend (v.m m) x (t.vreg d.val))
/-- Writes every lane of v[d]. -/
def View.setVall (v : View) (d : VReg) (x : Lanes) : SlotRes := v.tile fun t => t.setV d.val x

/-! ### Ports and channels (R83 to R85, R160, R161) -/

/-- Replaces the links of a channel. -/
def Inst.modLink (i : Inst) (ch : Nat) (f : Link → Link) : Inst :=
  { i with links := putT i.links ch (f (getTD i.links ch {})) }
/-- Sends a request token upstream on a channel (R161). -/
def Inst.request (i : Inst) (ch : Nat) : Inst := i.modLink ch fun l => { l with req := l.req + 1 }
/-- Sends a token forward on a channel (R161). -/
def Inst.forward (i : Inst) (ch : Nat) (x : Msg) : Inst := i.modLink ch fun l => { l with fwd := l.fwd ++ [x] }

/-- The FIFO of a port. -/
def Tile.fifoOf (t : Tile) (p : Nat) : List Tok := getTD t.fifo p []
/-- The outstanding demand of a port. -/
def Tile.demandOf (t : Tile) (p : Nat) : Nat := getTD t.demand p 0

/-- Consumes the oldest token of a port: one request goes upstream (R161). A tile that has acted sends
none (R393). -/
def Inst.take (i : Inst) (tk p : Nat) : Inst :=
  match getT i.tiles tk with
  | none => i
  | some t =>
    let i := i.setTile tk { t with fifo := putT t.fifo p (t.fifoOf p).tail }
    if t.acted then i else i.request (epCh (i.img.ep tk p))

/-- Whether the consumer of a channel is an acted tile that takes it on an FB input (R393). -/
def Inst.fbActed (i : Inst) (ch : Nat) : Option (Nat × Nat) :=
  match i.img.endOf ch true with
  | some (ck, cp) =>
    (match getT i.tiles ck with
     | some c => if c.acted && epFb (i.img.ep ck cp) then some (ck, cp) else none
     | none => none)
  | none => none

/-- Puts a token: the demand falls by one (R161). On an FB channel whose consumer has acted, a put with
no demand moves that consumer's head token into its save area (R393). -/
def Inst.put (i : Inst) (tk p : Nat) (x : Tok) : Inst :=
  match getT i.tiles tk with
  | none => i
  | some t =>
    let ch := epCh (i.img.ep tk p)
    if t.demandOf p = 0 then
      match i.fbActed ch with
      | some (ck, cp) =>
        (match getT i.tiles ck with
         | some c =>
           (i.setTile ck { c with fifo := putT c.fifo cp (c.fifoOf cp).tail
                                  saved := putT c.saved cp (getTD c.saved cp [] ++ (c.fifoOf cp).take 1) }).forward ch (.tok x)
         | none => i)
      | none => i
    else (i.setTile tk { t with demand := putT t.demand p (t.demandOf p - 1) }).forward ch (.tok x)

/-- Whether a put may go now (R160, R393). -/
def Inst.mayPut (i : Inst) (tk p : Nat) : Bool :=
  match getT i.tiles tk with
  | none => false
  | some t =>
    decide (0 < t.demandOf p) || match i.fbActed (epCh (i.img.ep tk p)) with
      | some (ck, cp) => (match getT i.tiles ck with | some c => !(c.fifoOf cp).isEmpty | none => false)
      | none => false

/-- Whether a port in use belongs to the firing's slot, on the plane and in the direction named. -/
def View.owns (v : View) (p : Nat) (input wide : Bool) : Bool :=
  epV (v.i.img.ep v.tk p) && decide (epSlot (v.i.img.ep v.tk p) = v.f.slot) && !v.i.img.unitPort v.tk p && (isInput p == input) && (isWide p == wide)

/-- Counts a token in the firing (R160). -/
def Tile.took (t : Tile) (p : Nat) : Tile :=
  match t.firing with
  | some f => { t with firing := some { f with taken := putT f.taken p (getTD f.taken p 0 + 1) } }
  | none => t
/-- Counts a put in the firing (R160). -/
def Tile.gave (t : Tile) (p : Nat) : Tile :=
  match t.firing with
  | some f => { t with firing := some { f with puts := putT f.puts p (getTD f.puts p 0 + 1) } }
  | none => t

/-- The oldest token of an input of the firing, or CHANNEL beyond RATE (R160, R220, R227). -/
def View.head (v : View) (p : Nat) (wide : Bool) : Except SlotRes Tok :=
  if !v.owns p true wide || decide (epRate (v.i.img.ep v.tk p) ≤ getTD v.f.taken p 0) then .error (.fault cCHANNEL p)
  else match v.t.fifoOf p with
    | x :: _ => .ok x
    | [] => .error .stall

/-- Consumes a token within a firing. -/
def View.taken (v : View) (p : Nat) (s : State) : State :=
  (s.modTile v.key v.tk fun t => t.took p).modInst v.key fun i => i.take v.tk p

/-- A put of a firing (R160, R220, R227). -/
def View.put (v : View) (p : Nat) (x : Tok) : SlotRes :=
  let rate := epRate (v.i.img.ep v.tk p)
  if !v.owns p false (isWide p) then .fault cCHANNEL p
  else if rate ≠ 0 ∧ rate ≤ getTD v.f.puts p 0 then .fault cCHANNEL p
  else if !v.i.mayPut v.tk p then .stall
  else v.eff fun s => (s.modTile v.key v.tk fun t => t.gave p).modInst v.key fun i => i.put v.tk p x

/-- The value of a narrow token. -/
def Tok.word : Tok → Word
  | .narrow w _ => w
  | .wide v _ => v[0].setWidth 64
/-- The sideband tag of a narrow token (R220). -/
def Tok.tag : Tok → Nat
  | .narrow _ g => g
  | .wide _ _ => 0
/-- The lanes of a wide token. -/
def Tok.lanes : Tok → Lanes
  | .wide v _ => v
  | .narrow w _ => Vector.replicate 64 (w.setWidth 48)
/-- The burst mark of a wide token (R71). -/
def Tok.mark : Tok → Nat
  | .wide _ m => m
  | .narrow _ _ => 0

/-! ### Counter chains (R167, R168) -/

/-- NLEV of a chain (R88). -/
def Image.nlev (i : Image) (tk k : Nat) : Nat := fld (i.frame (21 + k) tk) 254 252
/-- COUNT of a level. -/
def Image.count (i : Image) (tk k l : Nat) : Nat := fld (i.frame (21 + k) tk) (36 * l + 15) (36 * l)
/-- STRIDE of a level. -/
def Image.stride (i : Image) (tk k l : Nat) : Int := sx 20 (fld (i.frame (21 + k) tk) (36 * l + 35) (36 * l + 16))
/-- DONE of a chain. -/
def Image.chainDone (i : Image) (tk k : Nat) : Nat := fld (i.frame (21 + k) tk) 247 244
/-- REPEAT of a chain. -/
def Image.chainRepeat (i : Image) (tk k : Nat) : Bool := bit (i.frame (21 + k) tk) 243

/-- The carry of a step into the levels from k up: the indices, and whether the outermost level
carried out (R167). -/
def stepFrom (img : Image) (tk c : Nat) : Nat → Nat → List Nat → List Nat × Bool
  | 0, _, l => (l, true)
  | n + 1, k, l =>
    let x := l.getD k 0 + 1
    if x < img.count tk c k then (l.set k x, false) else stepFrom img tk c n (k + 1) (l.set k 0)

/-- The indices of a chain, one for each level. -/
def Chain.full (c : Chain) (n : Nat) : List Nat := (List.range n).map fun k => c.idx.getD k 0
/-- A step at a level (R167): the chain, and whether it completed. An IDLE chain does not step. -/
def Chain.step (c : Chain) (img : Image) (tk k l : Nat) : Chain × Bool :=
  if !c.running then (c, false)
  else
    let n := img.nlev tk k
    let z := (c.full n).mapIdx fun j x => if j < l then 0 else x
    let r := stepFrom img tk k (n - l) l z
    if r.2 then ({ c with running := false, idx := [] }, true) else ({ c with idx := r.1 }, false)

/-- Steps a chain of a tile; Complete() sends DONE (R168). -/
def Inst.stepChain (i : Inst) (tk k l : Nat) : Inst :=
  match getT i.tiles tk with
  | none => i
  | some t =>
    let r := (getTD t.chains k {}).step i.img tk k l
    let i := i.setTile tk { t with chains := putT t.chains k r.1 }
    if r.2 && decide (i.img.chainDone tk k ≠ 15) then sendLine i (i.img.chainDone tk k) else i

/-! ### SRAM of an M-tile as its firings reach it (R223, R224, R237) -/

/-- The check of an address (R223): the fault code, if any. -/
def View.sramBad (v : View) (a : Nat) : Option Nat :=
  if a % 8 ≠ 0 then some cALIGN
  else if 2 ^ 20 ≤ a then some cACCESS
  else if v.i.img.bankUse v.tk (a / 2 ^ 16) % 3 ≠ 0 then some cACCESS
  else none
/-- The check of an address that is read (R223, R269). -/
def View.readBad (v : View) (a : Nat) : Option Nat :=
  match v.sramBad a with
  | some e => some e
  | none => if badAt v.t.bad a 8 then some cACCESS else none
/-- The address of an SRAM word of a tile as a global address (R266). -/
def View.ga (v : View) (a : Nat) : Nat :=
  v.modnum * 2 ^ 50 + 2 * 2 ^ 46 + (v.i.y0 + v.tk / 128) * 2 ^ 26 + (v.i.x0 + v.tk % 128) * 2 ^ 20 + a
/-- Writes an SRAM word; its monitor wakes (R373). -/
def View.sramSet (v : View) (a : Nat) (x : Nat) (s : State) : State :=
  wakeWord (s.modTile v.key v.tk fun t => { t with sram := memWrite t.sram a 8 x, bad := mended t.bad a 8 }) (v.ga a)

/-! ### The word (R104, R109, R164, R215, R216) -/

/-- The fault record of a firing (R380). -/
def View.fault (v : View) (s : State) (code detail : Nat) : FaultRec :=
  { inst := v.i.num, frozen := true, code := code, widx := v.f.pc, src := 0, unit := v.f.slot
    y := v.i.y0 + v.tk / 128, x := recX v.i v.tk, word := v.i.img.pword v.tk v.f.pc, cyc := s.cyc, detail := detail }

/-- Ends the firing with a fault, and freezes its tile. -/
def View.freeze (v : View) (s : State) (code detail : Nat) : State := freezeTile s v.key v.tk (v.fault s code detail)

/-- The word is done: it counts (R164), and the firing goes on, ends, or overruns (R109, R222). -/
def View.done (v : View) (ctl : Ctl) (s : State) : State :=
  let e := v.i.img.slotEntry v.tk v.f.slot
  let n := v.i.img.slotLen v.tk v.f.slot
  let go (pc : Nat) : State := s.modTile v.key v.tk fun t => match t.firing with
    | some f => { t with firing := some { f with pc := pc, words := f.words + 1, ops := 0, rows := 0, seen := [] } }
    | none => t
  match ctl with
  | .next => go (v.f.pc + 1)
  | .jump t => if (e : Int) ≤ t ∧ t < (e : Int) + n then go t.toNat else v.freeze s cOVERRUN 0
  | .fin => s.modTile v.key v.tk fun t => { t with firing := none, lastSlot := some v.f.slot }

/-! ### Selection (R159, R162, R163) -/

/-- Whether every port of an actor has what it needs (R159). -/
def portsReady (img : Image) (tk : Nat) (t : Tile) (slot : Nat) : Bool :=
  (List.range 24).all fun p =>
    let e := img.ep tk p
    !epV e || decide (epSlot e ≠ slot) || img.unitPort tk p ||
      (if isInput p then decide (epRate e ≤ (t.fifoOf p).length) else decide (epRate e ≤ t.demandOf p))
/-- Whether an actor is eligible (R159). -/
def eligible (img : Image) (tk : Nat) (t : Tile) (slot : Nat) : Bool :=
  img.hasSlot tk slot && !t.disabled.contains slot && portsReady img tk t slot &&
    (!bit (img.frame (1 + slot) tk) 239 || (getTD t.chains (fld (img.frame (1 + slot) tk) 238 237) {}).running)
/-- GEN of a slot (R82). -/
def Image.isGen (i : Image) (tk k : Nat) : Bool := bit (i.frame (1 + k) tk) 235
/-- The first eligible slot after the one that fired last (R163). -/
def selectSlot (img : Image) (tk : Nat) (t : Tile) : Option Nat :=
  let from_ := match t.lastSlot with | some k => k + 1 | none => 0
  ((List.range 8).map fun j => (from_ + j) % 8).find? fun k => eligible img tk t k

/-- Whether a tile has a non-FB input in use (R390). -/
def hasInput (img : Image) (tk : Nat) : Bool := (List.range 24).any fun p => epV (img.ep tk p) && isInput p && !epFb (img.ep tk p)
/-- Whether the front stands on every non-FB input in use, or has been injected into a source (R390);
31 marks the injection. -/
def frontIn (img : Image) (tk : Nat) (t : Tile) : Bool :=
  if hasInput img tk then
    (List.range 24).all fun p =>
      let e := img.ep tk p
      !epV e || !isInput p || epFb e || t.fronts.contains p
  else t.fronts.contains 31

/-- Whether an instance holds its partition's rectangle, or takes its tiles one by one behind a front (R19). -/
def State.holds (s : State) (k : Nat) : Bool :=
  match s.part (k / 8) with
  | some x => decide (x.cur = k % 8) || (match x.front with | some f => decide (f.dst = k % 8) | none => false)
  | none => false
/-- Whether a tile may select: it is awake, on its rectangle, not frozen, not acted, not about to act,
and runs no firing (R162, R382, R390, R393). -/
def State.maySelect (s : State) (k tk : Nat) (i : Inst) (t : Tile) : Bool :=
  let sweeping := match s.part (k / 8) with | some x => x.front.isSome && decide (x.cur = k % 8) | none => false
  s.holds k && t.woken && t.frozen.isNone && !t.acted && t.firing.isNone && decide (i.phase ≠ .loading) &&
    !(sweeping && frontIn i.img tk t)

/-- FIRING_SELECT (R162, R163): arguments name the instance and the tile. -/
def execFiringSelect (s : State) : Out :=
  .next (match s.inst (s.arg 0) with
  | none => s
  | some i => match getT i.tiles (s.arg 1) with
    | none => s
    | some t =>
      if s.maySelect (s.arg 0) (s.arg 1) i t then
        match selectSlot i.img (s.arg 1) t with
        | some k => s.modTile (s.arg 0) (s.arg 1) fun t =>
            { t with firing := some { slot := k, pc := i.img.slotEntry (s.arg 1) k } }
        | none => s
      else s)

/-- GENERATOR_FIRING (R73, R82): a selected generator slot puts its next random token and ends. -/
def execGeneratorFiring (s : State) : Out :=
  .next (match s.inst (s.arg 0) with
  | none => s
  | some i => match getT i.tiles (s.arg 1) with
    | none => s
    | some t => match t.firing with
      | none => s
      | some f =>
        if !i.img.isGen (s.arg 1) f.slot then s
        else
          let w := i.img.frame (1 + f.slot) (s.arg 1)
          let p := 4 + fld w 233 232
          let n := getTD t.gens f.slot 0
          let x := philoxToken (fld w 231 168) ((fld w 167 40 + 16 * n) % 2 ^ 128)
          let s1 := s.modInst (s.arg 0) fun i => i.put (s.arg 1) p (.wide x 0)
          s1.modTile (s.arg 0) (s.arg 1) fun t =>
            { t with firing := none, lastSlot := some f.slot, gens := putT t.gens f.slot (n + 1) })

/-! ### Arrivals on channels and control lines (R161, R162, R168, R170, R348, R390) -/

/-- Whether a tile treats tokens on ni7 as key/value requests (R348). -/
def Image.isSnake (i : Image) (tk : Nat) : Bool :=
  decide (i.kind tk = 1) && epV (i.ep tk 15) && (List.range 16).any fun b => decide (i.bankUse tk b = 3)

/-- TOKEN_ARRIVAL (R162): arguments name the instance and the channel; the oldest token on the
channel's links reaches its consumer, once that takes tokens (R17). -/
def execTokenArrival (s : State) : Out :=
  .next (s.modInst (s.arg 0) fun i =>
    match (getTD i.links (s.arg 1) {}).fwd, i.img.endOf (s.arg 1) true with
    | .tok x :: l, some (tk, p) =>
      (match getT i.tiles tk with
       | none => i
       | some t =>
         if !t.woken || decide (s.cyc < t.takesAt) then i else
         (if p = 15 ∧ i.img.isSnake tk = true then i.setTile tk { t with kv := t.kv ++ [x] }
          else i.setTile tk { t with fifo := putT t.fifo p (t.fifoOf p ++ [x]) }).modLink (s.arg 1) fun k => { k with fwd := l })
    | _, _ => i)

/-- REQUEST_ARRIVAL (R161): one request reaches the producer. A tile that has acted no longer counts
it (R391, R398). -/
def execRequestArrival (s : State) : Out :=
  .next (s.modInst (s.arg 0) fun i =>
    let l := getTD i.links (s.arg 1) {}
    if l.req = 0 then i
    else
      let i := i.modLink (s.arg 1) fun k => { k with req := k.req - 1 }
      match i.img.endOf (s.arg 1) false with
      | none => i
      | some (tk, p) => match getT i.tiles tk with
        | none => i
        | some t => if t.acted then i else i.setTile tk { t with demand := putT t.demand p (t.demandOf p + 1) })

/-- A control token reaches one chain (R168): the chain, and whether it was discarded at a full
pending count. -/
def Chain.token (c : Chain) (rep : Bool) : Chain × Bool :=
  if !rep && c.ran then (c, false)
  else if 15 ≤ c.pending then (c, true)
  else ({ c with pending := c.pending + 1 }, false)

/-- CONTROL_TOKEN_ARRIVAL (R168, R170): arguments name the instance, the line and the tile. -/
def execControlTokenArrival (s : State) : Out :=
  .next (match s.inst (s.arg 0) with
  | none => s
  | some i =>
    let m := (s.arg 1, some (s.arg 2))
    if !i.lineMsgs.contains m then s
    else match getT i.tiles (s.arg 2) with
    | none => s
    | some t =>
      if !t.woken || decide (s.cyc < t.takesAt) then s else
      let ks := (List.range 4).filter fun k => i.img.hasChain (s.arg 2) k && decide (i.img.chainStart (s.arg 2) k = s.arg 1)
      let r := ks.foldl (fun (a : Tab Chain × Nat) k =>
        let c := (getTD a.1 k {}).token (i.img.chainRepeat (s.arg 2) k)
        (putT a.1 k c.1, a.2 + b2n c.2)) (t.chains, 0)
      let i := { i with lineMsgs := delFirst (fun x => decide (x = m)) i.lineMsgs }
      (s.setInst (s.arg 0) (i.setTile (s.arg 2) { t with chains := r.1 })).modPart (s.arg 0 / 8) fun x => countEvent x 5 r.2)

/-- LINE_COUNT_ARRIVAL (R170): the line count saturates at 65,535. -/
def execLineCountArrival (s : State) : Out :=
  .next (s.modInst (s.arg 0) fun i =>
    let m : Nat × Option Nat := (s.arg 1, none)
    if i.lineMsgs.contains m then
      { i with lineMsgs := delFirst (fun x => decide (x = m)) i.lineMsgs
               lines := putT i.lines (s.arg 1) (min 65535 (getTD i.lines (s.arg 1) 0 + 1)) }
    else i)

/-- Whether a chain of an instance's tile may start again: one with REPEAT = 0 runs at most once (R168). -/
def State.mayRepeat (s : State) (k tk c : Nat) (x : Chain) : Bool :=
  !x.ran || match s.inst k with | some i => i.img.chainRepeat tk c | none => false
/-- CHAIN_START (R168): arguments name the instance, the tile and the chain. -/
def execChainStart (s : State) : Out :=
  .next (s.modTile (s.arg 0) (s.arg 1) fun t =>
    let c := getTD t.chains (s.arg 2) {}
    if c.running || decide (c.pending = 0) || t.acted || !t.woken || !s.mayRepeat (s.arg 0) (s.arg 1) (s.arg 2) c then t
    else { t with chains := putT t.chains (s.arg 2) { running := true, idx := [], pending := c.pending - 1, ran := true } })

/-- KV_REQUEST_EXAMINE (R348): the oldest request is forwarded or delivered, once NEXTCH's output has
the demand that a forward needs. -/
def execKvRequestExamine (s : State) : Out :=
  .next (s.modInst (s.arg 0) fun i =>
    let tk := s.arg 1
    match getT i.tiles tk with
    | none => i
    | some t => match t.kv with
      | [] => i
      | x :: l =>
        if t.acted || !t.woken then i else
        let w := i.img.frame 27 tk
        let nv := bit w 191
        let nch := fld w 190 181
        let p := x.word.toNat % 2 ^ 32
        let q := x.word.toNat / 2 ^ 32
        let out := match i.img.endOf nch false with
          | some (_, op) => if 0 < t.demandOf op then some op else none
          | none => none
        let deliver := i.setTile tk { t with kv := l, fifo := putT t.fifo 15 (t.fifoOf 15 ++ [x]) }
        if nv && decide (t.limit < p) then
          match out with
          | some op => ((i.setTile tk { t with kv := l }).put tk op x).request (epCh (i.img.ep tk 15))
          | none => i
        else if nv && decide (t.limit < q) then
          match out with
          | some op => deliver.put tk op (.narrow (BitVec.ofNat 64 (q * 2 ^ 32 + (t.limit + 1) % 2 ^ 32)) x.tag)
          | none => i
        else deliver)

end Sys2Proof.Machine
end

