-- ==== Sys2Proof/Machine/Matrix.lean ====
section
/-!
DEFINITION. The bit-serial matrix array (R240 to R263): PREC, products and accumulator cells, panel
slots, the sparse cursor, scratch operands, and the matrix issue point with its follow-ons.
-/
namespace Sys2Proof.Machine

/-! ### PREC (R241, R242) -/

/-- WA. -/
def precWA (p : Nat) : Nat := fld p 5 0
/-- WB. -/
def precWB (p : Nat) : Nat := fld p 13 8
/-- MODE is integer-exact. -/
def precIX (p : Nat) : Bool := decide (fld p 17 16 = 1)
/-- RND. -/
def precRnd (p : Nat) : Rnd :=
  match fld p 19 18 with
  | 0 => .rne
  | 1 => .rz
  | 2 => .rd
  | _ => .ru
/-- Whether a value may be written to PREC (R242). -/
def precLegal (v : Nat) : Bool :=
  decide (v < 2 ^ 20) && decide (fld v 15 14 = 0) && decide (fld v 7 6 = 0) && decide (1 ≤ precWA v) &&
    decide (precWA v ≤ 32) && decide (1 ≤ precWB v) && decide (precWB v ≤ 32) && decide (fld v 17 16 ≤ 1)

/-! ### Products and cells (R243 to R246) -/

/-- A product: nothing, a special value (1 +∞, 2 −∞, 3 NaN), or sign, magnitude and lsb exponent. -/
inductive Prod_ where
  | none
  | special (sp : Nat)
  | fin (neg : Bool) (pm : Nat) (ep : Int)
  deriving DecidableEq, Repr

/-- The product of two elements at widths WA and WB (R243, R244). -/
def product (wa wb : Nat) (a b : FW) : Prod_ :=
  match fwVal a, fwVal b with
  | .nan _ _, _ => .special 3
  | _, .nan _ _ => .special 3
  | .inf _, .zero _ => .special 3
  | .zero _, .inf _ => .special 3
  | .inf n, .inf m => .special (if n != m then 2 else 1)
  | .inf n, .fin m _ _ => .special (if n != m then 2 else 1)
  | .fin n _ _, .inf m => .special (if n != m then 2 else 1)
  | .zero _, _ => .none
  | _, .zero _ => .none
  | .fin n sa ea, .fin m sb eb =>
    let pm := sa / 2 ^ (32 - wa) * (sb / 2 ^ (32 - wb))
    if pm = 0 then .none else .fin (n != m) pm ((ea + 31 - (wa - 1)) + (eb + 31 - (wb - 1)))

/-- A value clamped to the range of X. -/
def clampX (x : Int) : Int := max (-4096) (min 4095 x)
/-- A value wrapped to 96-bit two's complement. -/
def wrap96 (x : Int) : Int := (x + 2 ^ 95) % 2 ^ 96 - 2 ^ 95

/-- The loop of R246 on an anchored cell; each turn but the last moves the anchor up by 32, so 257
turns reach its end. -/
def accLoop (ix neg : Bool) (pm : Nat) (ep : Int) : Nat → Cell → Cell
  | 0, c => c
  | k + 1, c =>
    let sh := ep - c.x
    let t : Nat := if 0 ≤ sh then pm * 2 ^ sh.toNat else pm / 2 ^ (-sh).toNat
    let lost := decide (sh < 0) && decide (t * 2 ^ (-sh).toNat ≠ pm)
    let v : Int := c.n + (if neg then -(t : Int) else t)
    if ix then { c with n := wrap96 v, l := c.l || lost || decide (wrap96 v ≠ v) }
    else if -(2 ^ 94 : Int) < v ∧ v < 2 ^ 94 then { c with n := v, l := c.l || lost }
    else if 4095 < c.x + 32 then { c with sp := if v < 0 then 2 else 1 }
    else accLoop ix neg pm ep k { c with n := c.n / 2 ^ 32, x := c.x + 32, l := c.l || decide (c.n % 2 ^ 32 ≠ 0) }

/-- Adds a product to a cell (R244 to R246). -/
def Cell.acc (c : Cell) (ix : Bool) : Prod_ → Cell
  | .none => c
  | .special sp =>
    if sp = 3 ∨ c.sp = 3 then { c with sp := 3 }
    else if c.sp = 0 ∨ c.sp = sp then { c with sp := sp }
    else { c with sp := 3 }
  | .fin neg pm ep =>
    if c.sp ≠ 0 then c
    else
      let c := if c.v then c else { c with x := if ix then 0 else clampX (ep - 24), v := true }
      accLoop ix neg pm ep 258 c

/-- A matrix of elements by row and column. -/
abbrev Mat := Nat → Nat → FW

/-- Adds, in every cell (i, j) of a bank, the products A[i][n] × B[k][j] of a list of pairs (n, k) in
order (R247, R256, R257). Cells that read as reset are not listed. -/
def addProducts (prec : Nat) (a b : Mat) (ks : List (Nat × Nat)) (bank : Tab Cell) : Tab Cell :=
  ((List.range 4096).map fun x =>
    (x, ks.foldl (fun c nk => c.acc (precIX prec) (product (precWA prec) (precWB prec) (a (x / 64) nk.1) (b nk.2 (x % 64))))
      (getTD bank x {}))).filter fun e => decide (e.2 ≠ ({} : Cell))

/-- The value of a cell as a fabric word (R259). -/
def Cell.value (c : Cell) (m : Rnd) : FW :=
  match c.sp with
  | 1 => infFW false
  | 2 => infFW true
  | 3 => nanFW
  | _ => if !c.v || decide (c.n = 0) then zeroFW false else roundFW m (decide (c.n < 0)) c.n.natAbs c.x
/-- The status of a cell as an integer lane (R259). -/
def Cell.status (c : Cell) : FW :=
  BitVec.ofNat 48 (b2n c.l + b2n c.v * 2 + c.sp * 4 + (c.x % 8192).toNat * 16)
/-- MANCH on one cell (R260). -/
def Cell.anchor (c : Cell) (ix preset : Bool) (k : Nat) : Cell :=
  if preset then (if c.v then c else { c with x := sx 13 k, v := true })
  else
    let d := k % 64
    if c.v && decide (c.sp = 0) && !ix && decide (c.n.natAbs * 2 ^ d < 2 ^ 94) && decide (-4096 ≤ c.x - d)
    then { c with n := c.n * 2 ^ d, x := c.x - d } else c
/-- MANCH on a bank. -/
def anchorBank (ix preset : Bool) (k : Nat) (bank : Tab Cell) : Tab Cell :=
  ((List.range 4096).map fun x => (x, (getTD bank x {}).anchor ix preset k)).filter fun e => decide (e.2 ≠ ({} : Cell))

/-! ### Panel slots (R248 to R251) -/

/-- A panel slot. -/
def Tile.panel (t : Tile) (n : Nat) : Panel := getTD t.panels n {}
/-- Replaces a panel slot. -/
def Tile.setPanel (t : Tile) (n : Nat) (p : Panel) : Tile := { t with panels := putT t.panels n p }
/-- The code of a slot's state (R249). -/
def PState.code : PState → Nat
  | .empty => 0 | .fillF => 1 | .fillE => 2 | .ready => 3 | .draining => 4
/-- A panel as a matrix (R248). -/
def Panel.mat (p : Panel) : Mat := fun r c => (getTD p.rows r zeroLanes).toList.getD c 0
/-- The panel table that GETPREC reads (R242). -/
def Tile.panelTable (t : Tile) : Nat := (List.range 8).foldl (fun a n => a + (t.panel n).st.code * 2 ^ (4 * n)) 0
/-- The sparse cursor that GETPREC reads (R257). -/
def Cursor.word (c : Cursor) : Nat := c.pos + b2n c.kv * 2 ^ 7 + c.lastk * 2 ^ 8 + c.stop * 2 ^ 14

/-- What the slots that an operation reads make of it (R249): go, wait, or PANEL_STATE with its detail
(R380). It waits while any slot requires it. -/
inductive Ready where
  | go | wait | bad (detail : Nat)
  deriving DecidableEq, Repr

/-- Checks the slots an operation reads. -/
def Tile.readable (t : Tile) (l : List Nat) : Ready :=
  if l.any fun n => decide ((t.panel n).st = .fillE) || decide ((t.panel n).st = .draining) then .wait
  else match l.find? fun n => decide ((t.panel n).st ≠ .ready) with
    | some n => .bad (n + (t.panel n).st.code * 16)
    | none => .go

/-- PFILL's effect on a slot (R249, R261): `cnt` marks the rows written since the slot entered FILLF. -/
def Panel.fillRow (p : Panel) (row : Nat) (v : Lanes) (m : Word) : Panel :=
  let done := (if p.st = .fillF then p.cnt else 0) ||| 2 ^ row
  { st := if done = 2 ^ 64 - 1 then .ready else .fillF
    rows := putT p.rows row (blend m v (getTD p.rows row zeroLanes)), cnt := done }

/-- PFILL (R249, R261). -/
def View.fill (v : View) (n row : Nat) (x : Lanes) (m : Word) (also : State → State) : SlotRes :=
  match (v.t.panel n).st with
  | .fillE => .fault cPANEL (n + 32)
  | .draining => .stall
  | _ => v.eff fun s => also (s.modTile v.key v.tk fun t => t.setPanel n ((t.panel n).fillRow row x m))

/-- PREL (R249, R263). -/
def View.release (v : View) (n : Nat) : SlotRes :=
  match (v.t.panel n).st with
  | .fillE => .fault cPANEL (n + 32)
  | .draining => .stall
  | _ => v.tile fun t => t.setPanel n { t.panel n with st := .empty, cnt := 0 }

/-- PEMIT (R249, R262): one row a turn, as the output has demand. -/
def View.emit (v : View) (port n : Nat) : SlotRes :=
  if !v.owns port false true || decide (epRate (v.i.img.ep v.tk port) ≠ 0) then .fault cCHANNEL port
  else
    let rdy := if v.f.rows = 0 then v.t.readable [n] else .go
    match rdy with
    | .bad d => .fault cPANEL d
    | .wait => .stall
    | .go =>
      if !v.i.mayPut v.tk port then .stall
      else
        let row := getTD (v.t.panel n).rows v.f.rows zeroLanes
        let put (mark : Nat) (s : State) : State := s.modInst v.key fun i => i.put v.tk port (.wide row mark)
        if v.f.rows < 63 then
          .part fun s => put 0 (s.modTile v.key v.tk fun t =>
            { t.setPanel n { t.panel n with st := .draining } with firing := t.firing.map fun f => { f with rows := f.rows + 1 } })
        else v.eff fun s => put 2 (s.modTile v.key v.tk fun t => t.setPanel n { t.panel n with st := .ready })

/-! ### The sparse cursor (R257) -/

/-- The entries of an MMAS token from one byte on: the pairs (n, k) of its coordinates and the cursor
after it; none where a check fails. -/
def sparseGo (c : Cursor) : List Byte → Option (List (Nat × Nat) × Cursor)
  | [] => some ([], c)
  | b :: l =>
    let e := b.toNat
    if e < 64 then
      if c.pos = 64 ∨ (c.kv = true ∧ e ≤ c.lastk) then none
      else match sparseGo { c with pos := c.pos + 1, lastk := e, kv := true } l with
        | some (r, c') => some ((c.pos, e) :: r, c')
        | none => none
    else if e = 0x40 ∨ e = 0x80 then
      if l.all (fun x => decide (x.toNat = 0xFF)) then some ([], { c with stop := e / 64, pos := 0, kv := false }) else none
    else if e = 0xFF then sparseGo c l
    else none
/-- The entries of an MMAS token. -/
def sparse (c : Cursor) (l : List Byte) : Option (List (Nat × Nat) × Cursor) := sparseGo { c with stop := 0 } l

/-! ### Scratch operands (R254, R255) -/

/-- The register pair of a scratch operand. -/
def View.pair (v : View) (m : Nat) : Word × Word := (v.t.s.toList.getD (2 * m) 0, v.t.s.toList.getD (2 * m + 1) 0)
/-- The neighbour of a tile in a direction: its column and row (R254). -/
def neighbour (tk dir : Nat) : Int × Int :=
  let x : Int := (tk % 128 : Nat)
  let y : Int := (tk / 128 : Nat)
  match dir with
  | 0 => (x, y - 1)
  | 1 => (x + 1, y)
  | 2 => (x, y + 1)
  | _ => (x - 1, y)
/-- The unrotated address of element [r][c] of a scratch operand. -/
def scratchAt (lo hi r c : Nat) : Nat :=
  fld lo 19 0 + fld hi 31 24 * fld hi 19 0 + r * fld lo 39 20 + 8 * c
/-- Its address with the bank field rotated. -/
def scratchRot (lo hi r c : Nat) : Nat :=
  let a := scratchAt lo hi r c
  (a / 2 ^ 16 + fld hi 35 32 * (r % 16)) % 16 * 2 ^ 16 + a % 2 ^ 16
/-- The checks of a scratch operand (R254): the fault code, if any. -/
def View.scratchBad (v : View) : MOpd → Option Nat
  | .panel _ => none
  | .scratch lo hi =>
    let l := lo.toNat
    let h := hi.toNat
    let nb := neighbour v.tk (fld l 41 40)
    let w : Int := (8 * v.i.img.bw : Nat)
    let ht : Int := (8 * v.i.img.bh : Nat)
    if fld l 19 0 % 8 ≠ 0 ∨ fld l 39 20 % 8 ≠ 0 ∨ fld h 19 0 % 8 ≠ 0 then some cALIGN
    else if fld l 63 42 ≠ 0 ∨ fld h 63 36 ≠ 0 ∨ fld h 23 20 ≠ 0 then some cACCESS
    else if nb.1 < 0 ∨ nb.2 < 0 ∨ w ≤ nb.1 ∨ ht ≤ nb.2 then some cACCESS
    else if 2 ^ 20 ≤ scratchAt l h 63 63 then some cACCESS
    else
      let tk := tkey nb.2.toNat nb.1.toNat
      let bad := match getT v.i.tiles tk with | some t => t.bad | none => []
      if (List.range 64).any fun r => (List.range 64).any fun c =>
        decide (v.i.img.bankUse tk (scratchRot l h r c / 2 ^ 16) % 3 ≠ 0) || badAt bad (scratchRot l h r c) 8
      then some cACCESS else none
/-- A scratch operand as a matrix; a neighbour that holds no tile of the instance supplies open values
(DESIGN CHOICE, log entry 2). -/
def scratchMat (i : Inst) (tk : Nat) (lo hi : Word) (free : Nat) : Mat := fun r c =>
  let nb := neighbour tk (fld lo.toNat 41 40)
  match getT i.tiles (tkey nb.2.toNat nb.1.toNat) with
  | some t => BitVec.ofNat 48 (memRead t.sram (scratchRot lo.toNat hi.toNat r c) 8)
  | none => BitVec.ofNat 48 (Config.freeNat (free + 64 * r + c))
/-- An operand as a matrix. -/
def opdMat (i : Inst) (tk : Nat) (t : Tile) (free : Nat) : MOpd → Mat
  | .panel n => (t.panel n).mat
  | .scratch lo hi => scratchMat i tk lo hi free

/-! ### The matrix issue point (R252, R253) -/

/-- The slots an operand names. -/
def MOpd.slots : MOpd → List Nat
  | .panel n => [n]
  | .scratch _ _ => []
/-- The other operand of a follow-on. -/
def followOther (d : Nat) : Nat := fld d 8 6
/-- Whether a follow-on descriptor is legal: its PRECV must be, whatever PSET says (R252; DEDUCED, log entry 46). -/
def followLegal (d : Nat) : Bool :=
  decide (fld d 62 60 = 0) && decide (fld d 39 12 = 0) && decide (fld d 5 2 = 0) && precLegal (fld d 59 40)
/-- The slots an operation reads. -/
def MOp.slots : MOp → List Nat
  | .mma _ a b => a.slots ++ b.slots
  | .mmas _ a b _ => [a, b]
  | .follow d s _ => [s, followOther d.toNat]
  | _ => []
/-- The products an operation forms (R165, R257). -/
def MOp.products (t : Tile) : MOp → Nat
  | .mma .. => 262144
  | .mmas _ _ _ tok => match sparse t.cursor (toBytes 8 tok.toNat) with
    | some (l, _) => l.length * 4096
    | none => 0
  | .follow .. => 262144
  | _ => 0
/-- The PREC an operation's products use. -/
def MOp.prec (t : Tile) : MOp → Nat
  | .follow d _ _ => if bit d.toNat 63 then fld d.toNat 59 40 else t.prec
  | _ => t.prec

/-- A command of the module. -/
def State.cmd (s : State) (id : Nat) : Option Cmd := s.cmds.find? fun c => decide (c.id = id)
/-- Replaces a command. -/
def State.setCmd (s : State) (c : Cmd) : State := { s with cmds := updFirst (fun x => decide (x.id = c.id)) (fun _ => c) s.cmds }
/-- Removes a command. -/
def State.delCmd (s : State) (id : Nat) : State := { s with cmds := delFirst (fun x => decide (x.id = id)) s.cmds }
/-- The fault record of a command (R380): SRC 2, at its A-tile. -/
def cmdFault (s : State) (c : Cmd) (code addr detail : Nat) : FaultRec :=
  let pos := match s.inst c.key with
    | some i => (i.y0 + c.pos / 128, c.pos % 128)
    | none => (0, 0)
  { inst := c.num, defer := true, code := code, widx := c.widx, src := 2, core := c.core, y := pos.1, x := pos.2
    addr := addr, cyc := s.cyc, detail := detail }
/-- Stops a command with a fault (R323): its writes so far stand. -/
def stopCmd (s : State) (c : Cmd) (code addr detail : Nat) (ext : List Word := []) : State :=
  s.setCmd { c with st := .faulted { cmdFault s c code addr detail with ext := ext }, rows := [], chunk := none, back := [], gather := [] }

/-- Whether a tile's matrix issue point may start an operation (R253, R382, R390). -/
def Tile.mayStart (t : Tile) : Bool := t.frozen.isNone && !t.acted && t.woken && !t.mq.any fun e => e.started && !e.ended
/-- The operation that starts next, and those behind it: while a word's first operation waits for its word to complete,
that word's other one (R215, R253). -/
def Tile.nextOp (t : Tile) : Option (MEntry × List MEntry) :=
  match t.mq.dropWhile (·.ended) with
  | [] => none
  | e :: l => if t.mq.any (·.ended) && !e.firing then none else some (e, l)
/-- The operands of an operation. -/
def MOp.opds : MOp → List MOpd
  | .mma _ a b => [a, b]
  | _ => []
/-- Completed fills' follow-ons enter the queue of their tile in the order of fill completion, while it holds fewer than
eight (R252); the first argument bounds them. -/
def admitFollows (k tk : Nat) : Nat → State → State
  | 0, s => s
  | f + 1, s =>
    match (s.inst k).bind fun i => getT i.tiles tk with
    | none => s
    | some t => match t.fwait with
      | [] => s
      | id :: l =>
        if 8 ≤ (t.mq.filter fun e => !e.firing).length then s
        else match s.cmd id with
        | none => admitFollows k tk f (s.modTile k tk fun t => { t with fwait := l, ahead := t.ahead - 1 })
        | some c => admitFollows k tk f (s.modTile k tk fun t =>
            { t with fwait := l, ahead := t.ahead - 1, mq := t.mq ++ [{ op := .follow (c.desc.getD 0) c.target.2 id, firing := false }] })

/-- MATRIX_OP_START (R249, R251, R253): arguments name the instance and the tile; the operation that
entered first starts, waits, or faults. -/
def execMatrixOpStart (s : State) : Out :=
  .next (match s.inst (s.arg 0) with
  | none => s
  | some i => match getT i.tiles (s.arg 1) with
    | none => s
    | some t => match t.nextOp with
      | none => s
      | some (e, l) =>
        if !t.mayStart then s
        else
          let done := t.mq.takeWhile (·.ended)
          let bad (code detail : Nat) : State :=
            match e.op with
            | .follow _ _ cmd =>
              let s := admitFollows (s.arg 0) (s.arg 1) 256 (s.modTile (s.arg 0) (s.arg 1) fun t => { t with mq := l })
              (match s.cmd cmd with
               | some c => stopCmd s c code 0 detail
               | none => s)
            | _ => match t.firing with
              | some f => View.freeze ⟨s.arg 0, s.arg 1, i, t, f, s.boot.modnum⟩ s code detail
              | none => s.modTile (s.arg 0) (s.arg 1) fun t => { t with mq := l }
          let illegal := match e.op with
            | .follow d _ _ => if followLegal d.toNat then none else some cPREC
            | _ => match t.firing with
              | some f => e.op.opds.findSome? (View.scratchBad ⟨s.arg 0, s.arg 1, i, t, f, s.boot.modnum⟩)
              | none => none
          match illegal with
          | some c => bad c 0
          | none => match t.readable e.op.slots with
            | .bad d => bad cPANEL d
            | .wait => s
            | .go =>
              let pr := e.op.prec t
              s.modInst (s.arg 0) fun i =>
                { i.setTile (s.arg 1) (e.op.slots.foldl (fun t n => t.setPanel n { t.panel n with st := .draining })
                    { t with mq := done ++ { e with started := true } :: l }) with
                  bpc := i.bpc + e.op.products t * (precWA pr * precWB pr) })

/-- The pairs (k, k) of a dense product. -/
def densePairs : List (Nat × Nat) := (List.range 64).map fun k => (k, k)
/-- The bank that a word's operation adds its products to, with them, of the rows as they are now (R256, R257). -/
def MOp.bank (o : MOp) (i : Inst) (tk free : Nat) (t : Tile) : Option (Tab Cell) :=
  match o with
  | .mma z a b => some (addProducts t.prec (opdMat i tk t free a) (opdMat i tk t (free + 4096) b) densePairs (getTD t.banks z []))
  | .mmas z a b tok => (sparse t.cursor (toBytes 8 tok.toNat)).map fun r =>
      addProducts t.prec (t.panel a).mat (t.panel b).mat r.1 (getTD t.banks z [])
  | _ => none
/-- What an operation leaves in its tile when it finishes (R252, R256 to R260); `sum` is the bank of a word's products, of
the rows as the array read them. -/
def MOp.finish (o : MOp) (sum : Option (Tab Cell)) (t : Tile) : Tile :=
  let bank (z : Nat) : Tab Cell := getTD t.banks z []
  match o with
  | .mma z _ _ => { t with banks := putT t.banks z (sum.getD (bank z)) }
  | .mmas z _ _ tok =>
    (match sparse t.cursor (toBytes 8 tok.toNat) with
     | some (_, c) => { t with banks := putT t.banks z (sum.getD (bank z)), cursor := c }
     | none => t)
  | .mz z => { t with banks := putT t.banks z [] }
  | .mrd d z row mask status =>
    let x : Lanes := Vector.ofFn fun j =>
      let c := getTD (bank z) (64 * row + j.val) {}
      if status then c.status else c.value (precRnd t.prec)
    t.setV d (blend mask x (t.vreg d))
  | .manch z k preset => { t with banks := putT t.banks z (anchorBank (precIX t.prec) preset k.toNat (bank z)) }
  | .setprec v => { t with prec := v.toNat % 2 ^ 20 }
  | .follow d s _ =>
    let d := d.toNat
    let z := d % 4
    let prec := if bit d 63 then fld d 59 40 else t.prec
    let b := if bit d 11 then [] else bank z
    let x := (t.panel s).mat
    let y := (t.panel (followOther d)).mat
    let t := { t with prec := prec, banks := putT t.banks z (if bit d 9 then addProducts prec y x densePairs b else addProducts prec x y densePairs b) }
    if bit d 10 then t.setPanel s { t.panel s with st := .empty, cnt := 0 } else t

/-- The queue's operation that is running. -/
def MEntry.running (e : MEntry) : Bool := e.started && !e.ended
/-- MATRIX_OP_FINISH (R249, R253): the array has read the last row of the operation that is running, and its slots are READY
again. A
follow-on takes its effect now; a word's operation takes it with the rest of its word (R215). -/
def execMatrixOpFinish (s : State) : Out :=
  .next (match s.inst (s.arg 0) with
  | none => s
  | some i => match getT i.tiles (s.arg 1) with
    | none => s
    | some t => match t.mq.find? MEntry.running with
      | none => s
      | some e =>
        let sum := e.op.bank i (s.arg 1) s.sched.free t
        let s : State := { s with sched := { s.sched with free := s.sched.free + 8192 } }
        let t := e.op.slots.foldl (fun t n => t.setPanel n { t.panel n with st := .ready }) t
        match e.op with
        | .follow _ _ cmd =>
          let s := s.setInst (s.arg 0) (i.setTile (s.arg 1) (e.op.finish none { t with mq := delFirst MEntry.running t.mq }))
          let s := admitFollows (s.arg 0) (s.arg 1) 256 s
          (match s.cmd cmd with
           | some c => s.setCmd { c with st := .done 0 }
           | none => s)
        | _ => s.setInst (s.arg 0) (i.setTile (s.arg 1) { t with mq := updFirst MEntry.running (fun e => { e with ended := true, sum := sum }) t.mq }))

end Sys2Proof.Machine
end

