-- ==== Sys2Proof/Machine/Slots.lean ====
section
/-!
DEFINITION. How the two slots of a firing word take effect together (R104, R109, R164, R215, R216, R253).
-/
namespace Sys2Proof.Machine

/-- The matrix operations of a slot. -/
def SlotRes.ops : SlotRes → List MOp
  | .mop o _ => [o]
  | _ => []
/-- The effect of a slot when its word completes. -/
def SlotRes.run : SlotRes → State → State
  | .ok f _ _, s => f s
  | .mop _ f, s => f s
  | _, s => s
/-- The SRAM write of a slot again, if it has one. -/
def SlotRes.late : SlotRes → Option (State → State)
  | .ok _ f _ => f
  | _ => none
/-- Where both slots write SRAM and their bytes overlap, which write stands is open (DESIGN CHOICE, log entry 21). -/
def overlapOpen (a b : SlotRes) (s : State) : State :=
  match a.late, b.late with
  | some f, some _ => let r := s.free; if r.1 % 2 = 0 then r.2 else f r.2
  | _, _ => s
/-- Where a slot sends the firing. -/
def SlotRes.ctl : SlotRes → Ctl
  | .ok _ _ c => c
  | _ => .next

/-- The matrix operations of a word's slots enter the issue point, vector slot first (R242, R253). -/
def View.enter (v : View) (s : State) (ops : List MOp) : State :=
  s.modTile v.key v.tk fun t => { t with
    mq := t.mq ++ ops.map (fun o => { op := o })
    firing := t.firing.map fun f => { f with ops := ops.length } }
/-- The operations of a word, all done on the array, take their effect and leave the issue point. -/
def View.leaveOps (v : View) (s : State) : State :=
  s.modTile v.key v.tk fun t => (v.t.mq.filter (·.firing)).foldl (fun t e => e.op.finish e.sum t) { t with mq := t.mq.filter fun e => !e.firing }
/-- What GETPREC reads is seen as the word begins (R215, R242). -/
def View.look (v : View) (s : State) : State :=
  if !v.f.seen.isEmpty then s
  else s.modTile v.key v.tk fun t => { t with firing := t.firing.map fun f => { f with seen := [t.prec, t.cursor.word, t.panelTable] } }
/-- Runs a firing word whose guard is true: a fault of either slot has no effect in either (which of
two is recorded is open, DESIGN CHOICE, log entry 21); a stall of either holds both, and so do the matrix operations
that it has entered; what a freeze held at the issue point enters ahead of it (R252); otherwise both take effect, the vector slot's register standing where both write one (R215,
R216). -/
def runSlots (s : State) (v : View) (a b : SlotRes) : State :=
  if v.f.ops ≠ 0 && v.t.mq.any (fun e => e.firing && !e.ended) then s
  else match a, b with
  | .fault c d, .fault c' d' =>
    let f := s.free
    if f.1 % 2 = 0 then v.freeze f.2 c d else v.freeze f.2 c' d'
  | .fault c d, _ => v.freeze s c d
  | _, .fault c d => v.freeze s c d
  | .stall, _ => s
  | _, .stall => s
  | a, b =>
    if v.f.ops = 0 ∧ (b.ops ++ a.ops).isEmpty = false then
      if v.t.ahead ≠ 0 then s else v.enter (v.look s) (b.ops ++ a.ops)
    else match b with
      | .part f => f (v.look s)
      | b => v.done a.ctl (overlapOpen a b (b.run (a.run (if v.f.ops = 0 then s else v.leaveOps s))))

/-- Runs f on the firing in progress of the tile that is moving. -/
def onFiring (s : State) (f : View → Out) : Out :=
  match s.inst s.sched.tile.1 with
  | none => .fault .nothingExecutes
  | some i => match getT i.tiles s.sched.tile.2 with
    | none => .fault .nothingExecutes
    | some t => match t.firing with
      | none => .fault .nothingExecutes
      | some r => f ⟨s.sched.tile.1, s.sched.tile.2, i, t, r, s.boot.modnum⟩

/-- A word whose scalar slot alone acts, under a true guard. -/
def scalarWord (f : View → SlotRes) (s : State) : Out :=
  onFiring s fun v => .next (runSlots s v (f v) (.ok id none .next))
/-- A word whose vector slot alone acts, under a true guard. -/
def vectorWord (f : View → SlotRes) (s : State) : Out :=
  onFiring s fun v => .next (runSlots s v (.ok id none .next) (f v))

end Sys2Proof.Machine
end

