-- ==== Sys2Proof/Machine/Array.lean ====
section
/-!
DEFINITION. The matrix and panel words of firings (R256 to R263) and VMRG (R349).
-/
namespace Sys2Proof.Machine

/-- MMA of a slot (R256). -/
def slotMma (z : Fin 4) (a : Fin 8) (b : Fin 8) (aScr : Bool) (bScr : Bool) (v : View) : SlotRes :=
  let oa : MOpd := if aScr then .scratch (v.pair a.val).1 (v.pair a.val).2 else .panel a.val
  let ob : MOpd := if bScr then .scratch (v.pair b.val).1 (v.pair b.val).2 else .panel b.val
  if v.f.ops ≠ 0 then .mop (.mma z.val oa ob) id
  else match v.scratchBad oa, v.scratchBad ob with
  | some e, _ => .fault e 0
  | none, some e => .fault e 0
  | none, none => .mop (.mma z.val oa ob) id
/-- MMA (R256). -/
def execMma (z : Fin 4) (a : Fin 8) (b : Fin 8) (aScr : Bool) (bScr : Bool) (s : State) : Out := vectorWord (slotMma z a b aScr bScr) s
/-- MMAS of a slot (R257). -/
def slotMmas (z : Fin 4) (a : Fin 8) (b : Fin 8) (port : Fin 32) (v : View) : SlotRes :=
  if v.f.ops ≠ 0 then .mop (.mmas z.val a.val b.val 0) (v.taken port.val)
  else match v.head port.val false with
  | .error e => e
  | .ok t =>
    match sparse v.t.cursor (toBytes 8 t.word.toNat) with
    | none => .fault cCHANNEL port.val
    | some _ => .mop (.mmas z.val a.val b.val t.word) (v.taken port.val)
/-- MMAS (R257). -/
def execMmas (z : Fin 4) (a : Fin 8) (b : Fin 8) (port : Fin 32) (s : State) : Out := vectorWord (slotMmas z a b port) s
/-- MZ of a slot (R258). -/
def slotMz (z : Fin 4) (_ : View) : SlotRes :=
  .mop (.mz z.val) id
/-- MZ (R258). -/
def execMz (z : Fin 4) (s : State) : Out := vectorWord (slotMz z) s
/-- MRD of a slot (R259). -/
def slotMrd (d : VReg) (z : Fin 4) (k : SReg) (m : MReg) (v : View) : SlotRes :=
  .mop (.mrd d.val z.val ((v.s k).toNat % 64) (v.m m) false) id
/-- MRD (R259). -/
def execMrd (d : VReg) (z : Fin 4) (k : SReg) (m : MReg) (s : State) : Out := vectorWord (slotMrd d z k m) s
/-- MRD_STATUS of a slot (R259). -/
def slotMrdStatus (d : VReg) (z : Fin 4) (k : SReg) (m : MReg) (v : View) : SlotRes :=
  .mop (.mrd d.val z.val ((v.s k).toNat % 64) (v.m m) true) id
/-- MRD_STATUS (R259). -/
def execMrdStatus (d : VReg) (z : Fin 4) (k : SReg) (m : MReg) (s : State) : Out := vectorWord (slotMrdStatus d z k m) s
/-- MANCH of a slot (R260). -/
def slotManch (z : Fin 4) (k : SReg) (v : View) : SlotRes :=
  .mop (.manch z.val (v.s k) false) id
/-- MANCH (R260). -/
def execManch (z : Fin 4) (k : SReg) (s : State) : Out := vectorWord (slotManch z k) s
/-- MANCH_PRESET of a slot (R260). -/
def slotManchPreset (z : Fin 4) (k : SReg) (v : View) : SlotRes :=
  .mop (.manch z.val (v.s k) true) id
/-- MANCH_PRESET (R260). -/
def execManchPreset (z : Fin 4) (k : SReg) (s : State) : Out := vectorWord (slotManchPreset z k) s
/-- PFILL of a slot (R261). -/
def slotPfill (d : Fin 8) (a : VReg) (r : SReg) (m : MReg) (v : View) : SlotRes :=
  v.fill d.val ((v.s r).toNat % 64) (v.v a) (v.m m) id
/-- PFILL (R261). -/
def execPfill (d : Fin 8) (a : VReg) (r : SReg) (m : MReg) (s : State) : Out := vectorWord (slotPfill d a r m) s
/-- PFILL_PORT of a slot (R261). -/
def slotPfillPort (d : Fin 8) (port : Fin 32) (r : SReg) (m : MReg) (v : View) : SlotRes :=
  match v.head port.val true with
  | .error e => e
  | .ok t => v.fill d.val ((v.s r).toNat % 64) t.lanes (v.m m) (v.taken port.val)
/-- PFILL_PORT (R261). -/
def execPfillPort (d : Fin 8) (port : Fin 32) (r : SReg) (m : MReg) (s : State) : Out := vectorWord (slotPfillPort d port r m) s
/-- PEMIT of a slot (R262). -/
def slotPemit (port : Fin 32) (p : Fin 8) (v : View) : SlotRes :=
  v.emit port.val p.val
/-- PEMIT (R262). -/
def execPemit (port : Fin 32) (p : Fin 8) (s : State) : Out := vectorWord (slotPemit port p) s
/-- PREL of a slot (R263). -/
def slotPrel (p : Fin 8) (v : View) : SlotRes :=
  v.release p.val
/-- PREL (R263). -/
def execPrel (p : Fin 8) (s : State) : Out := vectorWord (slotPrel p) s
/-- VMRG of a slot (R349). -/
def slotVmrg (d : Fin 16) (a : Fin 16) (b : Fin 16) (v : View) : SlotRes :=
  let a' := 2 * a.val
  let b' := 2 * b.val
  let r := mergeTriple (v.t.vreg a') (v.t.vreg (a' + 1)) (v.t.vreg b') (v.t.vreg (b' + 1))
  v.tile fun t => (t.setV (2 * d.val) r.1).setV (2 * d.val + 1) r.2
/-- VMRG (R349). -/
def execVmrg (d : Fin 16) (a : Fin 16) (b : Fin 16) (s : State) : Out := vectorWord (slotVmrg d a b) s

end Sys2Proof.Machine
end

