-- ==== Sys2Proof/Machine/Homes.lean ====
section
/-!
DEFINITION. What happens to a run's operations after they issue: accesses and read-modify-writes at
their homes (R188 to R191, R278, R279, R335, R337, R365, R368), completion (R193), deferred faults
(R190), caravans (R50, R201 to R203) and WAITA at the word's home (R372 to R374).
-/
namespace Sys2Proof.Machine

/-! ### Where an access may go -/

/-- The pod membership list (R29). -/
def State.pod (s : State) : List Nat := s.boot.pod
/-- Why an access to a global address is refused at its issuing node (R37, R266, R335): its offset lies outside its
layout, another module is reached in kinds 0 and 1 only and inside the pod, and oasis needs the pod partition
key. -/
def remoteBad (s : State) (p ga : Nat) : Option Nat :=
  if gaLegal ga = false then some cACCESS
  else if gaModule ga ≠ s.boot.modnum ∧ (2 ≤ gaKind ga ∨ s.pod.contains (gaModule ga) = false) then some cACCESS
  else if gaKind ga = 1 ∧ ((s.part p).bind fun x => x.podKey).isNone = true then some cACCESS
  else none
/-- Whether the module that serves an address drops the partition's tokens, which it does unless both hold one pod
key (R37, R337). -/
def remoteDrop (s : State) (p ga : Nat) : Bool :=
  decide (servedBy s ga ≠ s.boot.modnum) && (((s.part p).bind fun x => x.podKey).isNone || !Config.podPart (servedBy s ga) p)
/-- The token of an access that another module serves leaves; an access that this module serves needs none, nor does one
that is refused (R335, R343). None: no started link carries it yet, and the access waits (DEDUCED, log entry 35). -/
def State.depart (s : State) (p ga : Nat) (req : LlReq) : Option State :=
  if servedBy s ga = s.boot.modnum ∨ (remoteBad s p ga).isSome = true then some s else s.sendMem p (servedBy s ga) ga req

/-- Reads n bytes for an agent: refused, dropped, or served at the home. -/
def readAt (s : State) (p ga n : Nat) : Except Nat Nat :=
  match remoteBad s p ga with
  | some c => .error c
  | none => if remoteDrop s p ga then .error cACCESS else homeRead s p ga n
/-- Writes bytes for an agent; every fabric cache of the module gives their lines up first (R279). A store that is
dropped has no effect, and nothing faults (R337). -/
def writeAt (s : State) (p ga : Nat) (bs : List Byte) : Except Nat State :=
  match remoteBad s p ga with
  | some c => .error c
  | none => if remoteDrop s p ga then .ok (dropFabric s ga bs.length) else homeWrite (dropFabric s ga bs.length) p ga bs

/-- The lines a fabric cache holds (R279). -/
def fabLines : Nat := 131072
/-- A plain load through a die's read-only fabric cache (R279): a line may be replaced at any time, as `gone` says;
a hit returns what the line held when it was filled. An access that its issuing node refuses, or to a lost range, hits
no line (R335, R344). None: the fill waits for a link. -/
def fabRead (s : State) (p die ga n : Nat) (gone : Bool) : Option (State × Except Nat Nat) :=
  let line := ga / 128 * 128
  let l := s.fab die
  let l := if gone then l.filter fun y => !(decide (y.part = p) && decide (y.ga = line)) else l
  let put (s : State) (l : List FLine) : State := { s with caches := { s.caches with fab := putT s.caches.fab die l } }
  match remoteBad s p ga with
  | some c => some (s, .error c)
  | none =>
    if oasisLost s ga then some (s, .error cLOST)
    else match l.find? fun y => decide (y.part = p) && decide (y.ga = line) with
    | some y => some (put s l, .ok (ofBytes ((y.data.drop (ga % 128)).take n)))
    | none => (s.depart p line (.read line 128)).map fun s =>
      match readAt s p line 128 with
      | .error c => (s, .error c)
      | .ok v =>
        let bs := toBytes 128 v
        (put s ((l ++ [({ part := p, ga := line, data := bs } : FLine)]).drop (l.length + 1 - fabLines)), .ok (ofBytes ((bs.drop (ga % 128)).take n)))

/-! ### Accesses at their homes -/

/-- An operation of a number, at the address where it is served: that of a page that has moved is its new one (R152). -/
def State.pendAt (s : State) (id : Nat) : Option Pend := (s.pend id).map fun q => { q with ga := fwdGa s q.ga }

/-- Whether an access is held before its home (R39, R128, R191, R322, R396). -/
def heldBack (s : State) (q : Pend) (n : Nat) (write : Bool) : Bool :=
  s.opShut q.id q.ga n || earlierOverlap s q || runSaved s q || (write && cmdBlocks s q n)
/-- An operation of a run to ordinary memory reaches its home, once nothing holds it: for want of a pod key it
asks for it again and waits (R37), and a stash page must name a stash bank (R269). -/
def atHome (s : State) (q : Pend) (n : Nat) (write : Bool) (f : State → State) : State :=
  if isStream q.va || heldBack s q n write then s
  else if noKey s q.part q.ga then askAgain s q.part
  else if stashBad s q.part q.page then s.setPend { q with st := .faulted (pendFault s q cACCESS q.ga) }
  else f s
/-- Goes on once the access's token has left, where it needs one (R335). -/
def away (s : State) (p ga : Nat) (req : LlReq) (f : State → State) : State :=
  match s.depart p ga req with
  | none => s
  | some t => f t

/-- The synchronising loads that wait at one home (R365): an M-tile, or a die's L2. -/
def syncHome (ga : Nat) : Nat := if gaKind ga = 2 then 2 ^ 32 + gaY ga * 64 + gaX ga else gaModule ga * 16 + gaDie ga
/-- Whether an operation is a synchronising load that waits at a home. -/
def waitsSync (q : Pend) : Bool := match q.act, q.st with | .sync _, .waiting => true | _, _ => false
/-- Whether a synchronising load leaves its word full. -/
def Act.keeps : Act → Bool
  | .sync k => k
  | _ => false
/-- The cache effects of a synchronising load, served at its word's home: at a stash home the sector is exclusive, and a
half of a host-bias page is only shared, as for any load (R365, R378). One that has waited while its page flipped leaves
nothing under the new bias (R128; DEDUCED, log entry 9). -/
def syncTouch (s : State) (q : Pend) : State :=
  if q.st = .waiting ∧ s.hostBias q.ga ≠ q.bias then s
  else touchRange s q.part q.va.toNat q.ga 8 false (!s.hostBias q.ga) q.page
/-- A synchronising load is served from its full word, and empties it unless it is LDSYN.K (R365). -/
def syncTake (s : State) (q : Pend) : State :=
  match readAt s q.part q.ga 8 with
  | .error c => s.setPend { q with st := .faulted (pendFault s q c q.ga) }
  | .ok v =>
    let s := syncTouch s q
    let s := if q.act.keeps then s else feSet s q.part q.ga false
    s.setPend { q with st := .done (BitVec.ofNat 64 v) }
/-- Such a load of another module's is served, and answered over the link that brought it (R365). -/
def farTake (s : State) (w : FarSync) : State :=
  let s := { s with syncs := s.syncs.filter fun y => decide (y ≠ w) }
  let ga := fwdGa s w.ga
  match homeRead s w.part ga 8 with
  | .error c => s.answerOn w.link w.part c 0
  | .ok v =>
    let s := if s.hostBias ga = w.bias then touchRange s w.part (2 ^ 64) ga 8 false (!s.hostBias ga) none else s
    (if w.keep then s else feSet s w.part ga false).answerOn w.link w.part 0 v
/-- Serves the synchronising loads that wait on a word, first come first, while it is full (R365). -/
def syncServe (s : State) (ga : Nat) : Nat → State
  | 0 => s
  | f + 1 =>
    match s.pends.find? (fun q => waitsSync q && decide (fwdGa s q.ga = fwdGa s ga)), s.syncs.find? fun w => decide (fwdGa s w.ga = fwdGa s ga) with
    | some q, none => if feGet s q.part ga then syncServe (syncTake s q) ga f else s
    | none, some w => if feGet s w.part ga then syncServe (farTake s w) ga f else s
    | some q, some w => if feGet s q.part ga then syncServe (if q.stamp < w.stamp then syncTake s q else farTake s w) ga f else s
    | none, none => s
/-- A word becomes full, and serves what waits on it in the same step (R324, R365). -/
def fill (s : State) (p ga : Nat) : State := syncServe (feSet s p ga true) ga (s.pends.length + s.syncs.length)
/-- The synchronising loads that wait at the home of a word (R365). -/
def syncCount (s : State) (ga : Nat) : Nat :=
  (s.pends.filter fun x => waitsSync x && decide (syncHome x.ga = syncHome ga)).length + (s.syncs.filter fun w => decide (syncHome w.ga = syncHome ga)).length
/-- Another module's synchronising load reaches its word (R365): it is served, or waits as this module's own do; none while
the list is full. -/
def farSyncAt (s : State) (link p ga : Nat) (keep : Bool) : Option State :=
  let w : FarSync := { stamp := s.fresh.1, link := link, part := p, ga := ga, keep := keep, bias := s.hostBias ga }
  if feGet s p ga then some (farTake s w)
  else if 256 ≤ syncCount s ga then none
  else some { s.fresh.2 with syncs := s.syncs ++ [w] }
/-- A synchronising load reaches its word (R365): it is served, or waits in its turn at the home while that has
room. -/
def syncAtHome (s : State) (q : Pend) : State :=
  if feGet s q.part q.ga || (remoteBad s q.part q.ga).isSome || remoteDrop s q.part q.ga then syncTake s q
  else if (if gaKind q.ga = 2 then 64 else 256) ≤ syncCount s q.ga then s
  else { s.fresh.2 with pends := delFirst (fun x => decide (x.id = q.id)) s.pends ++ [{ q with st := .waiting, bias := s.hostBias q.ga, stamp := s.fresh.1 }] }

/-- ACCESS_AT_HOME (R188, R189, R279, R365): argument 0 names the operation; where argument 1 is odd, a fabric cache has
replaced the line it needs (DESIGN CHOICE, log entry 1). -/
def execAccessAtHome (s : State) : Out :=
  .next (match s.pendAt (s.arg 0) with
  | none => s
  | some q =>
    let bad (s : State) (c : Nat) : State := s.setPend { q with st := .faulted (pendFault s q c q.ga) }
    match q.act, q.st with
    | .load n sg true, .issued => atHome s q n false fun s =>
        (match fabRead s q.part q.die q.ga n (decide (s.arg 1 % 2 = 1)) with
         | none => s
         | some (s, .error c) => bad s c
         | some (s, .ok v) => s.setPend { q with st := .done (extend n sg v) })
    | .load n sg false, .issued => atHome s q n false fun s => away s q.part q.ga (.read q.ga n) fun s =>
        (match readAt s q.part q.ga n with
         | .error c => bad s c
         | .ok v => (touch s q.core q.part q.va.toNat q.ga false false q.hint q.page).setPend { q with st := .done (extend n sg v) })
    | .store n v, .issued => atHome s q n true fun s => away s q.part q.ga (.write q.ga n v.toNat (2 ^ (8 * n) - 1) 0) fun s =>
        (match writeAt s q.part q.ga (toBytes n v.toNat) with
         | .error c => bad s c
         | .ok s => (touch s q.core q.part q.va.toNat q.ga true false q.hint q.page).setPend { q with st := .done 0 })
    | .sync keep, .issued => atHome s q 8 false fun s => away s q.part q.ga (.sync q.ga keep) fun s => syncAtHome s q
    | _, _ => s)

/-- RMW_AT_HOME (R224, R368 to R370): one step of the home order. A failing ACAS is a read only. -/
def execRmwAtHome (s : State) : Out :=
  .next (match s.pendAt (s.arg 0) with
  | none => s
  | some q =>
    let bad (s : State) (c : Nat) : State := s.setPend { q with st := .faulted (pendFault s q c q.ga) }
    match q.act, q.st with
    | .rmw op b d, .issued => atHome s q 8 true fun s => away s q.part q.ga (.rmw op q.ga b d) fun s =>
        (match readAt s q.part q.ga 8 with
         | .error c => bad s c
         | .ok m =>
           let done (s : State) (write : Bool) : State :=
             (touch s q.core q.part q.va.toNat q.ga write true q.hint q.page).setPend { q with st := .done (BitVec.ofNat 64 m) }
           match atomNew op (BitVec.ofNat 64 m) b d with
           | none => done s false
           | some v => match writeAt s q.part q.ga (toBytes 8 v.toNat) with
             | .ok s => done s true
             | .error c => bad s c)
    | _, _ => s)

/-- LOAD_COMPLETE (R180, R193): the value is written to its register and LDC falls. A read-modify-write waits until its
mirror has applied it (R343). -/
def execLoadComplete (s : State) : Out :=
  .next (match s.pend (s.arg 0) with
  | none => s
  | some q => if mirrorOwed s q.part then s else match q.cls, q.st with
    | .ldc, .done v => complete (s.modRun q.core q.rid q.part fun r => if r.rid = q.rid then r.setN q.dst v else r) q
    | _, _ => s)

/-- STORE_PERFORMED (R189, R193): STC falls, once a mirror has applied the store (R343); a stream operation that has been applied leaves CPC the
same way. -/
def execStorePerformed (s : State) : Out :=
  .next (match s.pend (s.arg 0) with
  | none => s
  | some q => if mirrorOwed s q.part then s else match q.cls, q.st with
    | .stc, .done _ => complete s q
    | .cpc, .done _ => complete s q
    | _, _ => s)

/-- DEFERRED_FAULT_ARRIVAL (R190, R193, R199): the fault is reported to its run, or posted. -/
def execDeferredFaultArrival (s : State) : Out :=
  .next (match s.pend (s.arg 0) with
  | none => s
  | some q => match q.st with
    | .faulted f => complete (deferFault s q.core q.rid q.part f (trapRec s q.inst q.fp q.arg) q.trapc) q
    | _ => s)

/-! ### Caravans at their home (R50, R201 to R203) -/

/-- A caravan of an instance (R201). -/
def caravanOf (x : Part) (num : Nat) (c : Word) : Option Caravan :=
  if 255 < c.toNat then none
  else match getT x.caravans c.toNat with
    | some v => if v.inst = num then some v else none
    | none => none
/-- Whether a member has arrived in the round. -/
def Caravan.has (v : Caravan) (m : Word) : Bool := v.arrived.any fun a => decide (a.1 = m)
/-- Completes the round if every member has arrived: every parked record becomes runnable, in order of
arrival (R50, R177). -/
def roundCheck (s : State) (p c : Nat) : State :=
  match s.part p with
  | none => s
  | some x => match getT x.caravans c with
    | none => s
    | some v =>
      if v.members.isEmpty || v.members.any (fun m => !v.has m) then s
      else wakeAll (s.setPart p { x with caravans := putT x.caravans c { v with arrived := [] } }) (v.arrived.map fun a => (p, a.2.1, a.2.2))

/-- A caravan operation at its home (R202): the state and the status. -/
def caravanAct (s : State) (q : Pend) : State × Word :=
  match s.part q.part with
  | none => (s, 3)
  | some x =>
    let set (c : Nat) (v : Caravan) : State := s.setPart q.part { x with caravans := putT x.caravans c v }
    match q.act with
    | .cnew =>
      let f := s.free
      (match ((List.range 256).map fun j => (f.1 + j) % 256).find? fun c => (getT x.caravans c).isNone with
       | some c => (f.2.setPart q.part { x with caravans := putT x.caravans c { inst := q.inst } }, BitVec.ofNat 64 c)
       | none => (s, BitVec.allOnes 64))
    | .cjoin c => (match caravanOf x q.inst c with
      | none => (s, 3)
      | some v =>
        if v.members.contains q.fp then (s, 2)
        else if 4096 ≤ v.members.length then (s, 1)
        else (set c.toNat { v with members := v.members ++ [q.fp] }, 0))
    | .cleave c => (match caravanOf x q.inst c with
      | none => (s, 3)
      | some v =>
        if !v.members.contains q.fp then (s, 2)
        else if v.has q.fp then (s, 4)
        else (roundCheck (set c.toNat { v with members := v.members.filter fun m => decide (m ≠ q.fp) }) q.part c.toNat, 0))
    | .cfree c => (match caravanOf x q.inst c with
      | none => (s, 3)
      | some v => if v.arrived.isEmpty then (s.setPart q.part { x with caravans := delT x.caravans c.toNat }, 0) else (s, 4))
    | _ => (s, 3)

/-- Whether an operation acts on a caravan. -/
def caravanOp? (a : Act) : Bool := match a with | .cnew => true | .cjoin _ => true | .cleave _ => true | .cfree _ => true | _ => false

/-- CARAVAN_OP_AT_HOME (R201, R202): the operations of one run arrive in program order. -/
def execCaravanOpAtHome (s : State) : Out :=
  .next (match s.pend (s.arg 0) with
  | none => s
  | some q =>
    let earlier := (s.pends.takeWhile fun x => decide (x.id ≠ q.id)).any fun x =>
      decide (x.rid = q.rid) && caravanOp? x.act && decide (x.st = .issued)
    if caravanOp? q.act && decide (q.st = .issued) && !earlier then
      let r := caravanAct s q
      r.1.setPend { q with st := .done r.2 }
    else s)

/-! ### WAITA at the word's home (R372 to R375) -/

/-- A monitor takes its place in a table, in the order of arming. -/
def insMon (m : Monitor) : List Monitor → List Monitor
  | [] => [m]
  | y :: l => if m.armed < y.armed then m :: y :: l else y :: insMon m l
/-- A monitor enters the table of its word; a full one frees the one armed longest ago, whose records wake (R374). -/
def putMonitor (s : State) (m : Monitor) : State :=
  let t := monTable m.ga
  match insMon m (getTD s.mons t []) with
  | old :: rest =>
    if 1024 ≤ rest.length then wakeAll { s with mons := putT s.mons t rest } old.parked
    else { s with mons := putT s.mons t (old :: rest) }
  | [] => s
/-- Arms the monitor of a word for a parked record (R372, R374). From then on the caches hold the line only shared
(R373). -/
def armMonitor (s : State) (ga : Nat) (e : Nat × Nat × Nat) : State :=
  let s := shareOnly s ga
  let t := monTable ga
  let l := getTD s.mons t []
  if l.any fun m => decide (m.ga = ga) then
    { s with mons := putT s.mons t (updFirst (fun m => decide (m.ga = ga)) (fun m => { m with parked := m.parked ++ [e] }) l) }
  else putMonitor s { ga := ga, armed := s.cyc, parked := [e] }
/-- Parks a record on a word's monitor (R372, R374). -/
def parkOn (s : State) (p core : Nat) (ga : Nat) (r : Rec) : State :=
  match s.part p with
  | none => s
  | some x =>
    if !x.poolFree then runnable s p (some core) r
    else
      let e := poolPut s p r
      armMonitor e.2.2 ga (p, e.1, core)

/-- Whether an operation's home is an M-tile whose place another occupant holds, or will: the request is saved until its own
returns (R374, R396). -/
def homeOut (s : State) (q : Pend) : Bool :=
  decide (gaKind q.ga = 2) && match s.part q.part with | some x => decide (x.cur ≠ occOf q.inst) | none => false
/-- WAITA_AT_HOME (R372, R373): the comparison and the arming are one step of the home order. It reads the word at its
home, which leaves the line only shared in the caches, and fetches a half of the host's as shared. -/
def execWaitaAtHome (s : State) : Out :=
  .next (match s.pendAt (s.arg 0) with
  | none => s
  | some q => match q.act with
    | .waita e r =>
      if s.opShut q.id q.ga 8 || homeOut s q then s
      else if noKey s q.part q.ga then askAgain s q.part
      else away s q.part q.ga (.waita q.ga e) fun s =>
        match (if stashBad s q.part q.page then .error cACCESS else readAt s q.part q.ga 8) with
        | .error c => (deferFault s q.core q.rid q.part (pendFault s q c q.ga) (trapRec s q.inst q.fp q.arg) q.trapc).delPend q.id
        | .ok m =>
          let s := touch (s.delPend q.id) none q.part q.va.toNat q.ga false false .normal q.page
          if BitVec.ofNat 64 m = e then parkOn s q.part q.core (fwdGa s q.ga) r else runnable s q.part (some q.core) r
    | _ => s)

/-! ### Launches from device code (R141) -/

/-- What QPOST's read of its packet comes to: the bytes, a fault with its detail and the words of a STREAM_STALL, or nothing
yet. -/
inductive PacketRead where
  | ok (s : State) (v : Nat)
  | bad (s : State) (code detail : Nat) (ext : List Word := [])
  | stay (s : State)
/-- QPOST's read through a stream address, at the stream's home (R284, R290): one that must wait enters the wait list, under
a number that the run keeps, and the home answers it as it does an A-tile's read. The answer of another module's home is
open (DESIGN CHOICE, log entry 35). -/
def packetStream (s : State) (n : Nat) (r : Run) (va : Nat) : PacketRead :=
  let p := partOf r.rc.inst
  let k := streamNo va
  let o := streamOff va
  match s.stream p k with
  | none => .bad s cACCESS k
  | some x =>
    let res (s : State) (c v : Nat) : PacketRead :=
      if c = 0 then .ok s v else .bad s c (if c = cLOST then x.addr o else k) (answerWords c v)
    if noKey s p x.fbase then .stay (askAgain s p)
    else match r.qread with
    | some op => (match takeServed s p op with
      | some (s, c, v) => res s c v
      | none => if inWaits s p op then .stay s else .stay (s.setRun n (some { r with qread := none })))
    | none =>
      if s.shut (x.addr o) 64 then .stay s
      else if s.remoteStream x && (streamDown s p x).isNone then
        match askStream s p k (occOf r.rc.inst) o x (.read 64) with
        | none => .stay s
        | some s =>
          let f := s.free
          if answerCode (f.1 / 2 ^ 512 % 2 ^ 64) then res f.2 (f.1 / 2 ^ 512 % 2 ^ 64) (f.1 / 2 ^ 576) else .ok f.2 (f.1 % 2 ^ 512)
      else
        let f := s.fresh
        let w : StreamWait := { op := f.1, since := s.cyc, tile := true, occ := occOf r.rc.inst, off := o, n := 64 }
        match tileServe s p k w with
        | some (s, c, v) => res s c v
        | none => .stay ((addWait f.2 p k w).setRun n (some { r with qread := some f.1 }))
/-- QPOST's read through ordinary space, at the home of its address: for want of a pod key it asks for it again and waits
(R37). -/
def packetMemory (s : State) (p core va ga : Nat) (pg : Option Page) : PacketRead :=
  if s.shut ga 64 then .stay s
  else if noKey s p ga then .stay (askAgain s p)
  else if stashBad s p pg then .bad s cACCESS ga
  else match s.depart p ga (.read ga 64) with
  | none => .stay s
  | some s => match readAt s p ga 64 with
    | .error c => .bad s c ga
    | .ok v => .ok (touch s (some core) p va ga false false .normal pg) v
/-- QPOST (R141): the packet is read once the run's earlier accesses are performed, and joins the
VF's child queue; the posting instance gains the child. -/
def execQpost (a b : Reg) (s : State) : Out :=
  onRun s fun n r =>
    let va := r.get a
    let vf := (r.get b).toNat
    let p := partOf r.rc.inst
    if va.toNat % 64 ≠ 0 then .next (trap s n r cALIGN va)
    else match getT s.vfs vf with
    | none => .next (trap s n r cACCESS va)
    | some v =>
      if v.part ≠ p then .next (trap s n r cACCESS va)
      else match accessAddr s r va 64 true false with
      | .error e => .next (trap (missed s n r va e.1) n r e.1 va e.2)
      | .ok (ga, pg) =>
        if !r.drained || decide (63 ≤ r.cpc) || decide (256 ≤ v.kids.length) then stall s
        else match (if isStream va then packetStream s n r va.toNat else packetMemory s p n va.toNat ga pg) with
        | .stay s => .next s
        | .bad s c d ext =>
          let f : FaultRec := { runFault s n r c va d with defer := decide (c = cSTALL), ext := ext }
          .next (s.setRun n (some { r with qread := none, ending := some (.trap f) }))
        | .ok s m =>
          let pk := { mkPacket (wordsN 8 m) vf true with parent := r.rc.inst }
          let s := looked s n r pg
          let s1 := { s with vfs := putT s.vfs vf { v with kids := v.kids ++ [pk] } }
          .next (retire (s1.modInst (keyOf r.rc.inst) fun i => { i with kids := i.kids + 1 }) n { r with qread := none })

end Sys2Proof.Machine
end

