-- ==== Sys2Proof/Machine/Edge.lean ====
section
/-!
DEFINITION. How A-tiles reach memory and streams (R284, R312, R323, R332): reads, writes and
read-modify-writes of byte ranges with their page faults, full-empty marking (R324), and the engine
generator of an A-tile (R318).
-/
namespace Sys2Proof.Machine

/-- What becomes of an A-tile's access: performed with a value, a fault with its detail and the words of a STREAM_STALL
record, a PAGE fault with the missing level, or nothing yet. -/
inductive Acc where
  | ok (s : State) (v : Nat)
  | bad (s : State) (code detail : Nat) (ext : List Word := [])
  | page (s : State) (level : Nat)
  | stay (s : State)

/-- The global addresses of a byte range, with their lengths: ranges of A-tiles lie in one page or in
two. -/
def pieces (x : Part) (va n : Nat) (rd wr : Bool) : Except (Nat × Nat) (List (Nat × Nat × Page)) :=
  match translate x va rd wr with
  | .error e => .error e
  | .ok (ga, q) =>
    if n ≤ q.va + q.size - va then .ok [(ga, n, q)]
    else match translate x (q.va + q.size) rd wr with
      | .error e => .error e
      | .ok (ga', q') => .ok [(ga, q.va + q.size - va, q), (ga', n - (q.va + q.size - va), q')]
/-- RED's combination of a destination with a source element (R319). -/
def redOp2 (op d x : Nat) : Nat :=
  match op with
  | 0 => (d + x) % 2 ^ 64
  | 1 => f32Add d x
  | 2 => (fwAdd .rne (BitVec.ofNat 48 d) (BitVec.ofNat 48 x)).toNat
  | 3 => max d x
  | 4 => min d x
  | 5 => d &&& x
  | 6 => d ||| x
  | 7 => d ^^^ x
  | _ => f16Add d x

/-- The cache effects of an A-tile's access at the home (R127, R268, R355, R370). -/
def edgeTouch (s : State) (p va ga n : Nat) (write rmw : Bool) (q : Page) : State := touchRange s p va ga n write rmw (some q)
/-- The translations that an A-tile's access uses, up to the first that refuses it (R328). -/
def edgeLooks (s : State) (x : Part) (at_ p va n : Nat) (rd wr : Bool) : State :=
  match findPage x.pages va with
  | none => s
  | some q =>
    let s := utlbLook s at_ p q
    if (rd && !q.r) || (wr && !q.w) || decide (n ≤ q.va + q.size - va) then s
    else match findPage x.pages (q.va + q.size) with
      | some q => utlbLook s at_ p q
      | none => s
/-- Reads bytes through a die's fabric cache, line by line (R279); the first argument bounds the lines. -/
def fabReads (p die : Nat) (gone : Bool) : Nat → State → Nat → Nat → Option (State × Except Nat Nat)
  | 0, s, _, _ => some (s, .ok 0)
  | k + 1, s, ga, n =>
    if n = 0 then some (s, .ok 0)
    else
      let m := min n (128 - ga % 128)
      match fabRead s p die ga m gone with
      | some (s, .ok v) => (match fabReads p die gone k s (ga + m) (n - m) with
        | some (s, .ok w) => some (s, .ok (v + 2 ^ (8 * m) * w))
        | r => r)
      | r => r
/-- Reads one piece at its home: through a page that lets it, from the fabric cache of the A-tile's die (R279). -/
def readPiece (s : State) (p va at_ : Nat) (gone : Bool) (ga n : Nat) (q : Page) : Option (State × Except Nat Nat) :=
  if stashBad s p (some q) then some (s, .error cACCESS)
  else if fabricPage s (some q) then fabReads p (edgeDie at_) gone ((ga % 128 + n + 127) / 128) s ga n
  else (s.depart p ga (.read ga n)).map fun s =>
    match readAt s p ga n with
    | .error c => (s, .error c)
    | .ok v => (edgeTouch s p va ga n false false q, .ok v)
/-- Reads pieces, lowest first. -/
def readPieces (s : State) (p va at_ : Nat) (gone : Bool) : List (Nat × Nat × Page) → Acc
  | [] => .ok s 0
  | (ga, n, q) :: l =>
    match readPiece s p va at_ gone ga n q with
    | none => .stay s
    | some (s, .error c) => .bad s c ga
    | some (s, .ok v) => match readPieces s p (va + n) at_ gone l with
      | .ok s w => .ok s (v + 2 ^ (8 * n) * w)
      | r => r
/-- The words that a write makes full, as a bit map counted from the word of its address (R324). -/
def fullMap (va n : Nat) (fe : Nat → Bool) : Nat :=
  ((List.range ((va % 8 + n + 7) / 8)).filter fun j => fe ((va / 8 + j) * 8)).foldl (fun a j => a + 2 ^ j) 0
/-- Writes one piece where a mask is set; one that writes every byte reads none (R269), nor does one whose token is
dropped (R337). `fe` says which words it makes full, where another module is their home (R324). -/
def writePiece (s : State) (p va : Nat) (ga n v m : Nat) (q : Page) (fe : Nat → Bool) : Acc :=
  if stashBad s p (some q) then .bad s cACCESS ga
  else match (if m = 2 ^ (8 * n) - 1 ∨ remoteDrop s p ga = true then .ok 0 else readAt s p ga n) with
  | .error c => .bad s c ga
  | .ok old => match s.depart p ga (.write ga n v m (if gaKind ga = 0 then fullMap va n fe else 0)) with
    | none => .stay s
    | some s => match writeAt s p ga (toBytes n (merge m v old)) with
      | .error c => .bad s c ga
      | .ok s => .ok (edgeTouch s p va ga n true false q) 0
/-- Writes pieces, lowest first. -/
def writePieces (s : State) (p va v m : Nat) (fe : Nat → Bool) : List (Nat × Nat × Page) → Acc
  | [] => .ok s 0
  | (ga, n, q) :: l =>
    match writePiece s p va ga n (v % 2 ^ (8 * n)) (m % 2 ^ (8 * n)) q fe with
    | .ok s _ => writePieces s p (va + n) (v / 2 ^ (8 * n)) (m / 2 ^ (8 * n)) fe l
    | r => r

/-- The detail of a stream's fault: the address of a lost range, else the stream (R380, R386). -/
def streamDetail (s : State) (p va c : Nat) : Nat :=
  match s.stream p (streamNo va) with
  | some x => if c = cLOST then x.addr (streamOff va) else streamNo va
  | none => streamNo va
/-- An A-tile's access at its stream (R284, R290 to R292, R299): refused where it leaves its frame, else examined
at the home, or sent to it on another module; it enters the wait list, or is held while that is full. -/
def edgeStream (s : State) (p op occ va n : Nat) (data : Option (Nat × Nat)) (w : Stream) (eng : Bool) : Acc :=
  let o := streamOff va
  if o / 2 ^ w.f ≠ (o + n - 1) / 2 ^ w.f then .bad s cALIGN 0
  else
    let a : StreamWait := { op := op, since := s.cyc, tile := true, occ := occ, off := o, n := n, data := data }
    let req : LlStream := match data with | none => .read n | some (v, m) => .store n v m
    if noKey s p w.fbase then .stay (askAgain s p)
    else if eng && s.shut (w.addr o) n then .stay s
    else if s.remoteStream w && (streamDown s p w).isNone then
      match askStream s p (streamNo va) occ o w req with
      | some s => .stay (s.modPart p fun x => { x with streams := putT x.streams (streamNo va) { w with waits := w.waits ++ [a] } })
      | none => .stay s
    else match tileServe s p (streamNo va) a with
    | some (s, c, v) => if c = 0 then .ok s v else .bad s c (streamDetail s p va c)
    | none => .stay (addWait s p (streamNo va) a)

/-- An access of an A-tile for occupant `occ`: a read, or a write of a value under a mask (R284, R290,
R291, R323, R332). `at_` names the A-tile, and `op` the access at a stream's home; `gone` says that the fabric cache has
replaced the line, `eng` that a command's element issues its access only now, so that a flip holds it (R128), and `fe` which
words on another module a write makes full (R324). -/
def edgeAccess (s : State) (p at_ op occ va n : Nat) (data : Option (Nat × Nat)) (gone : Bool := false) (eng : Bool := false)
    (fe : Nat → Bool := fun _ => false) : Acc :=
  match takeServed s p op with
  | some (s, c, v) => if c = 0 then .ok s v else .bad s c (streamDetail s p va c) (answerWords c v)
  | none =>
    if inWaits s p op then .stay s
    else if n = 0 then .ok s 0
    else match s.part p with
    | none => .bad s cACCESS 0
    | some x =>
      if bit va 63 then
        match x.stream (streamNo va) with
        | none => .bad s cACCESS (streamNo va)
        | some w => edgeStream s p op occ va n data w eng
      else if nonCanonical va then .bad s cACCESS 0
      else match pieces x va n data.isNone data.isSome with
      | .error (c, d) =>
        let s := edgeLooks s x at_ p va n data.isNone data.isSome
        if c = cPAGE then .page s d else .bad s c d
      | .ok l =>
        if l.any fun g => if eng then s.shut g.1 g.2.1 else s.opShut op g.1 g.2.1 then .stay s
        else if l.any fun g => noKey s p g.1 then .stay (askAgain s p)
        else
          let s := edgeLooks s x at_ p va n data.isNone data.isSome
          match data with
          | none => readPieces s p va at_ gone l
          | some (v, m) => writePieces s p va v m fe l

/-- RED's read-modify-write of an element at its home (R319, R335, R370). -/
def edgeRmw (s : State) (p at_ va n red data : Nat) : Acc :=
  match s.part p with
  | none => .bad s cACCESS 0
  | some x =>
    if bit va 63 then .bad s cACCESS (streamNo va)
    else if nonCanonical va then .bad s cACCESS 0
    else match translate x va true true with
    | .error (c, d) =>
      let s := edgeLooks s x at_ p va n true true
      if c = cPAGE then .page s d else .bad s c d
    | .ok (ga, q) =>
      if gaKind ga < 3 ∧ s.shut ga n = true then .stay s
      else if noKey s p ga then .stay (askAgain s p)
      else
        let s := edgeLooks s x at_ p va n true true
        if 3 ≤ gaKind ga then .bad s cACCESS ga else
        if stashBad s p (some q) then .bad s cACCESS ga
        else match s.depart p ga (.red red ga n data) with
        | none => .stay s
        | some s => match readAt s p ga n with
          | .error c => .bad s c ga
          | .ok old => match writeAt s p ga (toBytes n (redOp2 red old data)) with
            | .error c => .bad s c ga
            | .ok s => .ok (edgeTouch s p va ga n true true q) 0

/-- Sets the full-empty bits of the words of kinds 0 and 2 in a range that nothing more of the writer
meets (R324). -/
def markFull (s : State) (p va n : Nat) (more : Nat → Bool) : State :=
  if bit va 63 then s
  else (List.range ((va % 8 + n + 7) / 8)).foldl (fun s j =>
    let a := (va / 8 + j) * 8
    if more a then s
    else match s.part p with
    | none => s
    | some x => match translate x a false true with
      | .ok (ga, _) => if gaKind ga = 0 ∨ gaKind ga = 2 then fill s p ga else s
      | .error _ => s) s

/-- An A-tile by side × 128 + module row, from its instance and its tile key. -/
def State.edgeAt (s : State) (k tk : Nat) : Nat :=
  (tk % 128 - 0x40) * 128 + match s.inst k with
    | some i => i.y0 + tk / 128
    | none => 0
/-- The key of a partition's engine generators (R37, R318), of the key that encrypts its slices (log entry 56). -/
def Part.srKey (x : Part) : Nat := Config.hkdf x.key [0x53, 0x52, 0x47, 0x45, 0x4E] % 2 ^ 64
/-- The low 32 bits of the 64 random words of a token of an A-tile's engine generator (R318): `at_` is
side × 2^7 + module row. -/
def srToken (s : State) (p at_ n : Nat) : List Nat :=
  match s.part p with
  | none => List.replicate 64 0
  | some x => (philoxToken x.srKey ((at_ * 2 ^ 96 + 16 * n) % 2 ^ 128)).toList.map fun w => w.toNat % 2 ^ 32
/-- A command takes the tokens of random words that its elements need (R318): the first, and the state. -/
def srTake (s : State) (p at_ n : Nat) : Nat × State :=
  match s.part p with
  | none => (0, s)
  | some x => (getTD x.srCtr at_ 0, s.setPart p { x with srCtr := putT x.srCtr at_ (getTD x.srCtr at_ 0 + n) })

/-- The most entries of an A-tile's eddy queue (R332). -/
def eddyMax : Nat := 64
/-- The fault record of a PAGE fault that an A-tile diverts (R332, R380). -/
def pageRecord (s : State) (num src unit widx core y x va level : Nat) : FaultRec :=
  { inst := num, code := cPAGE, src := src, unit := unit, widx := widx, core := core, y := y, x := x, addr := va
    cyc := s.cyc, detail := level }
/-- Posts that record, unless PAGE is masked, and counts the elements (R325, R332, R383). -/
def postPage (s : State) (p : Nat) (f : FaultRec) (n : Nat) : State :=
  let s := s.count p 3 n
  match s.part p with
  | some x => if bit x.fmask cPAGE then s else post s p { fr := f }
  | none => s

end Sys2Proof.Machine
end

