-- ==== Sys2Proof/Machine/Commands.lean ====
section
/-!
DEFINITION. Engine commands at their A-tile (R250, R252, R317 to R324, R332): acceptance, the movement
of elements, panel fills and drains, and completion. Each turn of a command moves one part: one element
read, one chunk written.
-/
namespace Sys2Proof.Machine

/-! ### Elements -/

/-- Whether a base is misaligned to its elements (R312). -/
def Cmd.misaligned (c : Cmd) (dst : Bool) : Bool := decide (8 ≤ c.bits dst) && decide (c.base dst % (c.bits dst / 8) ≠ 0)
/-- Whether elements move unchanged (R318). -/
def Cmd.same (c : Cmd) : Bool := decide (c.sfmt = c.dfmt) && (decide (c.op = eCPY) || c.indexed)
/-- The elements of row r that are written together with the one of a column (R284, R318, R321): a panel row, a row of a
stream, what the row writes into one block, or the element alone; the first column, and how many. -/
def Cmd.group (c : Cmd) (r : Nat) (idx : Option Int) (col : Nat) : Nat × Nat :=
  if c.op = ePLD ∨ c.stream true = true then (0, c.rlen)
  else if c.block true then
    let e := c.rowElem true r (idx.getD r)
    let lo := (max 0 ((e + col) / 32 * 32 - e)).toNat
    (lo, min c.rlen (((e + col) / 32 * 32 + 32 - e).toNat) - lo)
  else (col, 1)
/-- Whether every element has begun to move. -/
def Cmd.fin (c : Cmd) : Bool := decide (c.rlen = 0) || decide (c.nrows ≤ c.r)
/-- The next element to move, after n more. -/
def Cmd.adv (c : Cmd) (n : Nat) : Cmd :=
  if c.c + n < c.rlen then { c with c := c.c + n } else { c with r := c.r + 1, c := 0, idx := none, srow := none }
/-- Whether nothing of a command moves, waits to be gathered or is replayed. -/
def Cmd.still (c : Cmd) : Bool := c.chunk.isNone && c.back.isEmpty && c.gather.isEmpty

/-- Element j of a chunk as a fabric word or integer lane (R318). -/
def Chunk.x (k : Chunk) (c : Cmd) (j : Nat) : FW :=
  let v := k.codes.getD j 0
  if c.op = eSOUT ∨ c.op = ePDR then BitVec.ofNat 48 v
  else match fmtOf c.sfmt with
    | none => 0
    | some f => if c.raw then loadRaw f v else loadElem f (k.scales.getD j 0) v
/-- The store rounding of element j (R72, R89). -/
def Chunk.mode (k : Chunk) (c : Cmd) (j : Nat) : SMode :=
  match c.rnd_ with
  | 0 => .det .rne
  | 1 => .det .rz
  | 2 => .det .rd
  | 3 => .det .ru
  | _ => .sr (k.rnd.getD j 0)
/-- The block of element j of a chunk on the destination side. -/
def Chunk.block (k : Chunk) (c : Cmd) (j : Nat) : Int := (k.elem c true + j) / 32
/-- The scale byte of a block, chosen from the chunk's elements in it (R69, R318). -/
def Chunk.scale (k : Chunk) (c : Cmd) (f : Fmt) (b : Int) : Nat :=
  chooseScale f c.tbt (((List.range k.n).filter fun j => decide (k.block c j = b)).map (k.x c))
/-- Element j as it is stored (R66 to R69, R318). SOUT in the raw view writes the whole token to INT64 or UINT64, as R318 reads
it, and not its low 48 bits extended (DESIGN CHOICE, log entry 23). -/
def Chunk.stored (k : Chunk) (c : Cmd) (j : Nat) : Stored :=
  match fmtOf c.dfmt with
  | none => ⟨0, false, false⟩
  | some f =>
    if c.same then ⟨k.codes.getD j 0, false, false⟩
    else if c.raw then ⟨if c.op = eSOUT then k.codes.getD j 0 % 2 ^ f.bits else storeRaw f (k.x c j), false, false⟩
    else if f.block then storeBlockElem f (k.scale c f (k.block c j)) (k.mode c j) (k.x c j)
    else storeElem f (k.mode c j) (k.x c j)
/-- The codes of a chunk as one number. -/
def Chunk.codesNat (l : List Nat) (bits : Nat) : Nat := l.foldr (fun v a => v + a * 2 ^ bits) 0
/-- Codes cut from the bytes of a range. -/
def cutCodes (v sh bits n : Nat) : List Nat := (List.range n).map fun j => v / 2 ^ (sh + j * bits) % 2 ^ bits

/-! ### The A-tile and its eddy queue -/

/-- Whether an eddy entry is of a command. -/
def Eddy.ofCmd (id : Nat) : Eddy → Bool
  | .cmd j _ _ _ => decide (j = id)
  | .pat _ _ _ => false
/-- Whether an eddy entry is the one of a number. -/
def Eddy.numbered (n : Nat) : Eddy → Bool
  | .cmd _ e _ _ => decide (e = n)
  | .pat _ _ _ => false
/-- Whether an entry is retried now. -/
def Eddy.ready : Eddy → Bool
  | .cmd _ _ _ r => r
  | .pat _ _ r => r
/-- The entry and the elements of a command that an A-tile replays next: the entries that are retried go in the order they
entered (R333). -/
def readyCmd (id : Nat) (l : List Eddy) : Option (Nat × Chunk) :=
  match l.find? Eddy.ready with
  | some (.cmd j e k _) => if j = id then some (e, k) else none
  | _ => none
/-- The command with a set of moving elements changed: those being replayed stand beside the others. -/
def Cmd.keep (c : Cmd) (k : Chunk) (o : Option Chunk) : Cmd :=
  if k.redo then { c with back := o.toList ++ c.back.drop 1 } else { c with chunk := o }
/-- The number of a command's access at a stream's home. -/
def Cmd.op_ (c : Cmd) (k : Chunk) : Nat := if k.redo then c.id + 2 ^ 48 else c.id

/-- Whether one place of a command comes before another (R318): the row, then the column. -/
def placeBefore (a b : Nat × Nat) : Bool := decide (a.1 < b.1) || (decide (a.1 = b.1) && decide (a.2 < b.2))
/-- Whether elements that come before a place stand in the way of an access of its element (R191, R320, R332): it overlaps
what they will write, or, where it writes, what they will read, or the access at which they were diverted. -/
def Chunk.blocks (k : Chunk) (c : Cmd) (s : State) (at_ : Nat × Nat) (write : Bool) (va n : Nat) : Bool :=
  if k.outs.isEmpty then
    placeBefore (k.r, k.c) at_ && (k.meets c s true va n || (write && k.meets c s false va n) ||
      (c.next k).any fun a => sharesByte s c.part (a.1 : Nat) a.2 va n)
  else k.outs.any fun o => placeBefore (k.r, o.c) at_ && sharesByte s c.part (o.va : Nat) o.n va n
/-- Whether a group that an element is not of, but comes after, stands in its way. -/
def Gather.blocks (g : Gather) (c : Cmd) (s : State) (at_ : Nat × Nat) (va n : Nat) : Bool :=
  placeBefore (g.r, g.c) at_ && !(decide (g.r = at_.1) && decide (at_.2 < g.c + g.n)) && g.meets c s va n
/-- Whether a command's access, of the element at a place, waits for another: an earlier access of its run, an earlier
command of its A-tile, or an earlier element of its own, that overlaps it (R191, R320, R322, R332). -/
def cmdWaits (s : State) (c : Cmd) (at_ : Nat × Nat) (write : Bool) (va n : Nat) : Bool :=
  (s.pends.any fun q => decide (q.rid = c.rid) && decide (q.core = c.core) && decide (q.id < c.id) && q.act.mem && q.st.open_ && q.touches s va n) ||
  ((s.cmds.takeWhile fun d => decide (d.id ≠ c.id)).any fun d =>
      d.acc && decide (d.key = c.key) && decide (d.pos = c.pos) && d.st.open_ && d.touches s va n) ||
  ((c.moving s).any fun k => k.blocks c s at_ write va n) || c.gather.any fun g => g.blocks c s at_ va n

/-- Stops a command with a fault (R323): nothing of it is written any more, be it diverted or waiting at a stream's home,
and a PLD whose reservation has reached its slot empties it. -/
def stopAt (s : State) (c : Cmd) (code va detail : Nat) (ext : List Word := []) : State :=
  let s := s.modTile c.key c.pos fun t => { t with eddy := t.eddy.filter fun e => !e.ofCmd c.id }
  let s := if c.op = ePLD ∧ c.resv = true then
      s.modTile c.key c.target.1 fun t => t.setPanel c.target.2 { t.panel c.target.2 with st := .empty, cnt := 0 }
    else s
  stopCmd (leaveStreams (leaveStreams s c.part c.id) c.part (c.id + 2 ^ 48)) c code va detail ext

/-- Diverts elements to the eddy queue (R332, R333), or the one write `part` of theirs, where the others go on: a replay
that still raises PAGE stays in its place and posts no further record; with a full queue the command stalls at the access. -/
def divert (s : State) (c : Cmd) (t : Tile) (k part : Chunk) (rest : Option Chunk) (va level : Nat) : State :=
  let part : Chunk := { part with redo := false, inq := none }
  match k.inq with
  | some e =>
    ((s.walk c.part).modTile c.key c.pos fun t => { t with eddy := updFirst (fun x => x.numbered e) (fun _ => .cmd c.id e part false) t.eddy }).setCmd (c.keep k none)
  | none =>
    if eddyMax ≤ t.eddy.length then s
    else
      let f := s.fresh
      let s := (f.2.walk c.part).modTile c.key c.pos fun t => { t with eddy := t.eddy ++ [.cmd c.id f.1 part false] }
      postPage (s.setCmd (c.keep k rest)) c.part { cmdFault s c cPAGE va level with defer := false } part.n

/-- Goes on with an access of a chunk: its value, a fault, a diversion of `part`, or nothing yet. A replay whose access
translates leaves the queue. -/
def Acc.then (a : Acc) (c : Cmd) (t : Tile) (k part : Chunk) (rest : Option Chunk) (va : Nat) (f : State → Chunk → Nat → State) : State :=
  match a with
  | .ok s v =>
    let s := match k.inq with
      | some e => s.modTile c.key c.pos fun t => { t with eddy := delFirst (fun x => x.numbered e) t.eddy }
      | none => s
    f s { k with inq := none } v
  | .bad s code d ext => stopAt s c code va d ext
  | .page s l => divert s c t k part rest va l
  | .stay s => s

/-! ### Ports of the issuing core (R204 to R206) -/

/-- The port files that a command names. -/
def State.cmdPorts (s : State) (c : Cmd) : PortFile := getTD (s.core c.core).ports (occOf c.num) {}
/-- Replaces them. -/
def State.setCmdPorts (s : State) (c : Cmd) (f : PortFile) : State :=
  s.setCore c.core { s.core c.core with ports := putT (s.core c.core).ports (occOf c.num) f }

/-! ### Movement -/

/-- The key of the tile that makes a command's accesses, as `edgeAccess` names it. -/
def State.edgeOf (s : State) (c : Cmd) : Nat := s.edgeAt c.key c.pos
/-- Reads a row of a stream source as one access (R284). -/
def readRow (s : State) (c : Cmd) (t : Tile) : State :=
  let e := c.rowElem false c.r (c.idx.getD c.r)
  let p := c.place false e c.rlen
  let k : Chunk := { r := c.r, c := 0, n := c.rlen, idx := c.idx }
  if c.misaligned false then stopAt s c cALIGN p.1 0
  else if cmdWaits s c (c.r, 0) false p.1 p.2.1 then s
  else (edgeAccess s c.part (s.edgeOf c) c.id (occOf c.num) p.1 p.2.1 none false true).then c t k k none p.1 fun s _ v =>
    s.setCmd { c with srow := some (cutCodes v p.2.2 (c.bits false) c.rlen) }

/-- Takes the span of a CURS command from its slot's cursor (R318), at the home, be that on another module (R299). -/
def takeCursor (s : State) (c : Cmd) : State :=
  let va := c.src.toNat
  let n := streamNo va
  let span := (((c.nrows : Int) - 1) * c.spitch + c.rlen).toNat
  let b := (span * c.bits false + 7) / 8
  if bit va 63 = false ∨ c.spitch < 0 then stopAt s c cACCESS va 0
  else match takeServed s c.part c.id with
  | some (s, e, v) => if e = 0 then s.setCmd { c with cur := some v } else stopAt s c e va (streamDetail s c.part va e)
  | none =>
    if inWaits s c.part c.id then s
    else match s.stream c.part n with
    | none => stopAt s c cACCESS va n
    | some x => match streamDown s c.part x with
      | some e => stopAt s c e va (streamDetail s c.part va e)
      | none =>
        if streamOut s c.part x then s
        else if noKey s c.part x.fbase then askAgain s c.part
        else if s.remoteStream x then
          (match askStream s c.part n (occOf c.num) (streamOff va) x (.span b) with
           | some s => s.setStream c.part n { x with waits := x.waits ++ [{ op := c.id, since := s.cyc, tile := true, occ := occOf c.num, off := streamOff va }] }
           | none => s)
        else match x.reserve (occOf c.num) b with
        | .error e => stopAt s c e va n
        | .ok y => (s.setStream c.part n (x.after y.1 s.cyc)).setCmd { c with cur := some y.2 }

/-- PDR reads its slot (R249, R321): the slot is DRAINING from the first row to the last. -/
def drain (s : State) (c : Cmd) : State :=
  match s.inst c.key with
  | none => s
  | some i => match getT i.tiles c.target.1 with
    | none => s
    | some t =>
      if c.resv then
        (s.modTile c.key c.target.1 fun t => t.setPanel c.target.2 { t.panel c.target.2 with st := .ready }).setCmd
          { c with rows := (List.range 64).map fun r => (r, getTD (t.panel c.target.2).rows r zeroLanes) }
      else if t.acted || !t.woken then s
      else match t.readable [c.target.2] with
        | .bad d => stopAt s c cPANEL 0 d
        | .wait => s
        | .go => (s.modTile c.key c.target.1 fun t => t.setPanel c.target.2 { t.panel c.target.2 with st := .draining }).setCmd { c with resv := true }

/-- The element that moves next becomes the chunk (R318). -/
def startChunk (s : State) (c : Cmd) : State :=
  let row : List Nat := if c.op = ePDR then
      (match c.rows.find? fun x => decide (x.1 = c.r) with | some x => x.2.toList.map (·.toNat) | none => [])
    else c.srow.getD []
  s.setCmd { c.adv 1 with chunk := some { r := c.r, c := c.c, n := 1, idx := c.idx, codes := (row.drop c.c).take 1 } }

/-- The next part of a chunk's source: its index entry, a code or the row of a stream, or a scale byte; elements that were
diverted together then move one by one; none when it is complete (R284, R318, R320). -/
def readStep (s : State) (c : Cmd) (t : Tile) (k : Chunk) : Option State :=
  let go (va n : Nat) (f : State → Chunk → Nat → State) : State :=
    if cmdWaits s c (k.r, k.c) false va n then s
    else (edgeAccess s c.part (s.edgeOf c) (c.op_ k) (occOf c.num) va n none (decide (s.arg 1 % 2 = 1)) true).then c t k k none va f
  let put (s : State) (k' : Chunk) : State := s.setCmd (c.keep k (some k'))
  if c.indexed && k.idx.isNone then
    let va := c.idxVa k.r
    some (if va % 8 ≠ 0 then stopAt s c cALIGN va 0 else go va 8 fun s k v => put s { k with idx := some (sx 64 v) })
  else if c.stream false && decide (k.codes.length < k.n) then
    let p := c.place false (k.elem c false) k.n
    some (if c.misaligned false then stopAt s c cALIGN p.1 0
      else go p.1 p.2.1 fun s k v => put s { k with codes := cutCodes v p.2.2 (c.bits false) k.n })
  else if !k.whole && decide (1 < k.n) then
    let first : Chunk := { k with n := 1, codes := k.codes.take 1, redo := true }
    let rest : Chunk := { k with c := k.c + 1, n := k.n - 1, codes := k.codes.drop 1, redo := true }
    some (s.setCmd { c with back := first :: rest :: c.back.drop 1 })
  else if k.codes.length < k.n then
    if c.op = eSOUT then
      let f := s.cmdPorts c
      match getTD f.vs c.port [] with
      | [] => some s
      | x :: q => some (put (s.setCmdPorts c { f with vs := putT f.vs c.port q }) { k with codes := k.codes ++ [x.toNat] })
    else
      let p := c.place false (k.elem c false) 1
      some (if c.misaligned false then stopAt s c cALIGN p.1 0
        else go p.1 p.2.1 fun s k v => put s { k with codes := cutCodes v p.2.2 (c.bits false) 1 })
  else if !k.whole && c.block false && decide (k.scales.length < k.n) then
    some (go (c.scaleVa (k.elem c false / 32)) 1 fun s k v => put s { k with scales := [v] })
  else none

/-- An element whose source is complete joins its group, which moves on once every element of it is there. -/
def join (s : State) (c : Cmd) (k : Chunk) : State :=
  let g := c.group k.r k.idx k.c
  if g.2 ≤ 1 then s.setCmd (c.keep k (some { k with whole := true }))
  else
    let mine (x : Gather) : Bool := decide (x.r = k.r) && decide (x.c = g.1)
    let o := (c.gather.find? mine).getD { r := k.r, c := g.1, n := g.2, idx := k.idx }
    let o := { o with vals := putT o.vals k.c (k.codes.getD 0 0, k.scales.getD 0 0) }
    let others := c.gather.filter fun x => !mine x
    if o.vals.length < o.n then s.setCmd { c.keep k none with gather := others ++ [o] }
    else
      let all : Chunk := { r := o.r, c := o.c, n := o.n, idx := o.idx, codes := o.vals.map fun v => v.2.1, scales := o.vals.map fun v => v.2.2,
                           whole := true, redo := k.redo }
      s.setCmd { c.keep k (some all) with gather := others }

/-- The token that SIN delivers for an element (R318); the top bits of a raw token are open (DESIGN CHOICE, log entry
23). -/
def sinToken (s : State) (c : Cmd) (k : Chunk) : Word × State :=
  if c.raw then
    let f := s.free
    (BitVec.ofNat 64 ((k.x c 0).toNat + f.1 % 2 ^ 16 * 2 ^ 48), f.2)
  else ((k.x c 0).setWidth 64, s)

/-- SIN delivers its element to a vk port that has room, or to an accumulator (R206, R318). -/
def deliver (s : State) (c : Cmd) (k : Chunk) : State :=
  let x := sinToken s c k
  let s1 := x.2
  let f := s1.cmdPorts c
  if c.flag then (s1.setCmdPorts c { f with ac := putT f.ac c.port ((getTD f.ac c.port {}).add x.1) }).setCmd (c.keep k none)
  else if (getTD f.vk c.port []).length < 16 then
    (s1.setCmdPorts c { f with vk := putT f.vk c.port (getTD f.vk c.port [] ++ [x.1]) }).setCmd (c.keep k none)
  else s

/-- Whether a command writes a word again after a write of a chunk of which some writes are left (R324). -/
def Cmd.more (c : Cmd) (s : State) (k : Chunk) (left : List Put) (a : Nat) : Bool :=
  let mine (x : Chunk) : Bool := if k.redo then decide (c.back.head? = some x) else decide (c.chunk = some x)
  let queued := match s.cmdTile c with
    | some t => ofCmd c.id (t.eddy.filter fun e => match k.inq with | some n => !e.numbered n | none => true)
    | none => []
  c.restMeets s true a 8 || (left.any fun o => sharesByte s c.part (o.va : Nat) o.n a 8) || (c.gather.any fun g => g.meets c s a 8) ||
    (((c.chunk.toList ++ c.back).filter fun x => !mine x) ++ queued).any fun x => x.meets c s true a 8

/-- The elements of a chunk are converted (R66 to R69, R318): the writes to make, first of their codes, of a row of a stream
as one, then of the scale bytes of their blocks; saturations and NaNs are counted (R325). -/
def convert (s : State) (c : Cmd) (k : Chunk) : State :=
  let e := k.elem c true
  let st := (List.range k.n).map (k.stored c)
  let b := c.bits true
  let code (j n : Nat) : Put :=
    let p := c.place true (e + j) n
    { c := k.c + j, va := p.1, n := p.2.1, v := Chunk.codesNat (((st.drop j).take n).map (·.code)) b * 2 ^ p.2.2, m := (2 ^ (n * b) - 1) * 2 ^ p.2.2 }
  let codes := if c.stream true then [code 0 k.n] else (List.range k.n).map fun j => code j 1
  let nb := if c.block true then ((e + k.n - 1) / 32 - e / 32 + 1).toNat else 0
  let scales : List Put := (List.range nb).map fun j =>
    let x : Int := e / 32 + (j : Nat)
    { c := k.c, va := c.scaleVa x, n := 1, v := (match fmtOf c.dfmt with | some f => k.scale c f x | none => 0), m := 255 }
  if c.misaligned true then stopAt s c cALIGN (code 0 1).va 0
  else ((s.count c.part 1 (st.countP fun x => x.sat)).count c.part 2 (st.countP fun x => x.nan0)).setCmd
    (c.keep k (some { k with outs := codes ++ scales }))

/-- A chunk makes the first of its writes that nothing stands in the way of (R318, R324, R332). -/
def writeStep (s : State) (c : Cmd) (t : Tile) (k : Chunk) : State :=
  match k.outs.find? fun o => !cmdWaits s c (k.r, o.c) true o.va o.n with
  | none => s
  | some o =>
    let left := delFirst (fun x => decide (x = o)) k.outs
    let rest : Option Chunk := if left.isEmpty then none else some { k with outs := left }
    let last (a : Nat) : Bool := !c.flag && !c.more s k left a
    (edgeAccess s c.part (s.edgeOf c) (c.op_ k) (occOf c.num) o.va o.n (some (o.v, o.m)) false true last).then c t k
      { k with c := o.c, n := 1, outs := [o] } rest o.va fun s k _ =>
        (if c.flag then s else markFull s c.part o.va o.n fun a => !last a).setCmd (c.keep k (if left.isEmpty then none else some { k with outs := left }))

/-- RED combines an element at its home (R319). -/
def reduceStep (s : State) (c : Cmd) (t : Tile) (k : Chunk) : State :=
  let p := c.place true (k.elem c true) 1
  if c.misaligned true then stopAt s c cALIGN p.1 0
  else if cmdWaits s c (k.r, k.c) true p.1 p.2.1 then s
  else (edgeRmw s c.part (s.edgeOf c) p.1 p.2.1 c.port (k.codes.getD 0 0)).then c t k k none p.1 fun s k _ => s.setCmd (c.keep k none)

/-- Whether a command draws random words (R318). -/
def Cmd.draws (c : Cmd) : Bool := decide (c.rnd_ = 4)
/-- The tokens of random words that a command's elements take, 64 from each (R318). -/
def Cmd.tokens (c : Cmd) : Nat := (c.nrows * c.rlen + 63) / 64
/-- The random words of a chunk: one for each element, by its place in the command's loop (R318). -/
def Chunk.words (k : Chunk) (s : State) (c : Cmd) (at_ : Nat) : List Nat :=
  (List.range k.n).map fun j =>
    let e := k.r * c.rlen + k.c + j
    (srToken s c.part at_ (c.sr + e / 64)).getD (e % 64) 0

/-- A chunk moves on: the next part of its source, its group, its random words, or the next part of its destination. -/
def moveChunk (s : State) (c : Cmd) (t : Tile) (k : Chunk) : State :=
  if !k.outs.isEmpty then writeStep s c t k
  else match readStep s c t k with
  | some s => s
  | none =>
    if !k.whole then join s c k
    else if c.draws && decide (k.rnd.length < k.n) then s.setCmd (c.keep k (some { k with rnd := k.words s c (s.edgeOf c) }))
    else if c.op = eSIN then deliver s c k
    else if c.op = ePLD then
      s.setCmd { c.keep k none with rows := c.rows ++ [(k.r, Vector.ofFn fun j => k.x c j.val)] }
    else if c.op = eRED then reduceStep s c t k
    else convert s c k

/-- One part of the movement of a command's next element. -/
def moveNext (s : State) (c : Cmd) (t : Tile) : State :=
  match c.chunk with
  | some k => moveChunk s c t k
  | none =>
    if c.fin then s
    else if c.op = ePDR ∧ c.rows.isEmpty = true then drain s c
    else if c.curs && c.cur.isNone then takeCursor s c
    else if c.indexed && c.idx.isNone then
      let va := c.idxVa c.r
      let row : Chunk := { r := c.r, c := 0, n := c.rlen }
      if va % 8 ≠ 0 then stopAt s c cALIGN va 0
      else if cmdWaits s c (c.r, 0) false va 8 then s
      else match edgeAccess s c.part (s.edgeOf c) c.id (occOf c.num) va 8 none (decide (s.arg 1 % 2 = 1)) true with
        | .page s l =>
          if eddyMax ≤ t.eddy.length then s
          else divert s (c.adv (c.rlen - c.c)) t row row none va l
        | a => a.then c t row row none va fun s _ v => s.setCmd { c with idx := some (sx 64 v) }
    else if c.stream false && c.srow.isNone then readRow s c t
    else startChunk s c
/-- One part of a command's movement (R333): of a replay, or, where argument 2 is odd or nothing is replayed, of its next
element (DESIGN CHOICE, log entry 1). -/
def moveCmd (s : State) (c : Cmd) (t : Tile) : State :=
  if s.arg 2 % 2 = 1 then moveNext s c t
  else match c.back, readyCmd c.id t.eddy with
    | k :: _, _ => moveChunk s c t k
    | [], some (e, k) => s.setCmd { c with back := [{ k with redo := true, inq := some e }] }
    | [], none => moveNext s c t

/-- COMMAND_ARRIVAL (R318, R322): argument 0 names the command. The A-tile accepts it, a run's commands
in their order, and at later turns moves its next part. -/
def execCommandArrival (s : State) : Out :=
  .next (match s.cmd (s.arg 0) with
  | none => s
  | some c => match s.cmdTile c with
    | some t =>
      if t.acted || !t.woken || !c.st.open_ then s
      else if c.acc then moveCmd s c t
      else if (s.cmds.any fun d => decide (d.rid = c.rid) && decide (d.key = c.key) && decide (d.pos = c.pos) && decide (d.id < c.id) && !d.acc) then s
      else
        let d := if c.draws then srTake s c.part (s.edgeAt c.key c.pos) c.tokens else (0, s)
        { d.2 with cmds := delFirst (fun d => decide (d.id = c.id)) d.2.cmds ++ [{ c with acc := true, sr := d.1 }] }
    | none => s)

/-- FILL_RESERVATION (R249, R250): argument 0 names the command. -/
def execFillReservation (s : State) : Out :=
  .next (match s.cmd (s.arg 0) with
  | none => s
  | some c => match s.inst c.key with
    | none => s
    | some i => match getT i.tiles c.target.1 with
      | none => s
      | some t =>
        let before := (s.cmds.takeWhile fun d => decide (d.id ≠ c.id)).any fun d =>
          d.acc && decide (d.op = ePLD) && decide (d.key = c.key) && decide (d.pos = c.pos) && decide (d.target.1 = c.target.1) &&
            d.st.open_ && (!(d.fin && d.rows.isEmpty && d.still) ||
              match s.cmdTile d with | some a => a.eddy.any fun e => e.ofCmd d.id | none => false)
        let st := (t.panel c.target.2).st
        if c.op ≠ ePLD ∨ c.acc = false ∨ c.resv = true ∨ c.st.open_ = false ∨ t.acted = true ∨ t.woken = false ∨ before = true then s
        else if st = .empty ∨ st = .ready then
          (s.modTile c.key c.target.1 fun t => t.setPanel c.target.2 { t.panel c.target.2 with st := .fillE, cnt := 0 }).setCmd { c with resv := true }
        else s)

/-- A fill that is complete holds its follow-on behind those that were complete before it, and each enters the queue of
its tile once that has room (R252). -/
def queueFollow (s : State) (c : Cmd) : State :=
  if c.desc.isNone || decide (c.fill < 64) then s
  else admitFollows c.key c.target.1 256 (s.modTile c.key c.target.1 fun t => { t with fwait := t.fwait ++ [c.id] })

/-- FILL_ROW (R249, R250, R252): argument 0 names the command. Row 63 makes the slot READY, and the
follow-on enters the matrix queue. -/
def execFillRow (s : State) : Out :=
  .next (match s.cmd (s.arg 0) with
  | none => s
  | some c =>
    if !c.resv || decide (c.op ≠ ePLD) || !c.st.open_ then s
    else match c.rows with
    | [] => s
    | (r, x) :: l =>
      let c' := { c with rows := l, fill := c.fill + 1 }
      let s := s.modTile c.key c.target.1 fun t =>
        let p := t.panel c.target.2
        t.setPanel c.target.2 { p with rows := putT p.rows r x, st := if c'.fill = 64 then .ready else p.st }
      queueFollow (s.setCmd c') c')

/-- COMMAND_COMPLETION (R193, R322, R323): argument 0 names the command. It leaves CPC or PNC once
everything it made has been performed, or reports its fault. -/
def execCommandCompletion (s : State) : Out :=
  .next (match s.cmd (s.arg 0) with
  | none => s
  | some c =>
    let k : Cls := if c.op = ePLD ∨ c.op = ePDR then .pnc else .cpc
    let leave (s : State) : State :=
      (s.modRun c.core c.rid c.part fun r => if r.rid = c.rid then r.dec k else r).delCmd c.id
    let held := match s.cmdTile c with | some t => t.eddy.any fun e => e.ofCmd c.id | none => false
    match c.st with
    | .faulted f => leave (deferFault s c.core c.rid c.part f (trapRec s c.num c.fp c.arg) c.trapc)
    | .done _ => leave s
    | _ =>
      if c.acc && c.fin && c.still && !held && !mirrorOwed s c.part && (decide (c.op = ePDR) || c.rows.isEmpty) &&
          (decide (c.op ≠ ePLD) || decide (c.fill = 64)) && c.desc.isNone
      then leave s else s)

end Sys2Proof.Machine
end

