-- ==== Sys2Proof/Machine/Patterns.lean ====
section
/-!
DEFINITION. A-tile patterns (R70 to R72, R89, R311 to R315, R332, R392): bases, steps, accesses and
their order, tokens put and taken, the ends of runs; and the doldrums detector of streams (R300).
-/
namespace Sys2Proof.Machine

/-! ### A pattern and its state -/

/-- What a pattern's events read: the instance, its A-tile, the pattern's frame and its state. -/
structure PView where
  key : Nat
  tk  : Nat
  j   : Nat
  i   : Inst
  t   : Tile
  w   : Nat
  p   : Pat
  fmt : Fmt

/-- The state of pattern j of a tile. -/
def Tile.pat (t : Tile) (j : Nat) : Pat := getTD t.pats j {}
/-- Replaces it. -/
def Tile.setPat (t : Tile) (j : Nat) (p : Pat) : Tile := { t with pats := putT t.pats j p }
/-- Runs f on the pattern that the turn names, if the tile holds it and has not acted. -/
def onPattern (s : State) (f : PView → State) : Out :=
  .next (match s.inst (s.arg 0) with
  | none => s
  | some i => match getT i.tiles (s.arg 1) with
    | none => s
    | some t =>
      let w := i.img.pat (s.arg 1) (s.arg 2)
      match fmtOf (patFmt w) with
      | none => s
      | some k =>
        if !patV w || t.acted || !t.woken || decide (1 < s.arg 2) || decide (i.img.kind (s.arg 1) ≠ 2) then s
        else f ⟨s.arg 0, s.arg 1, s.arg 2, i, t, w, t.pat (s.arg 2), k⟩)
/-- Changes the pattern's state. -/
def PView.set (v : PView) (s : State) (f : Pat → Pat) : State := s.modTile v.key v.tk fun t => t.setPat v.j (f (t.pat v.j))
/-- The partition of the pattern. -/
def PView.part (v : PView) : Nat := v.key / 8
/-- The pattern's counter chain. -/
def PView.chain (v : PView) : Chain := getTD v.t.chains (patChain v.w) {}

/-- Freezes a pattern with a fault (R382, R383): `op` is the access that faulted, or none (listed as 0) for the step itself. What a frozen pattern has
issued goes on, and a further fault of it is posted too (R395). -/
def freezePat (s : State) (key tk j : Nat) (op : Option Nat) (f : FaultRec) : State :=
  match s.part (key / 8) with
  | none => s
  | some x =>
    if bit x.fmask f.code then abort s key f.code
    else post (s.modTile key tk fun t => let p := t.pat j; t.setPat j { p with frozen := some (p.frozen.getD f), bad := p.bad ++ [op.getD 0] }) (key / 8) { fr := f }
/-- The fault record of a pattern (R380). -/
def patFault (s : State) (i : Inst) (tk j code va detail : Nat) : FaultRec :=
  { inst := i.num, frozen := true, code := code, src := 3, unit := j, y := i.y0 + tk / 128, x := tk % 128, addr := va
    cyc := s.cyc, detail := detail }
/-- Freezes the pattern of a view. -/
def PView.freeze (v : PView) (s : State) (code va detail : Nat) (op : Option Nat) (ext : List Word := []) : State :=
  freezePat s v.key v.tk v.j op { patFault s v.i v.tk v.j code va detail with ext := ext }

/-! ### Bases (R311) -/

/-- PATTERN_BASE_TAKE (R311): arguments name the instance, the tile and the pattern. A block-scaled
format takes its scale base with its base, and the chain gains a pending start. -/
def execPatternBaseTake (s : State) : Out :=
  onPattern s fun v =>
    if v.p.base.isSome || v.p.frozen.isSome || decide (15 ≤ v.chain.pending) then s
    else
      let pb := 8 + 2 * v.j
      match v.t.fifoOf pb, v.t.fifoOf (pb + 1) with
      | .narrow b tag :: _, q =>
        if v.fmt.block && q.isEmpty then s
        else
          let sc : Word := match q with | x :: _ => x.word | [] => 0
          let s := s.modInst v.key fun i => i.take v.tk pb
          let s := if v.fmt.block then s.modInst v.key fun i => i.take v.tk (pb + 1) else s
          let c := v.chain
          let s := s.modTile v.key v.tk fun t => { t with chains := putT t.chains (patChain v.w) { c with pending := c.pending + 1 } }
          v.set s fun p => { p with base := some b, scale := sc, tag := tag % 4096, run := p.run + 1, bpos := 0, headed := false }
      | _, _ => s

/-! ### Steps (R312, R315) -/

/-- The index of a step's first element (R312). -/
def Image.stepElem (i : Image) (tk k : Nat) (c : Chain) : Int :=
  (List.range (i.nlev tk k)).foldl (fun a l => a + (c.idx.getD l 0 : Nat) * i.stride tk k l) 0
/-- Whether a run of a domain may issue its accesses (R315). -/
def PView.turn (v : PView) : Bool := decide (patDom v.w = 0) || decide (getTD v.t.nextTag (patDom v.w) 0 = v.p.tag)
/-- Whether the pattern can perform a step: it holds a base, its chain runs, its domain lets it issue (R311,
R315), and no full eddy queue stalls it (R333). -/
def PView.stepping (v : PView) : Bool :=
  v.p.base.isSome && v.p.frozen.isNone && v.p.stuck.isNone && v.chain.running && v.turn && decide (v.p.accs.length < 256)
/-- The bytes of 64 elements. -/
def Fmt.tokenBytes (k : Fmt) : Nat := 8 * k.bits
/-- The address of a step's codes (R312). -/
def PView.codeVa (v : PView) (e : Int) : Nat := ((((v.p.base.getD 0).toNat : Int) + e * v.fmt.bits / 8) % 2 ^ 64).toNat
/-- The address of a step's two scale bytes (R312). -/
def PView.scaleVa (v : PView) (e : Int) : Nat := (((v.p.scale.toNat : Int) + e / 32) % 2 ^ 64).toNat
/-- Whether a step's place breaks the alignment rules (R312). -/
def PView.misaligned (v : PView) (e : Int) : Bool :=
  if v.fmt.block then decide (e % 32 ≠ 0) else decide ((v.p.base.getD 0).toNat % (v.fmt.bits / 8) ≠ 0)

/-- A run has issued every access: it ends, the base is dropped, and its domain goes on to the next tag
unless the other pattern still holds a run of it (R311, R315). -/
def PView.complete (v : PView) (s : State) : State :=
  s.modTile v.key v.tk fun t =>
    let p := t.pat v.j
    let o := t.pat (1 - v.j)
    let ow := v.i.img.pat v.tk (1 - v.j)
    let d := patDom v.w
    let same := patV ow && decide (patDom ow = d) && o.base.isSome && decide (o.tag = p.tag)
    let t := t.setPat v.j { p with base := none, ends := p.ends ++ [p.run] }
    if d = 0 ∨ same = true then t else { t with nextTag := putT t.nextTag d ((p.tag + 1) % 4096) }

/-- One step of the chain at level 0: the state, and whether the chain completed (R167, R311). -/
def PView.step (v : PView) (s : State) : State × Bool :=
  let r := v.chain.step v.i.img v.tk (patChain v.w) 0
  (s.modTile v.key v.tk fun t => { t with chains := putT t.chains (patChain v.w) r.1 }, r.2)

/-- The steps of a run from here, at most n. -/
def upcoming (i : Image) (tk k : Nat) : Nat → Chain → List Int
  | 0, _ => []
  | n + 1, c =>
    let r := c.step i tk k 0
    i.stepElem tk k c :: (if r.2 then [] else upcoming i tk k n r.1)

/-- PATTERN_LOAD_STEP (R313): arguments name the instance, the tile and the pattern. A read is issued
against demand that no earlier token of the pattern will use; a block-scaled burst begins with its head
token, whose scale bytes are those of the steps of the burst (R71). -/
def execPatternLoadStep (s : State) : Out :=
  onPattern s fun v =>
    if patStore v.w || !v.stepping || decide (v.t.demandOf (patPort v.w) ≤ v.p.accs.length) then s
    else
      let e := v.i.img.stepElem v.tk (patChain v.w) v.chain
      if v.misaligned e then v.freeze s cALIGN (v.codeVa e) 0 none
      else
        let f := s.fresh
        if v.fmt.block && !v.p.headed then
          let l := (upcoming v.i.img v.tk (patChain v.w) 32 v.chain).map v.scaleVa
          v.set f.2 fun p => { p with accs := p.accs ++ [{ op := f.1, run := p.run, head := true, blocks := l }], headed := true }
        else
          let r := v.step f.2
          let last := r.2 || (v.fmt.block && decide (v.p.bpos = 31))
          let s := v.set r.1 fun p =>
            { p with accs := p.accs ++ [{ op := f.1, run := p.run, va := v.codeVa e, n := v.fmt.tokenBytes, last := last }]
                     bpos := if last then 0 else p.bpos + 1, headed := !last && p.headed }
          if r.2 then v.complete s else s

/-! ### Accesses (R312 to R315, R332) -/

/-- Whether a pattern's access is complete: a store's writes are all made and it is no longer listed. -/
def PAcc.complete (a : PAcc) (store : Bool) : Bool :=
  !store && (if a.head then decide (a.got.length = a.blocks.length) else a.data.isSome)
/-- Whether an access touches a byte range of its partition: its codes or its scale bytes. -/
def PAcc.touches (a : PAcc) (s : State) (p va n : Nat) : Bool :=
  sharesByte s p (a.va : Nat) a.n va n || a.blocks.any fun b => sharesByte s p (b : Nat) 2 va n
/-- Whether some bytes of an access lie in a stream. -/
def PAcc.stream (a : PAcc) : Bool := bit a.va 63 || a.blocks.any fun b => bit b 63
/-- Whether an access waits for one that was issued before it (R293, R315, R332, R353): one of its run or of its domain that
overlaps it, but in domain 0 for none that is diverted (DEDUCED, log entry 17), or one of its run that reads a stream, which
is an acquire. -/
def PView.held (v : PView) (s : State) (a : PAcc) (va n : Nat) : Bool :=
  [0, 1].any fun j =>
    let w := v.i.img.pat v.tk j
    patV w && (v.t.pat j).accs.any fun b =>
      let run := decide (j = v.j) && decide (b.run = a.run)
      let dom := decide (patDom v.w ≠ 0) && decide (patDom w = patDom v.w)
      decide (b.op < a.op) && !b.complete (patStore w) &&
        ((run && !patStore w && b.stream) || ((dom || (run && !b.eddy)) && b.touches s v.part va n))
/-- Replaces an access. -/
def PView.setAcc (v : PView) (s : State) (a : PAcc) : State :=
  v.set s fun p => { p with accs := updFirst (fun b => decide (b.op = a.op)) (fun _ => a) p.accs }
/-- Whether an eddy entry is of an access of a pattern. -/
def Eddy.ofPat (j op : Nat) : Eddy → Bool
  | .pat i o _ => decide (i = j) && decide (o = op)
  | .cmd _ _ _ _ => false
/-- Diverts an access to the eddy queue (R332, R333): a replay that still raises PAGE stays in its place and posts
no further record; with a full queue the pattern stalls at the access. -/
def PView.divert (v : PView) (s : State) (a : PAcc) (va level : Nat) : State :=
  if a.eddy then
    (s.walk v.part).modTile v.key v.tk fun t => { t with eddy := updFirst (fun e => e.ofPat v.j a.op) (fun _ => .pat v.j a.op false) t.eddy }
  else if eddyMax ≤ v.t.eddy.length then v.set s fun p => { p with stuck := some a.op }
  else
    let s := (v.setAcc (s.walk v.part) { a with eddy := true }).modTile v.key v.tk fun t => { t with eddy := t.eddy ++ [.pat v.j a.op false] }
    let s := v.set s fun p => { p with stuck := none }
    postPage s v.part (pageRecord s v.i.num 3 v.j 0 0 (v.i.y0 + v.tk / 128) (v.tk % 128) va level) 64
/-- An access leaves the eddy queue, and its pattern stalls no more. -/
def PView.leave (v : PView) (s : State) (a : PAcc) : State :=
  (v.set (v.setAcc s { a with eddy := false, redo := a.redo || a.eddy }) fun p => { p with stuck := none }).modTile v.key v.tk
    fun t => { t with eddy := if a.eddy then delFirst (fun e => e.ofPat v.j a.op) t.eddy else t.eddy }
/-- Goes on with an access of a pattern. -/
def PView.then (v : PView) (a : PAcc) (va : Nat) (r : Acc) (f : State → PAcc → Nat → State) : State :=
  match r with
  | .ok s x => f (v.leave s a) { a with eddy := false, redo := a.redo || a.eddy } x
  | .bad s c d ext => v.freeze (v.leave s a) c va d (some a.op) ext
  | .page s l => v.divert s a va l
  | .stay s => s
/-- An access of the pattern's run to memory or a stream; `fe` says which words on another module a write makes full. -/
def PView.access (v : PView) (s : State) (a : PAcc) (va n : Nat) (data : Option (Nat × Nat)) (f : State → PAcc → Nat → State)
    (fe : Nat → Bool := fun _ => false) : State :=
  if v.held s a va n then s
  else v.then a va (edgeAccess s v.part (s.edgeAt v.key v.tk) a.op (occOf v.i.num) va n data (decide (s.arg 5 % 2 = 1)) false fe) f

/-- Performs the next part of a load's access: the scale bytes of one step of a head, or a body's
codes. -/
def PView.load (v : PView) (s : State) (a : PAcc) : State :=
  if a.head then
    let va := a.blocks.getD a.got.length 0
    v.access s a va 2 none fun s a x => v.setAcc s { a with got := a.got ++ [x] }
  else v.access s a a.va a.n none fun s a x => v.setAcc s { a with data := some x }

/-- The steps that a run can have at most. -/
def Image.runLen (i : Image) (tk k : Nat) : Nat := (List.range (i.nlev tk k)).foldl (fun a l => a * i.count tk k l) 1
/-- Whether a store pattern writes a word again later in the run of an access (R324). -/
def PView.more (v : PView) (s : State) (a : PAcc) (va : Nat) : Bool :=
  (v.p.accs.any fun b => decide (b.op ≠ a.op) && decide (b.run = a.run) && b.touches s v.part va 8) ||
  (v.p.base.isSome && decide (v.p.run = a.run) &&
    (upcoming v.i.img v.tk (patChain v.w) (v.i.img.runLen v.tk (patChain v.w)) v.chain).any fun e =>
      sharesByte s v.part (v.codeVa e : Nat) v.fmt.tokenBytes va 8 || (v.fmt.block && sharesByte s v.part (v.scaleVa e : Nat) 2 va 8))
/-- Performs the next write of a store's access: its codes, then the scale bytes of its two blocks. -/
def PView.store (v : PView) (s : State) (a : PAcc) : State :=
  let drop (s : State) : State := v.set s fun p => { p with accs := delFirst (fun b => decide (b.op = a.op)) p.accs }
  if a.stage = 0 then
    v.access s a a.va a.n (some (a.data.getD 0, 2 ^ (8 * a.n) - 1)) (fun s a _ =>
      let s := markFull s v.part a.va a.n (v.more s a)
      if a.blocks.isEmpty then drop s else v.setAcc s { a with stage := 1 }) fun w => !v.more s a w
  else
    let va := a.blocks.getD 0 0
    v.access s a va 2 (some (a.got.getD 0 0, 65535)) (fun s a _ => drop (markFull s v.part va 2 (v.more s a))) fun w => !v.more s a w

/-- The accesses that may be performed now: of those in the eddy queue, the one that the A-tile retries next; with a
full queue, only that and the one at which the pattern stalls (R333). -/
def PView.openAccs (v : PView) : List PAcc :=
  let next (a : PAcc) : Bool := match v.t.eddy.find? Eddy.ready with | some e => e.ofPat v.j a.op | none => false
  v.p.accs.filter fun a => !a.complete (patStore v.w) && !v.p.bad.contains a.op &&
    (if a.eddy then next a else match v.p.stuck with | some op => decide (a.op = op) | none => true)
/-- Performs one access that the pattern has issued, be it frozen since (R395); the turn's argument 4 says which, and where
argument 5 is odd a fabric cache has replaced the line it needs (DESIGN CHOICE, log entry 1). -/
def PView.perform (v : PView) (s : State) : State :=
  let l := v.openAccs
  match l[s.arg 4 % l.length]? with
  | none => s
  | some a => if patStore v.w then v.store s a else v.load s a

/-! ### Loads (R71, R313, R332) -/

/-- A block descriptor (R71). -/
def descriptor (fmt scale : Nat) : FW := BitVec.ofNat 48 (fmt * 2 ^ 42 + 31 * 2 ^ 32 + scale)
/-- The lanes of a head token: two blocks for each body token (R71). -/
def PView.headLanes (v : PView) (a : PAcc) : Lanes := Vector.ofFn fun b =>
  if b.val < 2 * a.got.length then descriptor (patFmt v.w) (a.got.getD (b.val / 2) 0 / 256 ^ (b.val % 2) % 256) else 0
/-- The scale byte of lane b of the burst's head. -/
def headScale (h : Option Lanes) (b : Nat) : Nat := match h with | some l => (l.toList.getD b 0).toNat % 256 | none => 0
/-- The lanes of a body token (R64 to R66). -/
def PView.bodyLanes (v : PView) (a : PAcc) : Lanes := Vector.ofFn fun j =>
  let c := a.data.getD 0 / 2 ^ (j.val * v.fmt.bits) % 2 ^ v.fmt.bits
  if patRaw v.w then loadRaw v.fmt c else loadElem v.fmt (headScale v.p.head (2 * v.p.dpos + j.val / 32)) c
/-- Whether the consumer of the data port takes tokens out of order (R83, R332). -/
def PView.comm (v : PView) : Bool :=
  !v.fmt.block && match v.i.img.endOf (epCh (v.i.img.ep v.tk (patPort v.w))) true with
    | some (ck, cp) => epComm (v.i.img.ep ck cp)
    | none => false
/-- Puts the next token in step order, if its read is complete (R313, R332). -/
def PView.emit (v : PView) (s : State) : Option State :=
  match v.p.accs.find? fun a => !(v.comm && a.eddy) with
  | none => none
  | some a =>
    if !a.complete false then none
    else
      let put (x : Lanes) (m : Nat) : State := s.modInst v.key fun i => i.put v.tk (patPort v.w) (.wide x m)
      let rest (p : Pat) : Pat := { p with accs := delFirst (fun b => decide (b.op = a.op)) p.accs }
      some (if a.head then
        let h := v.headLanes a
        v.set (put h 1) fun p => { rest p with head := some h, dpos := 0 }
      else v.set (put (v.bodyLanes a) (if a.last then 2 else 0)) fun p => { rest p with dpos := p.dpos + 1 })

/-- PATTERN_READ_RETURN (R313): arguments name the instance, the tile and the pattern. The next token
in step order is put, or a read is performed; a frozen pattern's reads that stand before its fault are delivered (R395). -/
def execPatternReadReturn (s : State) : Out :=
  onPattern s fun v => if patStore v.w then s else (v.emit s).getD (v.perform s)

/-! ### Stores (R67 to R72, R314) -/

/-- The scale of a block of 32 lanes: that of the burst's head under REUSE, unless a NaN makes it the NaN scale; else
chosen (R68 to R70). -/
def PView.scaleOf (v : PView) (xs : List FW) (b : Nat) : Nat :=
  let d := match v.p.head with | some l => (l.toList.getD b 0).toNat | none => 0
  let same := decide (fld d 47 42 = patFmt v.w) && (decide (patFmt v.w ≠ 0x18) || decide (fld d 7 6 = patTbt v.w))
  let nan := xs.any fun x => match fwVal x with | .nan _ _ => true | _ => false
  if patReuse v.w && v.p.head.isSome && same && !nan then d % 256 else chooseScale v.fmt (patTbt v.w) xs
/-- The rounding of lane j (R72, R314). -/
def PView.mode (v : PView) (j : Nat) : SMode :=
  match patRnd v.w with
  | 0 => .det .rne
  | 1 => .det .rz
  | 2 => .det .rd
  | 3 => .det .ru
  | _ => .sr ((v.p.rnd.getD (j / 2) 0).toNat / 2 ^ (32 * (j % 2)) % 2 ^ 32)
/-- The 64 elements of a token as they are stored, and the scale bytes of its two blocks. -/
def PView.convert (v : PView) (x : Lanes) : List Stored × List Nat :=
  let l := x.toList
  if v.fmt.block then
    let s0 := v.scaleOf (l.take 32) (2 * v.p.dpos)
    let s1 := v.scaleOf (l.drop 32) (2 * v.p.dpos + 1)
    (l.mapIdx fun j y => storeBlockElem v.fmt (if j < 32 then s0 else s1) (v.mode j) y, [s0 + 256 * s1])
  else (l.mapIdx fun j y => if patRaw v.w then ⟨storeRaw v.fmt y, false, false⟩ else storeElem v.fmt (v.mode j) y, [])

/-- A store pattern takes a token, or the random words of its latched token, or issues the store of one
step (R314, R392). -/
def PView.takeStep (v : PView) (s : State) : State :=
  if v.p.base.isNone || v.p.frozen.isSome then s
  else match v.p.latch with
  | none =>
    (match v.t.fifoOf (patPort v.w) with
     | [] => s
     | x :: _ =>
       let s := s.modInst v.key fun i => i.take v.tk (patPort v.w)
       if x.mark % 2 = 1 then v.set s fun p => { p with head := if x.mark = 3 then none else some x.lanes, dpos := 0 }
       else v.set s fun p => { p with latch := some x })
  | some x =>
    if patRnd v.w = 4 ∧ v.p.rnd.length < 32 then
      match v.t.fifoOf (patRndp v.w) with
      | [] => s
      | y :: _ => v.set (s.modInst v.key fun i => i.take v.tk (patRndp v.w)) fun p => { p with rnd := p.rnd ++ [y.word] }
    else if !v.stepping then s
    else
      let e := v.i.img.stepElem v.tk (patChain v.w) v.chain
      if v.misaligned e then v.freeze s cALIGN (v.codeVa e) 0 none
      else
        let c := v.convert x.lanes
        let f := s.fresh
        let r := v.step f.2
        let tail := decide (x.mark = 2)
        let a : PAcc := { op := f.1, run := v.p.run, va := v.codeVa e, n := v.fmt.tokenBytes
                          data := some (Chunk.codesNat (c.1.map (·.code)) v.fmt.bits)
                          blocks := if v.fmt.block then [v.scaleVa e] else [], got := c.2 }
        let s := v.set r.1 fun p => { p with accs := p.accs ++ [a], latch := none, rnd := []
                                             head := if tail then none else p.head, dpos := p.dpos + 1 }
        let s := (s.count v.part 1 (c.1.countP fun y => y.sat)).count v.part 2 (c.1.countP fun y => y.nan0)
        if r.2 then v.complete s else s

/-- PATTERN_STORE_STEP (R314): arguments name the instance, the tile and the pattern. A token is taken,
converted and issued, or, where argument 3 is odd, an issued store is performed (DESIGN CHOICE, log entry 1). -/
def execPatternStoreStep (s : State) : Out :=
  onPattern s fun v =>
    if !patStore v.w then s
    else if s.arg 3 % 2 = 0 then v.takeStep s
    else v.perform s

/-- PATTERN_RUN_END (R311): arguments name the instance, the tile and the pattern. The DONE of the oldest
completed run is sent once its accesses have been performed or have faulted, those of oasis at the mirror too (R343). -/
def execPatternRunEnd (s : State) : Out :=
  onPattern s fun v =>
    match v.p.ends with
    | [] => s
    | r :: l =>
      if mirrorOwed s v.part || v.p.accs.any fun a => decide (a.run = r) && !a.complete (patStore v.w) && !v.p.bad.contains a.op then s
      else
        let s := v.set s fun p => { p with ends := l }
        let d := v.i.img.chainDone v.tk (patChain v.w)
        if d = 15 then s else s.modInst v.key fun i => sendLine i d

/-! ### Replays and the doldrums detector (R300, R333) -/

/-- An eddy entry is retried. -/
def Eddy.retry : Eddy → Eddy
  | .pat j op _ => .pat j op true
  | .cmd id e k _ => .cmd id e k true
/-- A MAP or PROT of a partition commits: every A-tile of the partition retries its eddy entries (R333). -/
def retryEddy (s : State) (p : Nat) : State :=
  { s with insts := mapT (fun k i => if k / 8 = p then { i with tiles := mapT (fun _ t => { t with eddy := t.eddy.map Eddy.retry }) i.tiles } else i) s.insts }

/-- The pattern that issued an access: its tile and its number. -/
def patOf (i : Inst) (op : Nat) : Option (Nat × Nat) :=
  i.tiles.findSome? fun t => t.2.pats.findSome? fun p => if p.2.accs.any (fun a => decide (a.op = op)) then some (t.1, p.1) else none

/-- A waiting access faults with STREAM_STALL (R300): of another module's party, of a run's word, of a command, of a pattern,
or the packet read of a QPOST, which its run takes up as an answer of the home. -/
def stallOp (s : State) (p n : Nat) (x : Stream) (w : StreamWait) : State :=
  let va := 2 ^ 63 + n * 2 ^ 48 + w.off
  match w.via, s.pend w.op with
  | some v, _ => s.answerOn v.1 p cSTALL (ofWords (stallWords x))
  | none, some q => s.setPend { q with st := .faulted { pendFault s q cSTALL n with ext := stallWords x } }
  | none, none => match s.cmd (w.op % 2 ^ 48), (s.inst (p * 8 + w.occ)).bind fun i => (patOf i w.op).map fun t => (i, t) with
    | some c, _ => stopAt s c cSTALL va n (stallWords x)
    | none, some (i, tk, j) => freezePat s (p * 8 + w.occ) tk j (some w.op) { patFault s i tk j cSTALL va n with ext := stallWords x }
    | none, none => match s.stream p n with
      | some y => s.setStream p n { y with served := y.served ++ [(w.op, cSTALL, ofWords (stallWords x))] }
      | none => s

/-- STREAM_STALL_TIMEOUT (R300): arguments 0 and 1 name the partition and the stream. The accesses that wait and those
held count alike; a stream that lives on another module is watched there (R299). -/
def execStreamStallTimeout (s : State) : Out :=
  let p := s.arg 0
  let n := s.arg 1
  .next (match s.stream p n with
  | none => s
  | some x =>
    let t := 2 ^ x.stalle
    let l := x.waits ++ x.held
    if x.stalle = 0 ∨ s.remoteStream x = true ∨ x.moved + t > s.cyc ∨ !l.any (fun w => decide (w.since + t ≤ s.cyc)) then s
    else l.foldl (fun s w => stallOp s p n x w) (s.setStream p n { x with waits := [], held := [], moved := s.cyc }))

end Sys2Proof.Machine
end

