-- ==== Sys2Proof/Machine/Runs.lean ====
section
/-!
DEFINITION. How runs begin and end (R44, R45, R173, R199, R209, R384), how fault records are posted
(R380, R381), and how a run is saved beyond the maximum run length (R396, R398).
-/
namespace Sys2Proof.Machine

/-! ### Taking a record (R44, R173) -/

/-- The partition a core belongs to (R147). -/
def coreParts (n : Nat) : Tab Part → Option Nat
  | [] => none
  | (p, x) :: l => if bit x.cores n then some p else coreParts n l
/-- The order in which core 16D + n visits the other cores of its module (R173). -/
def stealOrder (n : Nat) : List Nat :=
  (List.range 15).map (fun j => n / 16 * 16 + (n % 16 + 1 + j) % 16) ++
    (List.range 7).flatMap fun j => (List.range 16).map fun c => (n / 16 + 1 + j) % 8 * 16 + c
/-- The first core of a list from which a record of a slot can be stolen. -/
def stealFrom (s : State) (x : Part) (occ : Nat) : List Nat → Option (Nat × Rec × Deque)
  | [] => none
  | c :: l =>
    if bit x.cores c then
      match ((s.core c).deque occ).steal with
      | some (r, d) => some (c, r, d)
      | none => stealFrom s x occ l
    else stealFrom s x occ l

/-- Begins the run of a record on a core (R44). -/
def beginRun (s : State) (n : Nat) (r : Rec) : State :=
  let f := s.fresh
  let g : Run := { rid := f.1, rc := r, pc := r.code, began := s.cyc, first := if r.afirst then some r.ascope else none }
  f.2.setRun n (some (((g.set 31 r.fp).set 1 r.arg)))

/-- A core takes its next record: its own deque, the injection queue, then a steal (R173). -/
def takeRecord (s : State) (n p : Nat) (x : Part) : State :=
  match ((s.core n).deque x.cur).pop with
  | some (r, d) => beginRun (s.setCore n ((s.core n).setDeque x.cur d)) n r
  | none =>
    match x.inj.find? fun r => decide (occOf r.inst = x.cur) with
    | some r => beginRun (s.setPart p (refill { x with inj := delFirst (fun z => decide (occOf z.inst = x.cur)) x.inj })) n r
    | none =>
      match stealFrom s x x.cur (stealOrder n) with
      | some (c, r, d) => beginRun (s.setCore c ((s.core c).setDeque x.cur d)) n r
      | none => s

/-- Whether a saved run resumes on a core (R398). -/
def resumesOn (x : Part) (n : Nat) (v : SavedRun) : Bool :=
  v.brk.isNone && decide (occOf v.run.rc.inst = x.cur) && (decide (v.core = n) || !bit x.cores v.core)

/-- RUN_START (R44, R173, R176, R398): argument 0 names the core. A core that holds a trap continuation
places it once an entry is free, whether or not a run stands there stalled; a saved run resumes before a record is
taken. -/
def execRunStart (s : State) : Out :=
  let n := s.arg 0
  .next (match coreParts n s.parts with
  | none => s
  | some p =>
    let s := s.modPart p refill
    match s.part p with
    | none => s
    | some x =>
      let c := s.core n
      match c.held with
      | r :: l =>
        if x.poolFree || (decide (x.inj.length < 1024) && x.ready.isEmpty) then
          runnable (s.setCore n { c with held := l }) p none r
        else s
      | [] =>
        if c.run.isSome || x.front.isSome then s
        else match x.saved.find? (resumesOn x n) with
        | some v =>
          (s.setPart p { x with saved := delFirst (resumesOn x n) x.saved }).setRun n
            (some { v.run with began := s.cyc - (v.run.began) })
        | none => takeRecord s n p x)

/-! ### Ending a run (R199, R203, R209, R372, R384) -/

/-- A run ends through its fault record (R384, R385), which holds SCYC as the trap is taken, and g1 and g31 where the
fault is the run's own and no engine command's (R380): the trap continuation follows the record. A CTWAIT that waits at the region controller leaves its line's queue (R207). -/
def endTrap (s : State) (n : Nat) (r : Run) (f : FaultRec) : State :=
  let cont := if r.rc.trapc then none else some (trapRec s r.rc.inst (r.get 31) (r.get 1))
  let s := match r.qread with | some op => leaveStreams s (partOf r.rc.inst) op | none => s
  let s := (s.setRun n none).modInst (keyOf r.rc.inst) fun i => { i with ctreqs := i.ctreqs.filter fun c => decide (c.rid ≠ r.rid) }
  post s (partOf r.rc.inst)
    { fr := { f with intrap := r.rc.trapc, cyc := s.cyc, arg := if f.src = 1 then r.get 1 else 0, fp := if f.src = 1 then r.get 31 else 0 }, cont := cont, core := some n }

/-- A CWAIT's arrival at the caravan's home (R203): refused with ACCESS, held while the pool is full,
or accepted. -/
def arrive (s : State) (n : Nat) (r : Run) (c : Word) (rc : Rec) : State :=
  let p := partOf r.rc.inst
  match s.part p with
  | none => s
  | some x =>
    if !x.poolFree then s
    else match caravanOf x r.rc.inst c with
    | none => endTrap s n r (runFault s n r cACCESS 0 0)
    | some v =>
      if !v.members.contains (r.get 31) || v.has (r.get 31) then endTrap s n r (runFault s n r cACCESS 0 0)
      else
        let e := poolPut s p rc
        let s := e.2.2.modPart p fun x => { x with caravans := putT x.caravans c.toNat { v with arrived := v.arrived ++ [(r.get 31, e.1, n)] } }
        roundCheck (s.setRun n none) p c.toNat

/-- RUN_END (R199): argument 0 names the core. The run waits until its loads and stores have completed;
a deferred fault reported in that wait traps it instead. -/
def execRunEnd (s : State) : Out :=
  let n := s.arg 0
  .next (match (s.core n).run with
  | none => s
  | some r => match r.ending with
    | none => s
    | some e =>
      if r.ldc > 0 ∨ r.stc > 0 then s
      else match r.defer with
      | some f => endTrap s n r f
      | none => match e with
        | .endRun => s.setRun n none
        | .yieldRun rc =>
          let d := (s.core n).deque (occOf rc.inst)
          if d.fullTop then endTrap s n r (runFault s n r cACCESS 0 0)
          else (s.setCore n ((s.core n).setDeque (occOf rc.inst) (d.pushTop rc))).setRun n none
        | .cwait c rc => arrive s n r c rc
        | .waita p ga va ex rc page =>
          let f := s.fresh
          let q : Pend := { mkPend s n r .ldc (.waita ex rc) 0 va ga false f.1 with part := p, page := page }
          ({ f.2 with pends := f.2.pends ++ [q] }).setRun n none
        | .trap f => endTrap s n r f)

/-- MAX_RUN_LENGTH (R396): argument 0 names the core. At a front a run that has reached the limit is
saved once its operations are complete but for stream reads and synchronising loads that wait at
their homes, which are withdrawn, and a CTWAIT that waits at the region controller. The cycles that a run spends off its
core do not count in its length (DESIGN CHOICE, log entry 48). -/
def execMaxRunLength (s : State) : Out :=
  let n := s.arg 0
  .next (match (s.core n).run with
  | none => s
  | some r =>
    let p := partOf r.rc.inst
    match s.part p with
    | none => s
    | some x =>
      let mine (q : Pend) : Bool := decide (q.rid = r.rid) && (decide (q.cls = .ldc) || decide (q.cls = .stc))
      if (match x.front with | some f => decide (s.cyc - r.began < f.mrl) | none => true) then s
      else if s.pends.any fun q => mine q && !(q.withdraws && q.st.open_) then s
      else
        let s := (withdraw s p r).modPart p fun x =>
          { x with saved := x.saved ++ [{ core := n, run := { r with began := s.cyc - r.began, queued := false, qread := none } }] }
        (s.modInst (keyOf r.rc.inst) fun i => { i with ctreqs := i.ctreqs.filter fun c => decide (c.rid ≠ r.rid) }).setRun n none)

/-! ### Fault records (R380, R381) -/

/-- The words of a fault record (R380). -/
def FaultRec.words (f : FaultRec) : List Word :=
  let ext := f.ext.length / 8
  [BitVec.ofNat 64 (f.inst * 2 ^ 32 + ext * 2 ^ 28 + b2n f.frozen * 2 ^ 18 + b2n f.intrap * 2 ^ 17 + b2n f.defer * 2 ^ 16 + f.code),
   BitVec.ofNat 64 (f.widx * 2 ^ 48 + f.src * 2 ^ 45 + f.unit * 2 ^ 24 + f.y * 2 ^ 16 + f.x * 2 ^ 8 + f.core),
   BitVec.ofNat 64 f.word, BitVec.ofNat 64 f.addr, BitVec.ofNat 64 f.cyc, BitVec.ofNat 64 f.detail, f.arg, f.fp] ++ f.ext

/-- Reads n bytes at an ordinary-space VA of a partition, for the device's own units; a stash page must name a stash bank
of the occupant's (R269). -/
def readVa (s : State) (p va n : Nat) : Option Nat :=
  match s.part p with
  | none => none
  | some x => match translate x va true false with
    | .ok (ga, q) => if stashBad s p (some q) then none else (match homeRead s p ga n with | .ok v => some v | .error _ => none)
    | .error _ => none
/-- Writes bytes for the device's own units: at the home, or at the stash home of a stash page (R269 to R271). -/
def unitWrite (s : State) (p va ga : Nat) (pg : Option Page) (bs : List Byte) : Option State :=
  if stashBad s p pg then none
  else match writeAt s p ga bs with
  | .ok s => some (touchRange s p va ga bs.length true false pg)
  | .error _ => none
/-- Writes bytes at an ordinary-space VA of a partition, for the device's own units. -/
def writeVa (s : State) (p va : Nat) (bs : List Byte) : State :=
  match s.part p with
  | none => s
  | some x => match translate x va false true with
    | .ok (ga, q) => (unitWrite s p va ga (some q) bs).getD s
    | .error _ => s
/-- Writes words at an ordinary-space VA. -/
def writeWordsVa (s : State) (p va : Nat) (l : List Word) : State := writeVa s p va (l.flatMap fun w => toBytes 8 w.toNat)

/-- Writes consecutive records of a fault queue from an index. -/
def writeRecs (s : State) (p va n : Nat) : Nat → List (List Word) → State
  | _, [] => s
  | i, w :: l => writeRecs (writeWordsVa s p (va + 64 + 64 * (i % 2 ^ n)) w) p va n (i + 1) l
/-- Cuts words into records of eight. -/
def eights : Nat → List Word → List (List Word)
  | 0, _ => []
  | k + 1, l => l.take 8 :: eights k (l.drop 8)

/-- Tries to post a record (R381): none while the queue is full. A continuation leaves the pool entry that it took over
(R176). -/
def tryPost (s : State) (p : Nat) (q : Post) : Option State :=
  match s.part p with
  | none => some s
  | some x =>
    let k := keyOf q.fr.inst
    match x.fq with
    | none => some (match s.instNum q.fr.inst with | some _ => abort s k q.fr.code | none => s)
    | some (va, n) =>
      match readVa s p va 8, readVa s p (va + 8) 8 with
      | some pi, some ci =>
        let m := 1 + q.fr.ext.length / 8
        if 2 ^ n < (pi + 2 ^ 64 - ci) % 2 ^ 64 + m then none
        else
          let s := writeRecs s p va n pi (eights m q.fr.words)
          let s := writeVa s p va (toBytes 8 (pi + m))
          let s := match s.instNum q.fr.inst with
            | some _ => s.modInst k fun i => { i with firstFault := if i.firstFault.isSome then i.firstFault else some q.fr.code }
            | none => s
          let s := match q.entry with | some e => s.modPart p fun x => poolDel x e | none => s
          some (match q.cont with
            | some r => runnable s p q.core { r with frec := BitVec.ofNat 64 (va + 64 + 64 * (pi % 2 ^ n)) } true
            | none => s)
      | _, _ => none

/-- A post begins to wait: the count at byte 16 rises (R381). -/
def beginWait (s : State) (p : Nat) (x : Part) : State :=
  match x.fq with
  | some (va, _) => (match readVa s p (va + 16) 8 with
    | some c => writeVa s p (va + 16) (toBytes 8 (c + 1))
    | none => s)
  | none => s

/-- Whether a page of a partition's fault queue is flipping, which holds the posts (R128). -/
def fqHeld (s : State) (p : Nat) (x : Part) : Bool :=
  match x.fq with
  | some (va, n) => (physRanges s p va (64 + 64 * 2 ^ n)).any fun e => s.shut e.1 e.2
  | none => false
/-- Whether a post is held for want of a pool entry: the continuation of an engine fault whose run has ended must be
held in the pool, and that is full (R176). -/
def Post.held (q : Post) (x : Part) : Bool :=
  q.cont.isSome && q.core.isNone && q.entry.isNone && !x.poolFree && (decide (1024 ≤ x.inj.length) || !x.ready.isEmpty)
/-- FAULT_POST (R381): argument 0 names the partition; the oldest record that neither waits nor is held is written
to the queue, or begins to wait. -/
def execFaultPost (s : State) : Out :=
  let p := s.arg 0
  .next (match s.part p with
  | none => s
  | some x =>
    let next (q : Post) : Bool := !q.wait && !q.held x
    if fqHeld s p x then s
    else match x.posts.find? next with
    | none => s
    | some q =>
      let rest := delFirst next x.posts
      match tryPost (s.setPart p { x with posts := rest }) p q with
      | some s => s
      | none =>
        let waiting := x.posts.filter (·.wait)
        let others := rest.filter fun q => !q.wait
        beginWait (s.setPart p { x with posts := waiting ++ [{ q with wait := true }] ++ others }) p x)

/-- Retries waiting posts in the order in which they began to wait. -/
def retryPosts (s : State) (p : Nat) : List Post → State
  | [] => s
  | q :: l =>
    match s.part p with
    | none => s
    | some x =>
      if q.held x then retryPosts s p l
      else match tryPost (s.setPart p { x with posts := delFirst (fun z => decide (z = q)) x.posts }) p q with
      | some s => retryPosts s p l
      | none => retryPosts s p l

/-- FAULT_QUEUE_RETRY (R381): argument 0 names the partition. -/
def execFaultQueueRetry (s : State) : Out :=
  let p := s.arg 0
  .next (match s.part p with
  | none => s
  | some x => if fqHeld s p x then s else retryPosts s p (x.posts.filter (·.wait)))

end Sys2Proof.Machine
end

