-- ==== Sys2Proof/Machine/Fronts.lean ====
section
/-!
DEFINITION. Slices, fronts and restores (R17 to R19, R388 to R401): when an occupant's slice ends, how
the front crosses its rectangle, what each tile saves, and how the next occupant comes back.
-/
namespace Sys2Proof.Machine

/-! ### The restore (R393, R394, R398) -/

/-- A tile as it is restored: tokens moved into the save area stand behind the FIFO, dead panels are
EMPTY and hold +0, and dead banks are reset (R393, R394, R398). It waits for its wave step, or, as an A-tile, for the
end of the sweep (R17, R19; log entry 19). -/
def restoreTile (i : Inst) (tk : Nat) (t : Tile) : Tile :=
  let w := i.img.frame 27 tk
  let c := decide (i.img.kind tk = 0)
  { t with
    acted := false, fronts := [], woken := false, stash := []
    fifo := t.saved.foldl (fun f e => putT f e.1 (getTD f e.1 [] ++ e.2)) t.fifo, saved := []
    panels := mapT (fun n p => if c && bit w (24 + n) then {} else p) t.panels
    banks := mapT (fun n b => if c && bit w (20 + n) then [] else b) t.banks }
/-- The tokens saved in the FIFO of an input; key/value requests not yet examined are ni7's (R398, R401). -/
def Tile.saves (t : Tile) (p : Nat) : Nat := (t.fifoOf p).length + if p = 15 then t.kv.length else 0
/-- The demand of a tile's outputs: DEPTH less the tokens saved in the consumer's FIFO (R398). -/
def deriveDemand (i : Inst) (tk : Nat) (t : Tile) : Tile :=
  { t with demand := ((List.range 24).filter fun p => epV (i.img.ep tk p) && !isInput p).map fun p =>
      (p, match i.img.endOf (epCh (i.img.ep tk p)) true with
        | some (ck, cp) => epDepth (i.img.ep ck cp) - (match getT i.tiles ck with | some c => c.saves cp | none => 0)
        | none => 0) }
/-- An instance comes back into its rectangle (R398), tile by tile as they wake. -/
def restore (i : Inst) : Inst :=
  let i := { i with tiles := mapT (restoreTile i) i.tiles, links := [] }
  { i with tiles := mapT (deriveDemand i) i.tiles }
/-- A-tiles are never clock-gated: they come back at the end of the sweep (R17). -/
def Inst.edgesWake (i : Inst) : Inst :=
  { i with tiles := mapT (fun tk t => if 0x40 ≤ tk % 128 then { t with woken := true } else t) i.tiles }
/-- STARTS A FRONT (R389, R390): the occupant that takes the rectangle next stands ready to come back behind it, tile by
tile (R19). -/
def startFront (s : State) (p : Nat) (x : Part) (dst : Nat) : State :=
  (s.setPart p { x with front := some { dst := dst, mrl := x.mrl } }).modInst (p * 8 + dst) restore

/-! ### Slices (R388, R389) -/

/-- Whether an occupant slot has work (R389). -/
def hasWork (s : State) (p : Nat) (x : Part) (k : Nat) : Bool :=
  decide (x.placing = some k) || match s.inst (p * 8 + k) with
    | some i => decide (i.phase ≠ .idle)
    | none => false
/-- The first slot after the current one that has work. -/
def nextWork (s : State) (p : Nat) (x : Part) : Option Nat :=
  ((List.range (x.occs - 1)).map fun j => (x.cur + 1 + j) % x.occs).find? fun k => hasWork s p x k
/-- The bit-product count of an occupant slot (R165). -/
def State.bpc (s : State) (k : Nat) : Nat := match s.inst k with | some i => i.bpc | none => 0
/-- Whether the slice in progress has run out (R388, R389). -/
def sliceOver (s : State) (p : Nat) (x : Part) : Bool :=
  let c := x.sliceNow
  let t := s.cyc - x.sliceAt
  if c.mode = 0 then decide (c.len ≤ t)
  else decide (c.len ≤ s.bpc (p * 8 + x.cur) - x.sliceBpc) || (decide (c.cap ≠ 0) && decide (c.cap ≤ t))
/-- The current occupant begins a slice. -/
def beginSlice (s : State) (p : Nat) : State := s.modPart p fun x =>
  { x with sliceAt := s.cyc, sliceBpc := s.bpc (p * 8 + x.cur), sliceNow := getTD x.slicing x.cur {} }

/-- SLICE_END (R389): argument 0 names the partition. The next occupant with work takes the rectangle
behind a front; without one a new slice begins. -/
def execSliceEnd (s : State) : Out :=
  let p := s.arg 0
  .next (match s.part p with
  | none => s
  | some x =>
    if x.front.isSome || !sliceOver s p x then s
    else match nextWork s p x with
      | some k => startFront s p x k
      | none => beginSlice s p)

/-! ### The front (R390, R391, R393, R395) -/

/-- FRONT_ARRIVAL (R390): arguments name the instance and the channel; from 1,024 up the second names a
source tile, into which the region controller injects the front. -/
def execFrontArrival (s : State) : Out :=
  let k := s.arg 0
  let ch := s.arg 1
  .next (match s.part (k / 8), s.inst k with
  | some x, some i =>
    if x.front.isNone || decide (x.cur ≠ k % 8) then s
    else if 1024 ≤ ch then
      match getT i.tiles (ch - 1024) with
      | some t => if hasInput i.img (ch - 1024) || t.fronts.contains 31 then s else s.modTile k (ch - 1024) fun t => { t with fronts := 31 :: t.fronts }
      | none => s
    else match (getTD i.links ch {}).fwd, i.img.endOf ch true with
      | .front :: l, some (tk, p) => (s.modInst k fun i => i.modLink ch fun y => { y with fwd := l }).modTile k tk fun t => { t with fronts := p :: t.fronts }
      | _, _ => s
  | _, _ => s)

/-- Whether a pattern's accesses let its A-tile act: each is performed, diverted or faulted, or waits behind one that is,
and nothing can be put (R395). -/
def patDone (s : State) (k tk : Nat) (i : Inst) (t : Tile) (j : Nat) : Bool :=
  match fmtOf (patFmt (i.img.pat tk j)) with
  | none => (t.pat j).accs.isEmpty
  | some f =>
    let v : PView := ⟨k, tk, j, i, t, i.img.pat tk j, t.pat j, f⟩
    let store := patStore v.w
    v.p.accs.all (fun a => a.complete store || a.eddy || v.p.bad.contains a.op || v.held s a a.va a.n) &&
      (store || match v.p.accs.find? fun a => !(v.comm && a.eddy) with
        | some a => !a.complete false
        | none => true)
/-- Whether the commands of an A-tile let it act: no access waits at a stream's home, and every fill
whose reservation was sent is whole (R395). -/
def cmdsDone (s : State) (k tk : Nat) : Bool :=
  s.cmds.all fun c => !(decide (c.key = k) && decide (c.pos = tk) && c.acc) ||
    (!atStream s c.part c.id && !atStream s c.part (c.id + 2 ^ 48) && (decide (c.op ≠ ePLD) || !c.resv || decide (c.fill = 64) || !c.st.open_))
/-- Whether a tile acts (R390, R395); one that waits for its wave step has no state in its place yet (R19, R398). -/
def mayAct (s : State) (k tk : Nat) (i : Inst) (t : Tile) : Bool :=
  !t.acted && t.woken && frontIn i.img tk t && (t.firing.isNone || t.frozen.isSome) && !t.mq.any (fun e => e.started) &&
    (decide (tk % 128 < 0x40) || (patDone s k tk i t 0 && patDone s k tk i t 1 && cmdsDone s k tk))
/-- A tile acts: its state stands saved, and the front leaves on every output in use (R390, R391); an
M-tile's stash is written back and invalidated (R272). -/
def Inst.act (i : Inst) (tk : Nat) : Inst :=
  match getT i.tiles tk with
  | none => i
  | some t =>
    ((List.range 24).filter fun p => epV (i.img.ep tk p) && !isInput p).foldl
      (fun i p => i.forward (epCh (i.img.ep tk p)) .front) (i.setTile tk { t with acted := true, stash := [] })

/-- TILE_ACT (R390): arguments name the instance and the tile. -/
def execTileAct (s : State) : Out :=
  let k := s.arg 0
  let tk := s.arg 1
  .next (match s.part (k / 8), s.inst k with
  | some x, some i =>
    if x.front.isNone || decide (x.cur ≠ k % 8) then s
    else match getT i.tiles tk with
      | some t => if mayAct s k tk i t then s.modInst k fun i => i.act tk else s
      | none => s
  | _, _ => s)

/-! ### The end of a sweep (R150, R374, R393, R396 to R398) -/

/-- Whether a tile has acted and every front has arrived at it, so that its place is free for the next occupant's
(R393). -/
def Tile.swept (i : Inst) (tk : Nat) (t : Tile) : Bool :=
  t.acted && (List.range 24).all fun p => !epV (i.img.ep tk p) || !isInput p || t.fronts.contains p
/-- Whether every front has arrived and every token of the control network has been carried (R393,
R397). -/
def sweptAll (i : Inst) : Bool := i.lineMsgs.isEmpty && i.tiles.all fun e => e.2.swept i e.1

/-- The WAITA records of an occupant are saved, and their monitors freed (R374, R396). -/
def saveWaits (s : State) (p occ : Nat) : State :=
  let mine (e : Nat × Nat × Nat) : Bool := decide (e.1 = p) && match s.part p with
    | some x => (match (getTD x.pool e.2.1 {}).rc with | some r => decide (occOf r.inst = occ) | none => false)
    | none => false
  let l := s.mons.flatMap fun t => t.2.flatMap fun m => m.parked.filter mine
  let s := { s with mons := mapT (fun _ t => (t.map fun (m : Monitor) => { m with parked := m.parked.filter fun (e : Nat × Nat × Nat) => !mine e }).filter fun m => !m.parked.isEmpty) s.mons }
  s.modPart p fun x => { x with wsaved := x.wsaved ++ l.map fun (e : Nat × Nat × Nat) => (occ, e.2.1, e.2.2) }
/-- The saved WAITA records of an occupant become runnable once each (R374, R398). -/
def wakeWaits (s : State) (p occ : Nat) : State :=
  match s.part p with
  | none => s
  | some x =>
    wakeAll (s.setPart p { x with wsaved := x.wsaved.filter fun (e : Nat × Nat × Nat) => decide (e.1 ≠ occ) })
      ((x.wsaved.filter fun (e : Nat × Nat × Nat) => decide (e.1 = occ)).map fun e => (p, e.2.1, e.2.2))

/-- The slices that a partition's control area takes (R267): its M-tiles, C-tiles and A-tiles follow from
its rectangle. -/
def cslOf (x : Part) (cores : Nat) : Nat :=
  let half := 32 * x.bw * x.bh
  let a := 8 * x.bh * (b2n (decide (x.bx = 0)) + b2n (decide (x.bx + x.bw = 8)))
  let c := ((List.range 128).filter fun n => bit cores n).length
  cdiv (2 ^ 29 + x.occs * (2 ^ 21 * c + (2 ^ 20 + 2 ^ 16) * half + 2 ^ 19 * half + 2 ^ 16 * a)) (2 ^ 30)
/-- The fields of a PDEF or PRESIZE block (R146). -/
def Part.sized (x : Part) (w : List Word) (slices : Nat) : Part :=
  let t (i : Nat) : Nat := (w.getD i 0).toNat
  let y := { x with byy := fld (t 1) 15 12, bx := fld (t 1) 10 8, bw := fld (t 1) 18 16 + 1, bh := fld (t 1) 23 20 + 1,
                    colours := t 2, slices := slices, cores := t 4 + t 5 * 2 ^ 64, occs := t 6 + 1 }
  { y with csl := cslOf y y.cores }
/-- The call number of a block. -/
def Call.num (c : Call) : Nat := (c.words.getD 0 0).toNat % 256
/-- The partition as a PRESIZE that is under way will leave it (R147). -/
def State.resizing (s : State) (p : Nat) : Option Part :=
  match s.callList hostQueue with
  | c :: _ =>
    if c.num = 0x1C ∧ c.phase ≠ 0 ∧ (c.words.getD 1 0).toNat % 16 = p then
      (s.part p).map fun x => x.sized c.words (ofWords (c.work.map fun n => BitVec.ofNat 64 n))
    else none
  | [] => none
/-- The origin of an image in a partition's rectangle (R156). -/
def originOf (x : Part) (img : Image) : Nat × Nat :=
  ((if bit img.edge 0 || decide (img.edge = 0) then 8 * x.bx else 8 * (x.bx + x.bw - img.bw)), 8 * x.byy)
/-- The core that takes over an occupant slot's port files from a core that leaves: the first whose own are unused, else
the first (DESIGN CHOICE, log entry 24). -/
def portHome (s : State) (new occ : Nat) : Nat :=
  let l := (List.range 128).filter fun m => bit new m
  (l.find? fun m => (getT (s.core m).ports occ).isNone).getD (l.headD 0)
/-- Port files joined: what one holds stands behind what the other holds. -/
def PortFile.join (f g : PortFile) : PortFile :=
  let cat (a b : Tab (List Word)) : Tab (List Word) := b.foldl (fun t e => putT t e.1 (getTD t e.1 [] ++ e.2)) a
  { vs := cat g.vs f.vs, vk := cat g.vk f.vk
    ac := f.ac.foldl (fun t e => if (getT t e.1).isSome then t else putT t e.1 e.2) g.ac }
/-- An occupant slot's port files, its saved runs and its commands move from core n to core m (R150, R398). A WAITA request
under way keeps its core, which decides where its record is pushed (R177). -/
def moveFiles (s : State) (p n m occ : Nat) : State :=
  let mine (k : Nat) (inst : Nat) : Bool := decide (k = n) && decide (partOf inst = p) && decide (occOf inst = occ)
  let s := match getT (s.core n).ports occ with
    | none => s
    | some f =>
      let s := s.setCore n { s.core n with ports := delT (s.core n).ports occ }
      s.setCore m { s.core m with ports := putT (s.core m).ports occ (f.join (getTD (s.core m).ports occ {})) }
  let s : State := { s with
    cmds := s.cmds.map fun (c : Cmd) => if mine c.core c.num then { c with core := m } else c
    pends := s.pends.map fun (q : Pend) => if mine q.core q.inst && !q.act.waits then { q with core := m } else q }
  s.modPart p fun x =>
    { x with saved := x.saved.map fun v => if mine v.core v.run.rc.inst then { v with core := m } else v }
/-- Cores leave a partition: the records on their deques go to the injection queue, their port files to other cores,
and their L1s are empty (R150, R273, R398; log entry 24). -/
def rehome (s : State) (p : Nat) (old new : Nat) : State :=
  (List.range 128).foldl (fun s n =>
    if bit old n && !bit new n then
      let c := s.core n
      let l := c.deques.flatMap fun d => d.2.spill ++ d.2.hw
      let s := (l ++ c.held).foldl (fun s r => runnable s p none r) (s.setCore n { c with deques := [], held := [] })
      let s := (List.range 8).foldl (fun s occ => moveFiles s p n (portHome s new occ) occ) s
      { s with caches := { s.caches with l1 := delT s.caches.l1 n } }
    else s) s
/-- The rim stops of a partition's A-tiles, by side × 128 + module row (R149). -/
def Part.stops (x : Part) : List Nat :=
  (List.range (8 * x.bh)).flatMap fun y =>
    (if x.bx = 0 then [8 * x.byy + y] else []) ++ (if x.bx + x.bw = 8 then [128 + 8 * x.byy + y] else [])
/-- The rim routes of a partition are written anew: those of its A-tiles' stops (R149). -/
def State.setRim (s : State) (p : Nat) (x : Part) : State :=
  { s with rim := x.stops.foldl (fun t a => putT t a p) (s.rim.filter fun e => decide (e.2 ≠ p)) }
/-- The full-empty bits of HBM slices that a bitmap names are empty (R359). -/
def emptySlices (bitmap : Nat) (modnum : Nat) (l : List Nat) : List Nat :=
  l.filter fun a => !(decide (gaKind a = 0) && decide (gaModule a = modnum) && bit bitmap (fld a 39 30))
/-- Writes back and invalidates every line of some colours in the L2s, and in the L1s that they include
(R277). -/
def dropColours (s : State) (colours : Nat) : State :=
  let gone (ga : Nat) : Bool := (decide (gaKind ga = 0) || decide (gaKind ga = 4)) && bit colours (colourOf ga)
  { s with caches := { s.caches with
      l1 := mapT (fun _ l => l.filter fun x => !gone x.ga) s.caches.l1
      l2 := mapT (fun _ l => l.filter fun y => !gone y.ga) s.caches.l2 } }
/-- The A-tile columns that an image owns at a mesh column (R10, R321). -/
def Image.sides (i : Image) (x0 : Nat) : List Nat := (if x0 = 0 then [0x40] else []) ++ (if x0 + 8 * i.bw = 64 then [0x41] else [])
/-- The A-tile column to which the state of one goes as its instance moves from one mesh column to another (DESIGN CHOICE,
log entry 24). -/
def Image.sideTo (i : Image) (x1 d : Nat) : Option Nat := if (i.sides x1).contains d then some d else (i.sides x1).head?
/-- An instance at a new origin: its M- and C-tiles as they are, and the A-tiles that it owns there (R150, R321). -/
def Inst.moveTo (i : Inst) (o : Nat × Nat) : Inst :=
  let edge := (List.range (8 * i.img.bh)).flatMap fun y => (i.img.sides o.1).map fun c =>
    (tkey y c, (((i.img.sides i.x0).find? fun d => decide (i.img.sideTo o.1 d = some c)).bind fun d => getT i.tiles (tkey y d)).getD { woken := true })
  { i with x0 := o.1, y0 := o.2, tiles := edge.foldl (fun t e => putT t e.1 e.2) (i.tiles.filter fun t => decide (t.1 % 128 < 0x40)) }
/-- An accepted command goes with its A-tile; one whose instance owns none any more stops (R321; DESIGN CHOICE, log entry
24). -/
def moveCmds (s : State) (k : Nat) (img : Image) (x1 : Nat) : State :=
  (s.cmds.filter fun c => decide (c.key = k)).foldl (fun s c => match img.sideTo x1 (c.pos % 128) with
    | some d => s.setCmd { c with pos := tkey (c.pos / 128) d }
    | none => stopCmd s c cACCESS 0 0) s
/-- A PRESIZE takes effect once every occupant is saved (R150). The first 16 words of `w` are the slice
bitmap, the rest the call's block. -/
def resize (s : State) (p : Nat) (x : Part) (w : List Word) : State :=
  let y := { x.sized (w.drop 16) (ofWords (w.take 16)) with front := none }
  let s := (s.setPart p y).setRim p y
  let s := (s.insts.filter fun e => decide (e.1 / 8 = p)).foldl (fun s e =>
    (moveCmds s e.1 e.2.img (originOf y e.2.img).1).setInst e.1 (e.2.moveTo (originOf y e.2.img))) s
  let s := { s with full := emptySlices (y.slices ^^^ (y.slices &&& x.slices)) s.boot.modnum s.full }
  rehome (dropColours s (x.colours ^^^ (x.colours &&& y.colours))) p x.cores y.cores
/-- The stash of every tile of an instance is written back and given up (R272). -/
def Inst.noStash (i : Inst) : Inst := { i with tiles := mapT (fun _ t => { t with stash := [] }) i.tiles }

/-- SWEEP_COMPLETE (R150, R397, R398): argument 0 names the partition. Once every tile has acted and the
cores hold no run of the occupant, the next one takes the rectangle: after a PRESIZE the same, or slot 0 where its slot is
gone (DESIGN CHOICE, log entry 15). -/
def execSweepComplete (s : State) : Out :=
  let p := s.arg 0
  .next (match s.part p with
  | none => s
  | some x => match x.front with
    | none => s
    | some f =>
      let swept := match s.inst (p * 8 + x.cur) with
        | some i => sweptAll i
        | none => true
      let busy := (List.range 128).any fun n => bit x.cores n && (s.core n).run.isSome
      if !swept || busy then s
      else
        let s := (saveWaits s p x.cur).modInst (p * 8 + x.cur) Inst.noStash
        let s := match s.part p, f.presize with
          | some y, some w => resize s p y w
          | _, _ => s
        let dst := match s.part p with | some y => if f.dst < y.occs then f.dst else 0 | none => f.dst
        let s := s.modPart p fun y => { y with front := none, cur := dst }
        let s := s.modInst (p * 8 + dst) fun i => (if f.dst = x.cur then restore i else i).edgesWake
        wakeStreams (wakeWaits (beginSlice s p) p dst) p)

/-- A partition's tiles that wait for a wave step, in row-major order: each as module row, module column, and whether it
belongs to the occupant that comes in behind a front. That one's tile waits for its place to be free (R17, R19). -/
def gatedTiles (s : State) (p : Nat) : List Nat :=
  let tiles (k : Nat) (b : Nat) (ok : Inst → Nat → Bool) : List Nat := match s.inst k with
    | some i => (i.tiles.filter fun t => !t.2.woken && !t.2.acted && decide (t.1 % 128 < 0x40) && ok i t.1).map fun t =>
        ((i.y0 + t.1 / 128) * 128 + i.x0 + t.1 % 128) * 2 + b
    | none => []
  match s.part p with
  | none => []
  | some x =>
    let free (d : Inst) (tk : Nat) : Bool := match s.inst (p * 8 + x.cur) with
      | some i =>
        let px := d.x0 + tk % 128
        let py := d.y0 + tk / 128
        if px < i.x0 ∨ py < i.y0 then true
        else (match getT i.tiles (tkey (py - i.y0) (px - i.x0)) with
          | some t => t.swept i (tkey (py - i.y0) (px - i.x0))
          | none => true)
      | none => true
    ((tiles (p * 8 + x.cur) 0 fun _ _ => true) ++ (match x.front with
      | some f => if f.dst = x.cur then [] else tiles (p * 8 + f.dst) 1 free
      | none => [])).foldl (fun l a => insN a l) []
/-- The kind of a gated tile (R80). -/
def gatedKind (s : State) (p : Nat) (x : Part) (a : Nat) : Nat :=
  match s.inst (p * 8 + if a % 2 = 0 then x.cur else match x.front with | some f => f.dst | none => x.cur) with
  | some i => i.img.kind (tkey (a / 256 - i.y0) (a / 2 % 128 - i.x0))
  | none => 2
/-- WAVE_STEP (R17 to R19): 100 cycles after the last, one rectangle releases its first 32 gated C-tiles and 32 gated
M-tiles in row-major order, and they take tokens 100 cycles later; steps go round the partitions. A tile beyond its kind's 32
holds back no later tile of the other kind (DESIGN CHOICE, log entry 17). -/
def execWaveStep (s : State) : Out :=
  .next (if (match s.boot.waveAt with | some t => decide (s.cyc < t + 100) | none => false) then s
  else match ((List.range 12).map fun j => (s.boot.waveRot + j) % 12).find? fun p => !(gatedTiles s p).isEmpty with
  | none => s
  | some p => match s.part p with
    | none => s
    | some x =>
      let l := gatedTiles s p
      let g := (l.filter fun a => decide (gatedKind s p x a = 0)).take 32 ++ (l.filter fun a => decide (gatedKind s p x a = 1)).take 32
      let wake (b k : Nat) (s : State) : State := s.modInst k fun i =>
        let mine (tk : Nat) : Bool := decide (tk % 128 < 0x40) && g.contains (((i.y0 + tk / 128) * 128 + i.x0 + tk % 128) * 2 + b)
        { i with tiles := mapT (fun tk t => if mine tk then { t with woken := true, takesAt := s.cyc + 100 } else t) i.tiles }
      let s := wake 0 (p * 8 + x.cur) s
      let s := match x.front with | some f => wake 1 (p * 8 + f.dst) s | none => s
      { s with boot := { s.boot with waveRot := (p + 1) % 12, waveAt := some s.cyc } })

end Sys2Proof.Machine
end

