-- ==== Sys2Proof/Machine/Launch.lean ====
section
/-!
DEFINITION. Launching and retiring (R85, R131 to R142, R155 to R158, R402 to R405): ingress ports,
acceptance, parking, placement, loading, the start of an instance, and its completion.
-/
namespace Sys2Proof.Machine

/-! ### Ingress ports (R133 to R135) -/

/-- An ingress port. -/
def State.port (s : State) (n : Nat) : IPort := getTD s.ports n {}
/-- Replaces it. -/
def State.setPort (s : State) (n : Nat) (x : IPort) : State := { s with ports := putT s.ports n x }
/-- Counts a discarded store or packet (R133). -/
def IPort.drop (x : IPort) : IPort := { x with drops := min (x.drops + 1) 0xFFFF }
/-- The VF whose enabled port this is, behind a host port that serves it (R39, R125, R133). -/
def portVf (s : State) (hport port : Nat) : Option (Nat × Vf) :=
  match getT s.vfs (port / 4) with
  | some v => if v.hport = hport ∧ port % 4 < v.nports ∧ v.closing = none ∧ s.ideUp hport = true then some (port / 4, v) else none
  | none => none
/-- One token arrives (R134). -/
def IPort.token (x : IPort) (w : Word) : IPort :=
  if x.toks.length = 7 then { x with toks := [], full := x.full ++ [x.toks ++ [w]] } else { x with toks := x.toks ++ [w] }
/-- The words of a list of bytes. -/
def wordsOfBytes (l : List Nat) : List Word := wordsN (l.length / 8) (ofBytes (l.map fun b => BitVec.ofNat 8 b))

/-- The word that a host load of IPST or IPSEQ returns (R133); a reserved offset reads as 0 (R5). -/
def IPort.word (x : IPort) (off : Nat) : Nat :=
  if off = 0x40 then x.drops * 2 ^ 16 + (16 - x.full.length) * 2 ^ 8 + x.toks.length
  else if off = 0x48 then x.eseq
  else 0

/-- INGRESS_STORE (R134): `data` are the bytes stored. A full port withholds the store. The page's read-only and reserved
offsets beyond the window ignore it (R5, R133); a store to IPSEQ is IPSEQ_WRITE. -/
def execIngressStore (hostport port offset : Nat) (data : List Nat) (s : State) : Out :=
  .next (match portVf s hostport port with
  | none => s
  | some _ =>
    let x := s.port port
    if 16 ≤ x.full.length ∨ 64 ≤ offset then s
    else if data.length = 64 ∧ offset = 0 ∧ x.toks = [] then s.setPort port { x with full := x.full ++ [wordsOfBytes data] }
    else if data.length = 8 ∧ offset = 8 * x.toks.length then s.setPort port (x.token ((wordsOfBytes data).getD 0 0))
    else if data.length = 8 ∧ offset = 0 then s.setPort port ({ x.drop with toks := [] }.token ((wordsOfBytes data).getD 0 0))
    else s.setPort port x.drop)

/-- IPSEQ_WRITE (R133). -/
def execIpseqWrite (hostport port value : Nat) (s : State) : Out :=
  .next (match portVf s hostport port with
  | none => s
  | some _ => s.setPort port { s.port port with eseq := value % 2 ^ 32, toks := [], drops := 0 })

/-! ### Acceptance (R135, R137, R138, R142) -/

/-- A packet ends without an instance; a child then counts as retired (R132, R141). -/
def packetEnds (s : State) (pk : Packet) (status detail : Nat) : State := childGone (packetDone s pk status detail) pk.par
/-- An accepted packet meets the binding table of its VF (R137, R138). -/
def accept_ (s : State) (pk : Packet) : State :=
  match getT s.vfs pk.vf with
  | none => s
  | some v => match getT v.table pk.cfg with
    | some b => s.modPart v.part fun x => { x with queue := enqueue { pk with bind := some b } x.queue }
    | none =>
      if v.park.length < 256 then { s with vfs := putT s.vfs pk.vf { v with park := v.park ++ [{ pk with until_ := s.cyc + v.timeout }] } }
      else packetEnds s pk 1 0
/-- PACKET_ACCEPTANCE (R132, R135): argument 0 names the ingress port. A port without IDE accepts nothing (R39). -/
def execPacketAcceptance (s : State) : Out :=
  let n := s.arg 0
  let x := s.port n
  .next (match getT s.vfs (n / 4), x.full with
  | some v, w :: l =>
    let pk := mkPacket w (n / 4) false
    let room := match s.part v.part with | some y => y.room | none => false
    if !room || !s.ideUp v.hport then s
    else match pk.rsv with
    | some t =>
      let y := { x with full := l, eseq := (x.eseq + 1) % 2 ^ 32 }
      if cgaOk pk.cga then packetEnds (s.setPort n y) pk 3 t else s.setPort n y.drop
    | none =>
      if !cgaOk pk.cga then s.setPort n { x with full := l, eseq := (x.eseq + 1) % 2 ^ 32 }.drop
      else
        let s1 := s.setPort n { x with full := l, eseq := (pk.seq + 1) % 2 ^ 32 }
        if pk.seq ≠ x.eseq then packetEnds s1 pk 4 (x.eseq % 256) else accept_ s1 pk
  | _, _ => s)

/-- CHILD_ACCEPTANCE (R141, R142): argument 0 names the VF. A child whose CGA can receive no record has no ingress port
that could count it: it is discarded uncounted, and its parent loses the child (DESIGN CHOICE, log entry 50). -/
def execChildAcceptance (s : State) : Out :=
  let n := s.arg 0
  .next (match getT s.vfs n with
  | none => s
  | some v => match v.kids with
    | [] => s
    | pk :: l =>
      let room := match s.part v.part with | some y => y.room | none => false
      if !room then s
      else
        let s := { s with vfs := putT s.vfs n { v with kids := l } }
        if v.closing.isSome then packetEnds s pk 5 0
        else if !cgaOk pk.cga then childGone s pk.par
        else match pk.rsv with
          | some t => packetEnds s pk 3 t
          | none => accept_ s pk)

/-- BINDING_TIMEOUT (R138): argument 0 names the VF. -/
def execBindingTimeout (s : State) : Out :=
  let n := s.arg 0
  .next (match getT s.vfs n with
  | none => s
  | some v =>
    let due (q : Packet) : Bool := q.bind.isNone && decide (q.until_ ≤ s.cyc)
    match v.park.find? due with
    | none => s
    | some q => packetEnds { s with vfs := putT s.vfs n { v with park := delFirst due v.park } } q 1 0)

/-! ### Loading (R85, R88, R157, R404) -/

/-- The narrow priming values of a tile: value i (R85). -/
def Image.prime (i : Image) (tk n : Nat) : Word := BitVec.ofNat 64 (fld (i.frame (25 + n / 4) tk) (64 * (n % 4) + 63) (64 * (n % 4)))
/-- The priming tokens of the input ports from a list, given how many narrow values are used (R85). -/
def primeFifos (i : Image) (tk : Nat) : List Nat → Nat → Tab (List Tok)
  | [], _ => []
  | p :: l, used =>
    let e := i.ep tk p
    if !epV e || !isInput p then primeFifos i tk l used
    else if isWide p then (p, List.replicate (epInit e) (.wide zeroLanes 0)) :: primeFifos i tk l used
    else (p, (List.range (epInit e)).map fun k => .narrow (i.prime tk (used + k)) 0) :: primeFifos i tk l (used + epInit e)
/-- The demand of the output ports at load: DEPTH − INIT of the channel's consumer (R85). -/
def startDemand (i : Image) (tk : Nat) : Tab Nat :=
  ((List.range 24).filter fun p => epV (i.ep tk p) && !isInput p).map fun p =>
    (p, match i.endOf (epCh (i.ep tk p)) true with
      | some (ck, cp) => epDepth (i.ep ck cp) - epInit (i.ep ck cp)
      | none => 0)
/-- The chains of a tile at load: START = 8 is RUNNING (R88, R404). -/
def startChains (i : Image) (tk : Nat) : Tab Chain :=
  ((List.range 4).filter fun k => i.hasChain tk k && decide (i.chainStart tk k = 8)).map fun k => (k, { running := true, ran := true })
/-- Sets FIFOs, demand and chains as at load (R85, R88). -/
def Tile.primed (t : Tile) (i : Image) (tk : Nat) : Tile :=
  { t with fifo := primeFifos i tk (List.range 24) 0, demand := startDemand i tk, chains := startChains i tk, saved := [], kv := [] }
/-- The preload frames of a tile, in order: the SRAM address and the 32 bytes (R78). -/
def Image.preload (i : Image) (tk : Nat) : List (Nat × Nat) :=
  (i.frames.filter fun f => decide (f.1 % 2 ^ 14 = tk) && decide (64 ≤ f.1 / 2 ^ 14)).map fun f => (32 * (f.1 / 2 ^ 14 - 64), f.2)
/-- A tile as it is loaded. -/
def loadTile (i : Image) (tk : Nat) : Tile :=
  let w := i.frame 27 tk
  let t : Tile := { woken := decide (0x40 ≤ tk % 128) }
  let t := t.primed i tk
  match i.kind tk with
  | 0 => { t with prec := fld w 19 0 }
  | 1 => { t with
      limit := fld w 223 192
      sram := (i.preload tk).foldl (fun m f => memWrite m f.1 32 f.2) []
      full := (i.preload tk).foldl (fun l f => [0, 8, 16, 24].foldl (fun l k => insN (f.1 + k) l) l) [] }
  | _ => t
/-- The tiles of an image at an origin: those with a frame 0, and every A-tile that the instance owns
(R80, R157, R321). -/
def loadTiles (i : Image) (x0 : Nat) : Tab Tile :=
  let named := (i.frames.filter fun f => decide (f.1 < 2 ^ 14)).map (·.1)
  let edge := (List.range (8 * i.bh)).flatMap fun y =>
    (if x0 = 0 then [tkey y 0x40] else []) ++ (if x0 + 8 * i.bw = 64 then [tkey y 0x41] else [])
  named.map (fun tk => (tk, loadTile i tk)) ++ (edge.filter fun tk => !named.contains tk).map fun tk => (tk, { woken := true })

/-- The K-words of the resident instances of a partition (R157). -/
def codeUsed (s : State) (p : Nat) : Nat := s.insts.foldl (fun a e => if e.1 / 8 = p then a + e.2.img.words else a) 0
/-- The idle KEEP-resident instance of a partition that has been idle longest (R155). -/
def longestIdle (s : State) (p : Nat) : Option Nat :=
  (s.insts.foldl (fun (a : Option (Nat × Nat)) e =>
    if e.1 / 8 = p ∧ e.2.phase = .idle then
      match a with
      | some (k, t) => if e.2.idleAt < t then some (e.1, e.2.idleAt) else some (k, t)
      | none => some (e.1, e.2.idleAt)
    else a) none).map (·.1)
/-- What an attempt to load an image leads to: a slot that can take it now, or a step towards one. -/
inductive Place where
  | ready (s : State) (k : Nat)
  | wait (s : State)
/-- Finds a slot for an image (R155, R157, R389): a free slot, any of several (DESIGN CHOICE, log entry 2), or the slot
of the longest idle instance; a slot that does not hold the rectangle takes it by a front, and the load follows that
front tile by tile (R19). A PRESIZE under way leaves no slot beyond its own number (R150). -/
def place (s : State) (p : Nat) (b : Binding) : Place :=
  match s.part p with
  | none => .wait s
  | some x =>
    let occs := match s.resizing p with | some y => min x.occs y.occs | none => x.occs
    let free := (List.range occs).filter fun k => (s.inst (p * 8 + k)).isNone
    let evict := match longestIdle s p with
      | some k => unload s k
      | none => s
    if x.front.isSome then .wait s
    else match x.placing with
    | some k =>
      if !free.contains k then .wait (s.setPart p { x with placing := none })
      else if 65536 < codeUsed s p + b.img.words then .wait evict
      else if x.cur ≠ k then .ready (startFront s p { x with placing := none } k) k
      else .ready (s.setPart p { x with placing := none }) k
    | none =>
      let f := s.free
      match free[f.1 % free.length]? with
      | some k => .wait (f.2.modPart p fun x => { x with placing := some k })
      | none => .wait evict

/-- The number of a new instance (R42), and the partition with its serial advanced. -/
def newNum (p k : Nat) (x : Part) : Nat × Part :=
  (p * 2 ^ 28 + k * 2 ^ 25 + x.serial % 2 ^ 25, { x with serial := (x.serial + 1) % 2 ^ 25 })
/-- Loads an instance of a packet into the slot that holds the rectangle, or that takes it by the front under way (R156,
R157). The slice of a slot that holds the rectangle goes on (R389), and counts its products from 0, as its BPC does
(R165). -/
def loadInst (s : State) (p k : Nat) (x : Part) (b : Binding) (pk : Packet) (keep : Bool) : State :=
  let n := newNum p k x
  let o := originOf x b.img
  let i : Inst :=
    { num := n.1, part := p, occ := k, vf := pk.vf, cfg := pk.cfg, bindId := b.id, img := b.img, x0 := o.1, y0 := o.2
      phase := .loading, keep := keep, argva := pk.argva, cga := if keep then none else some pk.cga, cval := pk.cval
      parent := pk.par, child := pk.child, tiles := loadTiles b.img o.1 }
  if x.cur = k then (s.setPart p { n.2 with sliceBpc := 0 }).setInst (p * 8 + k) i
  else (s.setPart p n.2).setInst (p * 8 + k) { i with tiles := mapT (fun _ t => { t with woken := false }) i.tiles }
/-- The first record of an instance (R131). -/
def entryRec (i : Inst) : Rec :=
  { arg := i.argva, fp := i.argva, inst := i.num, ascope := if i.child then .mod else .sys, afirst := true, code := i.img.entry }
/-- An idle instance serves a packet (R404). -/
def reuse (s : State) (p k : Nat) (x : Part) (pk : Packet) : State :=
  match s.inst (p * 8 + k) with
  | none => s
  | some i =>
    let n := newNum p k x
    let i : Inst :=
      { i with num := n.1, vf := pk.vf, cfg := pk.cfg, phase := .running, keep := false, argva := pk.argva, cga := some pk.cga
               cval := pk.cval, parent := pk.par, child := pk.child, kids := 0, firstFault := none
               tiles := mapT (fun tk t => t.primed i.img tk) i.tiles, links := [] }
    runnable ((s.setPart p n.2).setInst (p * 8 + k) i) p none (entryRec i)

/-- Whether a tile of a loading instance is gated, or has left gating so lately that it takes no tokens (R17). -/
def Inst.gated (i : Inst) (now : Nat) : Bool := i.tiles.any fun t => !t.2.woken || decide (now < t.2.takesAt)
/-- Whether an ENTRY record can enter the injection queue: records that the device holds for it go first (R175, R176). -/
def Part.entryRoom (x : Part) : Bool := decide (x.inj.length < 1024) && x.ready.isEmpty && x.rheld.isEmpty
/-- Whether a partition's placement queue waits behind an instance that has finished loading and waits to start (R175). -/
def placementWaits (s : State) (p : Nat) (x : Part) : Bool :=
  !x.entryRoom && s.insts.any fun e => decide (e.1 / 8 = p) && decide (e.2.phase = .loading) && !e.2.keep && !e.2.gated s.cyc
/-- PLACEMENT (R155): argument 0 names the partition; the head of its queue is placed, or takes a step
towards its place. While a front is under way it waits, be it for an idle instance that the front may sweep (R390, R404). -/
def execPlacement (s : State) : Out :=
  let p := s.arg 0
  .next (match s.part p with
  | none => s
  | some x => if placementWaits s p x then s else match x.queue with
    | [] => s
    | pk :: l => match pk.bind with
      | none => s
      | some b =>
        match (List.range x.occs).find? fun k => match s.inst (p * 8 + k) with
            | some i => decide (i.phase = .idle) && decide (i.cfg = pk.cfg) && decide (i.bindId = b.id)
            | none => false with
        | some k => if x.entryRoom && x.front.isNone then unpark (reuse s p k { x with queue := l } pk) p else s
        | none => match place s p b with
          | .wait s => s
          | .ready s k => match s.part p with
            | some x => unpark (loadInst s p k { x with queue := l } b pk false) p
            | none => s)

/-- INSTANCE_START (R157, R158, R175): argument 0 names the instance. Its ENTRY record enters the injection queue once its
last tile has left gating and the queue has room; a preloaded instance becomes idle. -/
def execInstanceStart (s : State) : Out :=
  let k := s.arg 0
  .next (match s.inst k with
  | none => s
  | some i =>
    if i.phase ≠ .loading ∨ i.gated s.cyc = true then s
    else if i.keep then s.setInst k { i with phase := .idle, idleAt := s.cyc }
    else match s.part (k / 8) with
      | some x => if x.entryRoom then runnable (s.setInst k { i with phase := .running }) (k / 8) none (entryRec i) else s
      | none => s)

/-! ### Completion (R402, R403) -/

/-- An instance as its channels stand: those of a tile that has acted are saved, and their demand will be what is saved
(R398). -/
def Inst.settled (i : Inst) : Inst := { i with tiles := mapT (fun tk t => if t.acted then deriveDemand i tk t else t) i.tiles }
/-- Whether no token and no request is in flight on a link; the front is no token (R390), and a request that reaches a tile
after it has acted counts no more (R398). -/
def linkStill (i : Inst) (ch : Nat) (l : Link) : Bool :=
  (l.fwd.all fun m => decide (m = .front)) && (decide (l.req = 0) || match i.img.endOf ch false with
    | some (tk, _) => (match getT i.tiles tk with | some t => t.acted | none => true)
    | none => true)
/-- Whether no actor of a tile fires or can fire, its chains are IDLE, nothing of it is frozen, and its
engines and patterns are finished (R402). -/
def tileQuiet (i : Inst) (tk : Nat) (t : Tile) : Bool :=
  t.firing.isNone && t.frozen.isNone && t.mq.isEmpty && t.eddy.isEmpty && t.kv.isEmpty &&
  ((List.range 8).all fun k => !eligible i.img tk t k) &&
  (t.chains.all fun c => !c.2.running && decide (c.2.pending = 0)) &&
  (t.pats.all fun p => p.2.base.isNone && p.2.accs.isEmpty && p.2.ends.isEmpty && p.2.frozen.isNone)
/-- Whether the channels of a tile are settled (R402). -/
def tileSettled (i : Inst) (tk : Nat) (t : Tile) : Bool :=
  (List.range 24).all fun p =>
    let e := i.img.ep tk p
    !epV e || (if isInput p then epFb e || (t.fifoOf p).isEmpty
      else match i.img.endOf (epCh e) true with
        | some (ck, cp) => decide (t.demandOf p = epDepth (i.img.ep ck cp) - (match getT i.tiles ck with | some c => (c.fifoOf cp).length | none => 0))
        | none => true)
/-- Whether no record and no run of an instance remains (R402). -/
def recordsDone (s : State) (p num : Nat) (x : Part) : Bool :=
  let no : Rec → Bool := fun r => !ofInst num r
  (s.cores.all fun c => (match c.2.run with | some r => decide (r.rc.inst ≠ num) | none => true) && c.2.held.all no &&
    c.2.deques.all fun d => d.2.spill.all no && d.2.hw.all no) &&
  x.inj.all no && x.ready.all no && x.rheld.all no && (x.pool.all fun e => match e.2.rc with | some r => no r | none => true) &&
  (x.saved.all fun v => decide (v.run.rc.inst ≠ num)) && (x.posts.all fun q => match q.cont with | some r => no r | none => true) &&
  (s.pends.all fun q => decide (q.part ≠ p) || decide (q.inst ≠ num))
/-- Whether an instance is complete (R402), be it in its rectangle, swept by a front or out. -/
def complete_ (s : State) (p : Nat) (x : Part) (i : Inst) : Bool :=
  decide (i.phase = .running) && decide (i.kids = 0) && i.lineMsgs.isEmpty && (i.links.all fun l => linkStill i l.1 l.2) &&
  (i.settled.tiles.all fun t => tileQuiet i.settled t.1 t.2 && tileSettled i.settled t.1 t.2) && recordsDone s p i.num x &&
  (s.cmds.all fun c => decide (c.num ≠ i.num))
/-- Whether an instance's image is still the one its CFGID is bound to (R139). -/
def isCurrent (s : State) (i : Inst) : Bool :=
  match getT s.vfs i.vf with
  | some v => (match getT v.table i.cfg with | some b => decide (b.id = i.bindId) | none => false)
  | none => false

/-- INSTANCE_COMPLETE (R402 to R405): argument 0 names the instance. -/
def execInstanceComplete (s : State) : Out :=
  let k := s.arg 0
  .next (match s.inst k, s.part (k / 8) with
  | some i, some x =>
    if !complete_ s (k / 8) x i then s
    else
      let s := s.setPart (k / 8) { x with caravans := x.caravans.filter fun c => decide (c.2.inst ≠ i.num) }
      let i1 := { i with tiles := mapT (fun _ t => { t with stash := [] }) i.tiles, lines := [], ctreqs := [] }
      let s := childGone (complRecord (s.setInst k i1) i.cga i.cval 0 0 i.num) i.parent
      if i.keep && isCurrent s i then s.modInst k fun j => { j with phase := .idle, idleAt := s.cyc, parent := none }
      else unload s k
  | _, _ => s)

end Sys2Proof.Machine
end

