-- ==== Sys2Proof/Machine/Service.lean ====
section
/-!
DEFINITION. The service unit's calls (R125, R143 to R145): how a call is submitted, read, checked,
performed and answered.
-/
namespace Sys2Proof.Machine

/-! ### Status codes (R143) -/

/-- SVC_OK. -/
abbrev vOK : Nat := 0
/-- SVC_ARG. -/
abbrev vARG : Nat := 1
/-- SVC_BUSY. -/
abbrev vBUSY : Nat := 2
/-- SVC_PERM. -/
abbrev vPERM : Nat := 3
/-- SVC_NOCALL. -/
abbrev vNOCALL : Nat := 4
/-- SVC_RANGE. -/
abbrev vRANGE : Nat := 5
/-- SVC_STATE. -/
abbrev vSTATE : Nat := 6
/-- SVC_IMAGE. -/
abbrev vIMAGE : Nat := 7
/-- OASIS_QUOTA. -/
abbrev vQUOTA : Nat := 8

/-! ### Addresses (R125, R144) -/

/-- The global address of host memory behind a port (R266). -/
def hostGa (s : State) (port a : Nat) : Nat := s.boot.modnum * 2 ^ 50 + 4 * 2 ^ 46 + port * 2 ^ 45 + a
/-- A piece of a buffer: its global address, its length, its VA, and its page. -/
abbrev Piece := Nat × Nat × Nat × Option Page
/-- The pieces of a buffer in a partition's ordinary space, page by page, if all of it is reachable
(R144); the first argument bounds the pages. -/
def argPieces (x : Part) (rd wr : Bool) : Nat → Nat → Nat → Option (List Piece)
  | 0, _, n => if n = 0 then some [] else none
  | f + 1, va, n =>
    if n = 0 then some []
    else if 2 ^ 57 ≤ va then none
    else match translate x va rd wr with
    | .error _ => none
    | .ok (ga, q) =>
      if gaKind ga = 2 ∨ gaKind ga = 3 then none
      else
        let k := min n (q.va + q.size - va)
        match argPieces x rd wr f (va + k) (n - k) with
        | none => none
        | some l => some ((ga, k, va, some q) :: l)

/-- A call under execution: its queue and its entry, whose block has been read. -/
structure Svc where
  q : Nat
  c : Call
  deriving DecidableEq, Repr

/-- Word i of the block. -/
def Svc.word (v : Svc) (i : Nat) : Nat := (v.c.words.getD i 0).toNat
/-- Whether words 1 to 7 have no bit set outside the masks given; a word that a mask does not name must
be zero. -/
def Svc.only (v : Svc) (m : List (Nat × Nat)) : Bool :=
  (List.range 7).all fun i =>
    let k := match m.find? fun e => decide (e.1 = i + 1) with | some e => e.2 | none => 0
    decide (v.word (i + 1) ||| k = k)
/-- All 64 bits of a word. -/
abbrev full64 : Nat := 2 ^ 64 - 1

/-- The pieces of an argument buffer (R125, R144). A port without IDE serves none of it (R39; DESIGN CHOICE, log
entry 55), and a stash page must name a stash bank (R269). -/
def Svc.pieces (v : Svc) (s : State) (va n : Nat) (rd wr : Bool) : Option (List Piece) :=
  let l := if v.c.host then (if va + n ≤ 2 ^ 45 then some [(hostGa s v.c.hport va, n, va, none)] else none)
    else match s.part v.c.part with
      | some x => argPieces x rd wr (n / 4096 + 2) va n
      | none => none
  l.filter fun l => !l.any fun g => portShut s g.1 || stashBad s v.c.part g.2.2.2
/-- Reads pieces, each at its home or at the stash home of its page (R270). -/
def readBytes (s : State) (p : Nat) : List Piece → Option (State × List Byte)
  | [] => some (s, [])
  | (ga, n, va, pg) :: l =>
    match readAt s p ga n with
    | .error _ => none
    | .ok v => match readBytes (touchRange s p va ga n false false pg) p l with
      | none => none
      | some (s, bs) => some (s, toBytes n v ++ bs)
/-- Writes bytes into pieces. -/
def writeBytes (s : State) (p : Nat) : List Piece → List Byte → Option State
  | [], _ => some s
  | (ga, n, va, pg) :: l, bs =>
    match unitWrite s p va ga pg (bs.take n) with
    | none => none
    | some s => writeBytes s p l (bs.drop n)
/-- Reads an argument buffer; none where it is unreachable. -/
def Svc.read (v : Svc) (s : State) (va n : Nat) : Option (State × List Byte) :=
  match v.pieces s va n true false with
  | some l => readBytes s v.c.part l
  | none => none
/-- Writes an argument buffer; none where it is unreachable. -/
def Svc.write (v : Svc) (s : State) (va : Nat) (bs : List Byte) : Option State :=
  match v.pieces s va bs.length false true with
  | some l => writeBytes s v.c.part l bs
  | none => none

/-! ### Submitting a call by a doorbell (R39, R125, R130, R143) -/

/-- Where a call's block lies, and through which page, if it is reachable (R143, R144). -/
def blockAt (s : State) (c : Call) : Option (Nat × Option Page) :=
  if c.va % 64 ≠ 0 then none
  else if c.host then (if c.va + 64 ≤ 2 ^ 45 then some (hostGa s c.hport c.va, none) else none)
  else (reachable s c.part c.va 64 true true).map fun e => (e.1, some e.2)
/-- Its global address. -/
def blockGa (s : State) (c : Call) : Option Nat := (blockAt s c).map (·.1)
/-- Accepts or refuses a call: the acceptance status, and the state. -/
def submit (s : State) (q : Nat) (c : Call) : Nat × State :=
  if (blockGa s c).isNone then (vARG, s)
  else if 64 ≤ (s.callList q).length ∨ s.boot.stage ≠ 15 then (vBUSY, s)
  else (vOK, { s with calls := putT s.calls q (s.callList q ++ [c]) })
/-- A host port. -/
def State.hport (s : State) (n : Nat) : HPort := getTD s.hports n {}
/-- Replaces it. -/
def State.setHport (s : State) (n : Nat) (h : HPort) : State := { s with hports := putT s.hports n h }

/-- SERVICE_DOORBELL (R143): through a VF, or through function 0 of the port. -/
def execServiceDoorbell (port : Nat) (vf : Option Nat) (addr : Nat) (s : State) : Out :=
  .next (if !s.ideUp port then s else match vf with
  | none =>
    let r := submit s hostQueue { part := hostQueue, host := true, hport := port, va := addr }
    r.2.setHport port { r.2.hport port with doorbell := r.1 }
  | some n => match getT s.vfs n with
    | none => s
    | some v =>
      if v.hport ≠ port ∨ v.closing.isSome then s
      else
        let r := submit s v.part { part := v.part, vf := some n, hport := port, va := addr }
        { r.2 with vfs := putT r.2.vfs n { v with status := r.1 } })

/-! ### Performing a call (R143, R145) -/

/-- What a call's body comes to: done, with results by word, a status code and a detail; or begun. -/
inductive SvcOut where
  | done (s : State) (res : List (Nat × Nat)) (code detail : Nat)
  | wait (s : State) (phase : Nat) (work : List Nat)

/-- A call that fails has no effect. -/
def Svc.fail (s : State) (code : Nat) (detail : Nat := 0) : SvcOut := .done s [] code detail
/-- A call that returns no result words. -/
def Svc.ok (s : State) (res : List (Nat × Nat) := []) : SvcOut := .done s res vOK 0

/-- Writes n bytes at an offset of a call's block, whose place is given. -/
def putWord (s : State) (c : Call) (b : Nat × Option Page) (o n v : Nat) : State :=
  (unitWrite s c.part (c.va + o) (b.1 + o) b.2 (toBytes n v)).getD s
/-- Answers the head call of a queue: the results are written, then the status, and the call leaves the
queue. The block stands where its page has moved to meanwhile (R154). -/
def respond (s : State) (q : Nat) (c : Call) (res : List (Nat × Nat)) (code detail : Nat) : State :=
  let b := (blockAt s c).getD (c.ga, none)
  let s := res.foldl (fun s r => putWord s c b (8 * r.1) 8 r.2) s
  let s := putWord s c b 4 4 (code * 2 ^ 16 + detail)
  { s with calls := putT s.calls q (s.callList q).tail }
/-- The call of a queue that has been read: a call that has begun holds its block; any other is read
now. -/
def openCall (s : State) (c : Call) : Option Call :=
  if c.phase ≠ 0 then some c
  else match blockGa s c with
    | none => none
    | some ga => match readAt s c.part ga 64 with
      | .ok m => some { c with ga := ga, words := wordsN 8 m }
      | .error _ => none
/-- Whether a call's block lies on a page that is flipping, or behind a port without IDE, which holds the call (R39,
R128). -/
def blockFlips (s : State) (c : Call) : Bool := match blockGa s c with | some ga => s.shut ga 64 | none => false
/-- Whether a queue has a call that may begin. -/
def mayBegin (s : State) (q : Nat) : Bool :=
  match s.callList q with
  | c :: _ => decide (c.phase = 0) && !blockFlips s c
  | [] => false
/-- The queue whose turn it is to begin a call: partitions are served in rotation, and function 0 takes its turn among
them (R143; DESIGN CHOICE, log entry 52). -/
def svcTurn (s : State) : Option Nat := ((List.range 13).map fun j => (s.svcNext + j) % 13).find? (mayBegin s)
/-- The head call of a queue, if the service unit may begin it or go on with it. -/
def headCall (s : State) (q : Nat) : Option Call :=
  match s.callList q with
  | [] => none
  | c :: _ =>
    if s.boot.stage = 15 ∧ blockFlips s c = false ∧ (c.phase ≠ 0 ∨ svcTurn s = some q) then some c else none
/-- A call that begins gives the turn to the next partition. -/
def turned (s : State) (q : Nat) (c : Call) : State := if c.phase = 0 then { s with svcNext := (q + 1) % 13 } else s
/-- Who may make a call (R145). -/
inductive Caller where
  | any | host
  deriving DecidableEq, Repr

/-- Performs a call that has been read: the checks that every call shares, then its body. -/
def perform (s : State) (q : Nat) (c : Call) (who : Caller) (body : Svc → State → SvcOut) : State :=
  if fld (c.words.getD 0 0).toNat 31 8 ≠ 0 then respond s q c [] vRANGE 0
  else if (who = .host ∧ c.host = false) ∨ (who = .any ∧ c.host = true) then respond s q c [] vPERM 0
  else match body ⟨q, c⟩ s with
    | .done s res code detail => respond s q c res code detail
    | .wait s ph work => { s with calls := putT s.calls q ({ c with phase := ph, work := work } :: (s.callList q).tail) }

/-- EXECUTES THE HEAD CALL of the queue that the turn names, if it is the call that `pick` names. A block that has become unreachable
is dropped. -/
def service (s : State) (pick : Call → Bool) (who : Caller) (body : Svc → State → SvcOut) : Out :=
  let q := s.arg 0
  .next (match headCall s q with
  | none => s
  | some c => match openCall s c with
    | none => { turned s q c with calls := putT s.calls q (s.callList q).tail }
    | some c =>
      if !pick c then s
      else perform (turned s q c) q c who body)
/-- Executes the call of a number. -/
def call (s : State) (n : Nat) (who : Caller) (body : Svc → State → SvcOut) : Out :=
  service s (fun c => decide (c.num = n)) who body

/-- UNASSIGNED_CALL (R145): numbers 0x30 to 0xFF, from any caller. -/
def execUnassignedCall (s : State) : Out :=
  let q := s.arg 0
  .next (match headCall s q with
  | none => s
  | some c => match openCall s c with
    | none => { turned s q c with calls := putT s.calls q (s.callList q).tail }
    | some c =>
      if c.num < 0x30 then s
      else if fld (c.words.getD 0 0).toNat 31 8 ≠ 0 then respond (turned s q c) q c [] vRANGE 0
      else respond (turned s q c) q c [] vNOCALL 0)

/-- Runs a body with the caller's partition. -/
def Svc.withPart (v : Svc) (s : State) (f : Part → SvcOut) : SvcOut :=
  match s.part v.c.part with
  | some x => f x
  | none => Svc.fail s vSTATE
/-- Runs a body with the partition that a host call names: its number must be at most 11 and the
partition defined. -/
def Svc.named (s : State) (p : Nat) (f : Part → SvcOut) : SvcOut :=
  if 11 < p then Svc.fail s vRANGE
  else match s.part p with
    | some x => f x
    | none => Svc.fail s vSTATE
/-- Runs a body with a VF that the caller's partition owns. -/
def Svc.ownVf (v : Svc) (s : State) (n : Nat) (f : Vf → SvcOut) : SvcOut :=
  match getT s.vfs n with
  | some x => if x.part = v.c.part then f x else Svc.fail s vRANGE
  | none => Svc.fail s vRANGE

end Sys2Proof.Machine
end

