-- ==== Sys2Proof/Machine/Paging.lean ====
section
/-!
DEFINITION. The memory-map calls (R326, R330, R331), the event counters (R325), host bias (R126, R128,
R129), and the host's accesses to device memory (R126).
-/
namespace Sys2Proof.Machine

/-! ### What a partition owns (R147, R151, R267, R330) -/

/-- The HBM slices a PDEF named, ascending. -/
def sliceList (bitmap : Nat) : List Nat := (List.range 1024).filter fun n => bit bitmap n
/-- Whether a slice is a partition's own to map: named, and not among the highest CSL, which hold its
control area (R267). -/
def Part.mapsSlice (x : Part) (n : Nat) : Bool :=
  bit x.slices n && decide (x.csl ≤ ((sliceList x.slices).filter fun k => decide (n < k)).length)
/-- The colours that the lines of a page may lie in (R151). -/
def pageColours (size ga : Nat) : List Nat :=
  if size ≤ 2 ^ 16 then [colourOf ga]
  else if size = 2 ^ 21 then (List.range 8).map fun i => colourOf ga / 8 * 8 + i
  else List.range 32
/-- Whether a module position lies in a partition's rectangle (R146). -/
def Part.inRect (x : Part) (px py : Nat) : Bool :=
  decide (8 * x.bx ≤ px) && decide (px < 8 * (x.bx + x.bw)) && decide (8 * x.byy ≤ py) && decide (py < 8 * (x.byy + x.bh))
/-- The bytes that a stream table keeps (R286). -/
abbrev stableSize : Nat := 2 ^ 22
/-- Whether a range of HBM meets a partition's stream table. -/
def Part.hitsTable (x : Part) (ga n : Nat) : Bool :=
  match x.stable with
  | some (b, _) => decide (ga < b + stableSize) && decide (b < ga + n)
  | none => false
/-- Whether every 2 MiB granule of an oasis range lies in the partition's allocations. -/
def State.ownsOasis (s : State) (p ga n : Nat) : Bool :=
  (List.range ((ga + n - 1) / 2 ^ 21 + 1 - ga / 2 ^ 21)).all fun i =>
    s.oasis.allocs.any fun a => decide (a.part = p) && a.gas.contains ((ga / 2 ^ 21 + i) * 2 ^ 21)
/-- Whether one frame of a page size may be mapped by a partition (R151, R266, R330). -/
def frameOk (s : State) (p : Nat) (x : Part) (size ga : Nat) : Bool :=
  let colours := (pageColours size ga).all fun c => bit x.colours c
  if gaModule ga ≠ s.boot.modnum then
    decide (gaKind ga ≤ 1) && gaLegal ga && gaLegal (ga + size - 1) && s.pod.contains (gaModule ga) && Config.remoteOwned p (ga / 4096)
  else match gaKind ga with
  | 0 => gaLegal ga && decide (gaOff ga + size ≤ 2 ^ 40) && x.mapsSlice (fld ga 39 30) && colours && !x.hitsTable ga size
  | 1 => gaLegal ga && s.ownsOasis p ga size
  | 2 => (List.range (size / 4096)).all fun i =>
      gaLegal (ga + 4096 * i) && x.inRect (gaX (ga + 4096 * i)) (gaY (ga + 4096 * i))
  | 4 => colours && s.vfs.any fun v => decide (v.2.part = p) && decide (v.2.hport = b2n (bit ga 45))
  | _ => false

/-- Whether one frame may be mapped now: a PRESIZE under way leaves none that the partition is about to lose (R148,
R150; DESIGN CHOICE, log entry 51). -/
def frameOkNow (s : State) (p : Nat) (x : Part) (size ga : Nat) : Bool :=
  frameOk s p x size ga && match s.resizing p with
    | some y => frameOk s p y size ga
    | none => true
/-- Whether a range meets a frame of a move whose entry has not retired (R152, R153). -/
def State.inMove (s : State) (ga n : Nat) : Bool :=
  s.moves.any fun m => (decide (m.src < ga + n) && decide (ga < m.src + m.size)) || (decide (m.dst < ga + n) && decide (ga < m.dst + m.size))

/-! ### Tables (R326, R330) -/

/-- The table pages that a set of leaves takes: the root and one for each table below it. -/
def tablePages (l : List Page) : Nat :=
  let n (k : Nat) (l : List Page) : Nat := ((l.map fun q => q.va / 2 ^ k).eraseDups).length
  1 + n 48 l + n 39 l + n 30 (l.filter fun q => decide (q.size < 2 ^ 30)) + n 21 (l.filter fun q => decide (q.size < 2 ^ 21))
/-- The page sizes of MAP (R330). -/
def pageSize (n : Nat) : Nat := 2 ^ (match n % 4 with | 0 => 12 | 1 => 16 | 2 => 21 | _ => 30)
/-- Whether a page meets a range of addresses. -/
def Page.hits (q : Page) (va n : Nat) : Bool := decide (q.va < va + n) && decide (va < q.va + q.size)
/-- Whether a page lies in a range of addresses. -/
def Page.inside (q : Page) (va n : Nat) : Bool := decide (va ≤ q.va) && decide (q.va + q.size ≤ va + n)
/-- The first address of the oasis window (R345). -/
abbrev oasisWindow : Nat := 0x00F0000000000000
/-- The size of the oasis window (R345). -/
abbrev oasisWindowSize : Nat := 2 ^ 48
/-- Whether more pages can be mapped: none of their addresses is, and the table pages hold them. -/
def Part.canMap (x : Part) (va n : Nat) (l : List Page) : Bool :=
  !(x.pages.any fun q => q.hits va n) && decide (tablePages (x.pages ++ l) ≤ x.tpages)

/-- MAP (R330). It waits while a move still holds one of its frames, which is free once the move's entry retires (R153,
R154; DESIGN CHOICE, log entry 51). -/
def mapCall (v : Svc) (s : State) : SvcOut :=
  v.withPart s fun x =>
    let p := v.c.part
    let va := v.word 1
    let ga := v.word 2
    let n := v.word 3
    let w := v.word 4
    let size := pageSize w
    let attr := fld w 6 4
    let l := (List.range (n / size)).map fun i =>
      ({ va := va + i * size, size := size, ga := ga + i * size, attr := attr
         sbank := if attr = 1 then fld w 10 7 else 0, sy := if attr = 1 then fld w 17 11 else 0
         sx := if attr = 1 then fld w 23 18 else 0, r := bit w 2, w := bit w 3 } : Page)
    if va % size ≠ 0 ∨ ga % size ≠ 0 ∨ n % size ≠ 0 ∨ 2 ^ 40 < n ∨ 2 ^ 57 < va + n ∨ 2 ^ 56 < ga + n ∨ 4 ≤ attr then Svc.fail s vRANGE
    else if va < oasisWindow + oasisWindowSize ∧ oasisWindow < va + n then Svc.fail s vRANGE
    else if attr = 1 ∧ (2 ^ 16 < size ∨ gaKind ga ≠ 0 ∨ gaModule ga ≠ s.boot.modnum ∨ (fld w 23 18 + fld w 17 11) % 2 = 0 ∨
        x.inRect (fld w 23 18) (fld w 17 11) = false) then Svc.fail s vRANGE
    else if !(l.all fun q => frameOkNow s p x size q.ga) then Svc.fail s vRANGE
    else if !x.canMap va n l then Svc.fail s vSTATE
    else if s.inMove ga n then .wait s 1 []
    else Svc.ok (retryEddy (s.setPart p { x with pages := x.pages ++ l }) p)
/-- MAP (R330). -/
def execMap (s : State) : Out := call s 0x00 .any mapCall

/-- Whether a range cuts no page (R330). -/
def Part.whole (x : Part) (va n : Nat) : Bool :=
  decide (va % 4096 = 0) && decide (n % 4096 = 0) && x.pages.all fun q => !q.hits va n || q.inside va n
/-- Writes back and gives up the stash sectors of a range (R272). -/
def stashBack (s : State) (p : Nat) (x : Part) (va n : Nat) : State :=
  let rs := (x.pages.filter fun q => q.hits va n && decide (q.attr = 1)).map fun q => (q.ga, q.ga + q.size)
  { s with insts := mapT (fun k i => if k / 8 = p then { i with tiles := mapT (fun _ t => flushStash rs true t) i.tiles } else i) s.insts }
/-- UNMAP (R330): the entries are cleared; the call ends with its invalidation. -/
def execUnmap (s : State) : Out := call s 0x01 .any fun v s =>
  v.withPart s fun x =>
    if v.c.phase ≠ 0 then .wait s 1 v.c.work
    else if !x.whole (v.word 1) (v.word 2) then Svc.fail s vRANGE
    else
      let s := stashBack s v.c.part x (v.word 1) (v.word 2)
      .wait (s.setPart v.c.part { x with pages := x.pages.filter fun q => !q.hits (v.word 1) (v.word 2) }) 1 [v.word 1, v.word 2]
/-- PROT (R330): the permissions change; the call ends with its invalidation. -/
def execProt (s : State) : Out := call s 0x02 .any fun v s =>
  v.withPart s fun x =>
    if v.c.phase ≠ 0 then .wait s 1 v.c.work
    else if !x.whole (v.word 1) (v.word 2) then Svc.fail s vRANGE
    else
      let w := v.word 3
      let y := { x with pages := x.pages.map fun (q : Page) => if q.hits (v.word 1) (v.word 2) then { q with r := bit w 0, w := bit w 1 } else q }
      .wait (retryEddy (s.setPart v.c.part y) v.c.part) 1 [v.word 1, v.word 2]

/-- The level of a page's leaf entry (R326). -/
def Page.level (q : Page) : Nat := if q.size = 2 ^ 30 then 2 else if q.size = 2 ^ 21 then 1 else 0
/-- The table entry of an address in its page (R326). -/
def Page.entry (q : Page) (va : Nat) : Nat :=
  let unit := if q.size ≤ 2 ^ 16 then 4096 else q.size
  let ga := q.ga + (va - q.va) / unit * unit
  let frame := if q.attr = 1 then q.sy * 2 ^ 49 + q.sx * 2 ^ 43 + ga % 2 ^ 40 / 4096 * 4096 else ga / 4096 * 4096
  q.attr * 2 ^ 60 + q.sbank * 2 ^ 56 + frame + b2n (decide (q.size = 2 ^ 16)) * 16 + 8 + b2n q.w * 4 + b2n q.r * 2 + 1
/-- QUERY (R330). -/
def execQuery (s : State) : Out := call s 0x03 .any fun v s =>
  v.withPart s fun x => match findPage x.pages (v.word 1) with
    | some q => Svc.ok s [(2, q.entry (v.word 1)), (3, q.level)]
    | none => Svc.ok s [(2, 0), (3, 0xFF)]

/-- INVAL (R330): a length of 0 is the whole space. -/
def execInval (s : State) : Out := call s 0x04 .any fun v s =>
  .wait s 1 (if v.word 2 = 0 then [0, 2 ^ 57] else [v.word 1, v.word 2])
/-- Whether an operation is an access that has been translated and is still to be performed (R331). -/
def Pend.underWay (q : Pend) : Bool :=
  q.st.open_ && !isStream q.va && (q.act.mem || (match q.act with | .waita .. => true | _ => false))
/-- The runs of the module, executing or saved. -/
def State.runs (s : State) : List Run := s.cores.filterMap (fun c => c.2.run) ++ s.parts.flatMap fun x => x.2.saved.map (·.run)
/-- The accesses that have been translated and are still to be performed: each as its partition, its global address and
the entry it used (R331). A WAITA whose run has still to end is one of them. -/
def State.translated (s : State) : List (Nat × Nat × Option Page) :=
  ((s.pends.filter (·.underWay)).map fun q => (q.part, q.ga, q.page)) ++
    s.runs.filterMap fun r => match r.ending with | some (.waita p ga _ _ _ pg) => some (p, ga, pg) | _ => none
/-- Whether an access that was translated through an entry of a range is still to be performed (R331). -/
def inFlight (s : State) (p lo n : Nat) : Bool :=
  s.translated.any fun e => decide (e.1 = p) && match e.2.2 with | some q => q.hits lo n | none => false
/-- Whether an access that was translated to a range of memory is still to be performed (R153, R346). -/
def inFlightGa (s : State) (ga n : Nat) : Bool := s.translated.any fun e => decide (ga ≤ e.2.1) && decide (e.2.1 < ga + n)
/-- Whether a call is one that ends with an invalidation. -/
def Call.invalidates (c : Call) : Bool := decide (c.phase = 1) && (decide (c.num = 0x01) || decide (c.num = 0x02) || decide (c.num = 0x04))
/-- SYNC (R330): the calls of a partition execute one at a time, so every earlier INVAL has
completed. -/
def execSync (s : State) : Out := call s 0x07 .any fun _ s => Svc.ok s
/-- SETROOT (R330). -/
def execSetroot (s : State) : Out := call s 0x05 .host fun v s =>
  Svc.named s (v.word 1) fun x =>
    if v.word 2 = 0 ∨ 65536 < v.word 2 then Svc.fail s vRANGE
    else if !x.pages.isEmpty then Svc.fail s vSTATE
    else Svc.ok (s.setPart (v.word 1) { x with tpages := v.word 2 })

/-! ### Event counters (R276, R325) -/

/-- The OVF of the retention register that an event code names; 0 for any other code. -/
def ovfOf (x : Part) (code : Nat) : Nat := if 8 ≤ code ∧ code < 16 then (getTD x.retain (code - 8) {}).ovf else 0

/-- CNTSEL (R325). A slot of a retention register's OVF keeps what that reads now, since counting starts from 0. -/
def execCntsel (s : State) : Out := call s 0x26 .any fun v s =>
  v.withPart s fun x =>
    if 15 < v.word 1 ∨ 0x17 < v.word 2 then Svc.fail s vRANGE
    else Svc.ok (s.setPart v.c.part { x with counters := putT x.counters (v.word 1) (v.word 2, ovfOf x (v.word 2)) })
/-- What a counter slot reads: a count, a retention register's OVF since CNTSEL, or an occupant's BPC. -/
def counterValue (s : State) (p : Nat) (x : Part) (e : Nat × Nat) : Nat :=
  if e.1 = 0 then 0
  else if e.1 < 8 then e.2
  else if e.1 < 16 then ovfOf x e.1 - e.2
  else s.bpc (p * 8 + (e.1 - 16))
/-- CNTRD (R325). -/
def execCntrd (s : State) : Out := call s 0x27 .any fun v s =>
  v.withPart s fun x =>
    match v.write s (v.word 1) ((List.range 16).flatMap fun i => toBytes 8 (counterValue s v.c.part x (getTD x.counters i (0, 0)))) with
    | some s => Svc.ok s
    | none => Svc.fail s vARG
/-- Clears one counter slot (R325); an OVF is cleared under its register, and every slot of it counts from 0. -/
def clearCounter (x : Part) (i : Nat) : Part :=
  let e := getTD x.counters i (0, 0)
  if 1 ≤ e.1 ∧ e.1 < 8 then { x with counters := putT x.counters i (e.1, 0) }
  else if 8 ≤ e.1 ∧ e.1 < 16 then { x with
    retain := putT x.retain (e.1 - 8) { getTD x.retain (e.1 - 8) {} with ovf := 0 }
    counters := mapT (fun _ y => if y.1 = e.1 then (y.1, 0) else y) x.counters }
  else x
/-- CNTCLR (R325). -/
def execCntclr (s : State) : Out := call s 0x28 .any fun v s =>
  v.withPart s fun x =>
    Svc.ok (s.setPart v.c.part (((List.range 16).filter fun i => bit (v.word 1) i).foldl clearCounter x))

/-! ### Host bias (R126, R128, R129) -/

/-- The frames of the pages that a bias call names, if each is HBM of this module. -/
def biasFrames (s : State) (x : Part) (va n : Nat) : Option (List Nat) :=
  (List.range n).foldr (fun i l =>
    match l, translate x (va + 4096 * i) false false with
    | some l, .ok (ga, _) => if gaKind ga = 0 ∧ gaModule ga = s.boot.modnum then some (ga / 4096 :: l) else none
    | _, _ => none) (some [])
/-- The checks of the bias calls. -/
def biasCall (v : Svc) (s : State) (f : List Nat → SvcOut) : SvcOut :=
  v.withPart s fun x =>
    if v.word 2 = 0 ∨ 512 < v.word 2 then Svc.fail s vRANGE
    else if v.word 1 % 4096 ≠ 0 then Svc.fail s vARG
    else match biasFrames s x (v.word 1) (v.word 2) with
    | some l => f l
    | none => Svc.fail s vARG
/-- BIASGET (R129). -/
def execBiasget (s : State) : Out := call s 0x2D .any fun v s =>
  biasCall v s fun l =>
    let m := l.foldr (fun g a => b2n (!s.hostBias (g * 4096)) + 2 * a) 0
    match v.write s (v.word 3) (toBytes 64 m) with
    | some s => Svc.ok s
    | none => Svc.fail s vARG
/-- Sets a page's bias: in host bias, and flipping, which holds the operations from the next number on (R128). -/
def setBias (s : State) (g : Nat) (host flip : Bool) : State :=
  { s with bias := if host || flip then putT s.bias g (host, if flip then s.sched.next else 0) else delT s.bias g }
/-- The pages of a list that are not yet in a bias. -/
def toFlip (s : State) (host : Bool) (l : List Nat) : List Nat := l.filter fun g => s.hostBias (g * 4096) != host
/-- A flip call begins its first flip, or is done (R128). -/
def flipNext (s : State) (host : Bool) (l : List Nat) : SvcOut :=
  match toFlip s host l with
  | [] => Svc.ok s
  | g :: l => .wait (setBias s g (!host) true) 1 (g :: l)
/-- BIASDEV (R128, R129). -/
def execBiasdev (s : State) : Out := call s 0x2E .any fun v s =>
  if v.c.phase ≠ 0 then .wait s 1 v.c.work else biasCall v s fun l => flipNext s false l
/-- BIASHOST (R128, R129). -/
def execBiashost (s : State) : Out := call s 0x2F .any fun v s =>
  if v.c.phase ≠ 0 then .wait s 1 v.c.work else biasCall v s fun l => flipNext s true l
/-- Writes back and invalidates every copy of a range of lines in the module's caches (R128). -/
def dropCopies (s : State) (lo hi : Nat) : State :=
  let rs := [(lo, hi)]
  { s with
    caches := { s.caches with
      l1 := mapT (fun _ l => l.filter fun x => !inRanges rs x.ga) s.caches.l1
      l2 := mapT (fun _ l => l.filter fun y => !(List.range 8).any fun i => inRanges rs (y.ga + 128 * i)) s.caches.l2
      fab := mapT (fun _ l => l.filter fun y => !inRanges rs y.ga) s.caches.fab }
    insts := mapT (fun _ i => { i with tiles := mapT (fun _ t => flushStash rs true t) i.tiles }) s.insts }
/-- A page leaves host bias: a half that its L2 has modified leaves its sector dirty, and no half has a state of its own
any more (R126 to R128). -/
def joinHalves (s : State) (lo hi : Nat) : State :=
  let join (y : L2Line) : L2Line :=
    if lo ≤ y.ga ∧ y.ga < hi then
      { y with dirty := y.half.foldl (fun m e => if e.2 = 3 then m ||| 2 ^ (e.1 / 2) else m) y.dirty, half := [] }
    else y
  { s with caches := { s.caches with l2 := mapT (fun _ l => l.map join) s.caches.l2 } }
/-- Whether a run's access that issued before a flip of its page is still to be performed, and nothing else holds it
(R128). -/
def oldAccess (s : State) (g first : Nat) (q : Pend) : Bool :=
  decide (q.id < first) && decide (q.st = .issued) &&
    if isStream q.va then
      q.act.mem && match s.stream q.part (streamNo q.va.toNat) with
        | some x => decide (x.addr (streamOff q.va.toNat) / 4096 = g) && !streamHeld s q x
        | none => false
    else q.underWay && decide (fwdGa s q.ga / 4096 = g) && !heldBack s { q with ga := fwdGa s q.ga } q.act.len q.act.writes
/-- Whether a pattern has such an access. -/
def Pat.oldAccess (s : State) (p g first : Nat) (store : Bool) (t : Pat) : Bool :=
  t.frozen.isNone && t.stuck.isNone && t.accs.any fun a =>
    decide (a.op < first) && !a.complete store && !a.eddy && rangesMeet (physRanges s p a.va a.n) [(g * 4096, 4096)]
/-- Whether an access that issued before the flip of a page goes on (R128). -/
def flipWaits (s : State) (g : Nat) : Bool :=
  let first := (getTD s.bias g (false, 0)).2
  s.pends.any (oldAccess s g first) || s.insts.any fun e => e.2.tiles.any fun t => t.2.pats.any fun j =>
    j.2.oldAccess s (e.1 / 8) g first (patStore (e.2.img.pat t.1 j.1))
/-- BIAS_FLIP_DONE (R128): argument 0 names the page. Its earlier accesses have been performed; its bias is set, held
accesses and completion records proceed, and the call flips its next page or ends. -/
def execBiasFlipDone (s : State) : Out :=
  let g := s.arg 0
  .next (match s.calls.find? fun e => match e.2 with
      | c :: _ => decide (c.phase = 1) && (decide (c.num = 0x2E) || decide (c.num = 0x2F)) && decide (c.work.head? = some g)
      | [] => false with
  | some (q, c :: _) =>
    if flipWaits s g then s
    else
      let host := decide (c.num = 0x2F)
      let lo := g * 4096
      let s := setBias (if host then dropCopies s lo (lo + 4096) else joinHalves s lo (lo + 4096)) g host false
      let s := (s.parts.map (·.1)).foldl wakeStreams (flushCompls s s.compls)
      (match flipNext s host c.work.tail with
      | .done s res code detail => respond s q c res code detail
      | .wait s ph work => { s with calls := putT s.calls q ({ c with phase := ph, work := work } :: (s.callList q).tail) })
  | _ => s)

/-- What a host access does to the copies of its device-bias lines: a read leaves them shared and written back, a
write leaves none (R126). -/
def hostTouch (s : State) (ga n : Nat) (write : Bool) : State :=
  (List.range ((ga % 128 + n + 127) / 128)).foldl (fun s k =>
    let g := (ga / 128 + k) * 128
    if s.hostBias g then s
    else dropStash (capOthers (if write then dropFabric s g 128 else s) none g (if write then 0 else 1) none) g (g + 128) write) s
/-- HOST_MEMORY_ACCESS (R126): a host read or write of HBM behind a port, at the home; a flipping page
holds it (R128). A page in host bias has its copies snooped instead (R378). -/
def execHostMemoryAccess (port ga n : Nat) (data : Option Nat) (s : State) : Out :=
  .next (if !s.ideUp port || decide (gaKind ga ≠ 0) || decide (gaModule ga ≠ s.boot.modnum) || s.shut ga n then s
  else
    let s := hostTouch s (fwdGa s ga) n data.isSome
    match data with
    | none => answer s port (memGets s.mem (fwdGa s ga) n)
    | some v => match homeWrite s hostQueue ga (toBytes n v) with
      | .ok s => s
      | .error _ => s)

end Sys2Proof.Machine
end

