-- ==== Sys2Proof/Machine/StreamCalls.lean ====
section
/-!
DEFINITION. The stream calls (R286 to R289, R294, R297 to R301).
-/
namespace Sys2Proof.Machine

/-- The checks that every stream call shares (R301): no word beyond the masks, a table, and a stream
number below its count. -/
def streamCall (v : Svc) (s : State) (m : List (Nat × Nat)) (f : Part → Nat → SvcOut) : SvcOut :=
  v.withPart s fun x =>
    if !v.only ((1, full64) :: m) then Svc.fail s vRANGE
    else match x.stable with
    | none => Svc.fail s vSTATE
    | some (_, count) => if count ≤ v.word 1 then Svc.fail s vRANGE else f x (v.word 1)
/-- A stream call on a defined stream (R301). -/
def onStream (v : Svc) (s : State) (m : List (Nat × Nat)) (f : Part → Nat → Stream → SvcOut) : SvcOut :=
  streamCall v s m fun x n => match getT x.streams n with
    | some w => f x n w
    | none => Svc.fail s vSTATE

/-- STABLE (R286, R301). A frame that a page move still holds counts as mapped, and a PRESIZE under way leaves only the
slices that it keeps (DESIGN CHOICE, log entry 51). -/
def execStable (s : State) : Out := call s 0x08 .host fun v s =>
  if !v.only [(1, full64), (2, full64), (3, full64)] then Svc.fail s vRANGE
  else Svc.named s (v.word 1) fun x =>
    let b := v.word 2
    if !x.streams.isEmpty then Svc.fail s vSTATE
    else if 2 ^ 56 ≤ b ∨ gaKind b ≠ 0 ∨ gaModule b ≠ s.boot.modnum ∨ b % stableSize ≠ 0 ∨ gaLegal b = false ∨
        x.mapsSlice (fld b 39 30) = false ∨ v.word 3 = 0 ∨ 32768 < v.word 3 ∨
        (x.pages.any fun q => decide (q.ga < b + stableSize) && decide (b < q.ga + q.size)) = true ∨ s.inMove b stableSize = true ∨
        (s.resizing (v.word 1)).any (fun y => !y.mapsSlice (fld b 39 30)) = true then Svc.fail s vRANGE
    else Svc.ok (s.setPart (v.word 1) { x with stable := some (b, v.word 3) })

/-- The global address of a range that is one contiguous frame run (R301); the first argument bounds the
pages. -/
def contiguous (x : Part) : Nat → Nat → Nat → Option Nat
  | 0, _, _ => none
  | f + 1, va, n =>
    match findPage x.pages va with
    | none => none
    | some q =>
      let ga := q.ga + (va - q.va)
      let k := q.va + q.size - va
      if n ≤ k then some ga
      else match contiguous x f (va + k) (n - k) with
        | none => none
        | some g => if g = ga + k then some ga else none
/-- Whether an array lies in banks of one M-tile that an occupant's image declares as stream window
(R288). -/
def windowOk (i : Inst) (ga n : Nat) : Bool :=
  let b := ga % 2 ^ 20
  let tk := tkey (gaY ga - i.y0) (gaX ga - i.x0)
  decide (b + n ≤ 2 ^ 20) && decide (i.x0 ≤ gaX ga) && decide (i.y0 ≤ gaY ga) && (getT i.tiles tk).isSome &&
    (List.range 16).all fun k => decide (k < b / 2 ^ 16) || decide ((b + n - 1) / 2 ^ 16 < k) || decide (i.img.bankUse tk k = 2)
/-- Whether a partition owns an A-tile, by side and module row (R148). -/
def Part.ownsEdge (x : Part) (side row : Nat) : Bool :=
  decide (8 * x.byy ≤ row) && decide (row < 8 * (x.byy + x.bh)) && (if side = 0 then decide (x.bx = 0) else decide (x.bx + x.bw = 8))
/-- Whether an array's backing meets R288 and R299. -/
def backingOk (s : State) (p : Nat) (x : Part) (bk sc hsel ga n : Nat) (i : Option Inst) : Bool :=
  match bk with
  | 0 => decide (gaKind ga = 2) && decide (gaModule ga = s.boot.modnum) && (match i with | some i => windowOk i ga n | none => false)
  | 1 => decide (gaKind ga = 0) && decide (gaModule ga = s.boot.modnum) && x.ownsEdge (hsel / 128) (hsel % 128)
  | _ => decide (gaKind ga = 1) && decide (3 ≤ sc) && decide (hsel = 0) &&
      let gs := (List.range ((ga + n - 1) / 2 ^ 21 + 1 - ga / 2 ^ 21)).map fun j => (ga / 2 ^ 21 + j) * 2 ^ 21
      if gaModule ga ≠ s.boot.modnum then gs.all fun g => decide (Config.remoteAlloc g = Config.remoteAlloc (granuleOf ga))
      else s.oasis.allocs.any fun a => decide (a.part = p) && gs.all fun g => a.gas.contains g

/-- SDEF (R287, R288, R301). -/
def execSdef (s : State) : Out := call s 0x09 .any fun v s =>
  streamCall v s [(2, 3 * 2 ^ 61 + 31 * 2 ^ 56 + 65535 * 2 ^ 40 + 7), (3, full64), (4, full64), (5, full64)] fun x n =>
    let c := v.word 2
    let bk := fld c 62 61
    let f := fld c 60 56
    let sc := c % 8
    let start := v.word 5
    let run := v.c.vf.isNone
    let owner := if bk = 0 then (if run then v.c.occ else v.word 4) else 0
    let hsel := if bk = 0 then owner else v.word 4
    let bytes := (fld c 55 40 + 1) * 2 ^ f
    if (getT x.streams n).isSome then Svc.fail s vSTATE
    else if bk = 3 ∨ f < 2 ∨ 21 < f ∨ sc < 2 ∨ 4 < sc ∨ 2 ^ 48 ≤ start ∨ 255 < v.word 4 ∨ (bk = 0 ∧ (if run then 0 else 7) < v.word 4) then Svc.fail s vRANGE
    else if bk = 0 ∧ (s.inst (v.c.part * 8 + owner)).isNone = true then Svc.fail s vSTATE
    else match contiguous x (bytes / 4096 + 2) (v.word 3) bytes with
    | none => Svc.fail s vRANGE
    | some ga =>
      if !backingOk s v.c.part x bk sc hsel ga bytes (s.inst (v.c.part * 8 + owner)) then Svc.fail s vRANGE
      else
        let slots : Tab Slot := (List.range 8).map fun k => (k, ({ toe := start } : Slot))
        let w : Stream := { bk := bk, f := f, wm1 := fld c 55 40, sc := sc, hsel := hsel, fbase := ga, stoe := start, crest := start
                            slots := slots, moved := s.cyc }
        Svc.ok (s.setStream v.c.part n w)

/-- A stream's windows leave every VF (DESIGN CHOICE, log entry 26). -/
def dropWindows (s : State) (p n : Nat) : State :=
  { s with vfs := mapT (fun _ v => if v.part = p then { v with windows := v.windows.filter fun w => decide (w.stream ≠ n) } else v) s.vfs }
/-- A stream call whose stream lives on another module (R299): what it asks goes there, and what the home answers is open
(DESIGN CHOICE, log entry 35). It waits for the pod partition key (R37) and for a link. -/
def farCall (v : Svc) (s : State) (n : Nat) (w : Stream) (act : LlStream) (f : State → Nat → SvcOut) : SvcOut :=
  if noKey s v.c.part w.fbase then .wait (askAgain s v.c.part) 1 []
  else match askStream s v.c.part n 0 0 w act with
    | none => .wait s 1 []
    | some s => f s.free.2 s.free.1
/-- Whether a stream call goes to another module: the stream's home is there, and not lost. -/
def isFar (v : Svc) (s : State) (w : Stream) : Bool := s.remoteStream w && (streamDown s v.c.part w).isNone
/-- SUNDEF (R299, R301, R405): of a stream that has lost its frames it succeeds whatever waits. -/
def execSundef (s : State) : Out := call s 0x0A .any fun v s =>
  onStream v s [] fun _ n w =>
    let lost := if w.bk = 2 then decide (streamDown s v.c.part w = some cLOST) else decide (w.bk = 0) && w.lost
    let gone (s : State) : SvcOut := Svc.ok (dropWindows (s.modPart v.c.part fun x => { x with streams := delT x.streams n }) v.c.part n)
    if !lost && (!w.waits.isEmpty || !w.held.isEmpty || (w.slots.any fun k => k.2.att)) then Svc.fail s vSTATE
    else if isFar v s w then farCall v s n w .stat fun s r => if r % 2 = 1 then Svc.fail s vSTATE else gone s
    else gone s

/-- SATTACH (R294, R297, R301). -/
def execSattach (s : State) : Out := call s 0x0B .any fun v s =>
  onStream v s [(2, full64), (3, full64), (4, 1), (5, 15)] fun _ n w =>
    let crest := bit (v.word 4) 0
    let gate := bit (v.word 5) 3
    let gsel := v.word 5 % 8
    if 7 < v.word 2 then Svc.fail s vRANGE
    else v.ownVf s (v.word 3) fun _ =>
      if w.sc ≠ 4 then Svc.fail s vSTATE
      else if isFar v s w then
        farCall v s n w (.attach (v.word 2) (v.word 3) crest gate gsel) fun s r => if r % 2 = 1 then Svc.fail s vSTATE else Svc.ok s
      else match w.attach (v.word 2) (v.word 3) crest gate gsel with
        | none => Svc.fail s vSTATE
        | some y => Svc.ok (wakeStream (s.setStream v.c.part n (w.after y s.cyc)) v.c.part n)
/-- SDETACH (R294, R301). -/
def execSdetach (s : State) : Out := call s 0x0C .any fun v s =>
  onStream v s [(2, full64)] fun _ n w =>
    if 7 < v.word 2 then Svc.fail s vRANGE
    else if isFar v s w then farCall v s n w (.detach (v.word 2)) fun s _ => Svc.ok s
    else Svc.ok (wakeStream (s.setStream v.c.part n (w.after (w.detach (v.word 2)) s.cyc)) v.c.part n)

/-- Where a VF's BAR2 maps a new window of a size: beyond every other, aligned to the size; how far
beyond is open (DESIGN CHOICE, log entry 2). -/
def newWindow (s : State) (x : Vf) (size : Nat) : Nat × State :=
  let hi := x.windows.foldl (fun m w => max m (w.offset + w.size)) 0
  let f := s.free
  ((cdiv hi size + f.1) * size, f.2)
/-- The size of a stream's alias window (R297). -/
def aliasSize (w : Stream) : Nat := 2 ^ (((List.range 48).find? fun e => decide (w.w * 2 ^ w.f ≤ 2 ^ e)).getD 48)
/-- Maps a window into a VF's BAR2, or finds it mapped. -/
def mapWindow (s : State) (vf n size : Nat) (ctl : Bool) : Nat × State :=
  match getT s.vfs vf with
  | none => (0, s)
  | some x => match x.windows.find? fun w => decide (w.stream = n) && (w.ctl == ctl) with
    | some w => (w.offset, s)
    | none =>
      let r := newWindow s x size
      (r.1, { r.2 with vfs := putT r.2.vfs vf { x with windows := x.windows ++ [{ offset := r.1, stream := n, size := size, ctl := ctl }] } })
/-- ALIAS (R297, R301). -/
def execAliasWin (s : State) : Out := call s 0x06 .any fun v s =>
  onStream v s [(2, full64), (3, full64), (4, full64)] fun _ n w =>
    v.ownVf s (v.word 2) fun _ =>
      if w.sc ≠ 4 then Svc.fail s vSTATE
      else
        let r := mapWindow s (v.word 2) n (aliasSize w) false
        Svc.ok r.2 [(3, r.1), (4, aliasSize w)]
/-- SCTLPG (R298, R301). -/
def execSctlpg (s : State) : Out := call s 0x0D .any fun v s =>
  onStream v s [(2, full64), (3, full64)] fun _ n _ =>
    v.ownVf s (v.word 2) fun _ =>
      let r := mapWindow s (v.word 2) n 4096 true
      Svc.ok r.2 [(3, r.1)]
/-- SSTALL (R301). -/
def execSstall (s : State) : Out := call s 0x0E .any fun v s =>
  onStream v s [(2, full64)] fun _ n w =>
    let e := v.word 2
    if e ≠ 0 ∧ (e < 10 ∨ 40 < e) then Svc.fail s vRANGE
    else if isFar v s w then farCall v s n w (.stall e) fun s _ => Svc.ok s
    else Svc.ok (s.setStream v.c.part n { w with stalle := e })

/-- SSTAT (R301). -/
def execSstat (s : State) : Out := call s 0x0F .any fun v s =>
  onStream v s [(2, full64)] fun _ n w =>
    let put (s : State) (m : Nat) : SvcOut := match v.write s (v.word 2) (toBytes 128 m) with
      | some s => Svc.ok s
      | none => Svc.fail s vARG
    if isFar v s w then farCall v s n w .stat fun s r => put s (r % 2 ^ 1024) else put s w.encode

end Sys2Proof.Machine
end

