-- ==== Sys2Proof/Machine/Oasis.lean ====
section
/-!
DEFINITION. Oasis memory (R341 to R347, R375, R386): allocation, quotas, mirrors, and the loss of switch
dies.
-/
namespace Sys2Proof.Machine

/-! ### Quotas (R342, R347) -/

/-- The quota of a partition on a switch die of this module. -/
def State.oquota (s : State) (p die : Nat) : Nat := getTD s.oasis.quota (p * 4 + die) 0
/-- The granules that a partition uses on a switch die of this module: those of its allocations here, and those that
mirrors of other modules' take (R342, R343). -/
def State.oused (s : State) (p die : Nat) : Nat :=
  (s.oasis.mirrors.filter fun m => decide (m.part = p) && decide (fld m.ga 37 36 = die)).length +
  (s.oasis.allocs.filter fun a => decide (a.part = p) && decide (a.die = die)).foldl (fun n a => n + a.gas.length) 0
/-- Whether a switch die of this module is lost. -/
def State.dieLost (s : State) (die : Nat) : Bool := s.oasis.lost.contains (s.boot.modnum, die)
/-- The granules of a switch die. -/
abbrev dieGranules : Nat := 32768

/-- OQUOTA (R342, R347). -/
def execOquota (s : State) : Out := call s 0x10 .host fun v s =>
  let p := v.word 1
  let d := v.word 2
  if !v.only [(1, full64), (2, full64), (3, full64)] || decide (3 < d) then Svc.fail s vRANGE
  else Svc.named s p fun _ =>
    let others := ((List.range 12).filter fun k => decide (k ≠ p)).foldl (fun n k => n + s.oquota k d) 0
    if v.word 3 < s.oused p d ∨ dieGranules < others + v.word 3 then Svc.fail s vSTATE
    else Svc.ok { s with oasis := { s.oasis with quota := putT s.oasis.quota (p * 4 + d) (v.word 3) } }
/-- OQSTAT (R347). -/
def execOqstat (s : State) : Out := call s 0x11 .any fun v s =>
  let d := v.word 1
  if !v.only [(1, full64), (2, full64), (3, full64), (4, full64)] || decide (3 < d) then Svc.fail s vRANGE
  else Svc.ok s [(2, s.oquota v.c.part d), (3, s.oused v.c.part d), (4, b2n (s.dieLost d))]
/-- OLOST (R347). -/
def execOlost (s : State) : Out := call s 0x12 .any fun v s =>
  if !v.only [(1, full64), (2, full64)] then Svc.fail s vRANGE
  else match v.pieces s (v.word 1) 1024 false true with
  | none => Svc.fail s vARG
  | some l => match writeBytes s v.c.part l (s.oasis.lost.flatMap fun e => toBytes 8 (e.1 * 2 ^ 8 + e.2)) with
    | some s => Svc.ok s [(2, s.oasis.lost.length)]
    | none => Svc.fail s vARG
/-- The allocation of a partition that begins at an address. -/
def State.allocAt (s : State) (p va : Nat) : Option OAlloc :=
  s.oasis.allocs.find? fun a => decide (a.part = p) && decide (a.va = va) && !a.freeing
/-- Replaces the allocation that begins at an address. -/
def State.setAlloc (s : State) (p va : Nat) (f : OAlloc → OAlloc) : State :=
  { s with oasis := { s.oasis with allocs := updFirst (fun a => decide (a.part = p) && decide (a.va = va) && !a.freeing) f s.oasis.allocs } }
/-- OPROMOTE (R347): the primary and the mirror change places, here and, by a token, at the mirror's module. -/
def execOpromote (s : State) : Out := call s 0x13 .any fun v s =>
  if !v.only [(1, full64)] then Svc.fail s vRANGE
  else match s.allocAt v.c.part (v.word 1) with
  | none => Svc.fail s vRANGE
  | some a => if a.copies.length = 2 then
      let s := (a.copies.filter fun m => decide (m ≠ s.boot.modnum)).foldl (fun s m =>
        s.sendLater m a.die v.c.part (memTag m a.die) (.swap a.gas)) s
      Svc.ok (s.setAlloc v.c.part (v.word 1) fun a => { a with copies := a.copies.reverse })
    else Svc.fail s vSTATE

/-! ### OALLOC and OFREE (R345, R346) -/

/-- A status that OALLOC and OFREE return (R345). -/
def oStatus (code : Nat) : Word := BitVec.ofNat 64 (0xFFFFFFFFFFFF0000 + code)
/-- The switch die an OALLOC takes: the one named, or the unlost one with the most free quota, lowest
first. -/
def pickDie (s : State) (p die : Nat) : Option Nat :=
  if die < 4 then some die
  else ((List.range 4).filter fun d => !s.dieLost d).foldl (fun b d =>
    match b with
    | none => some d
    | some k => if s.oquota p k - s.oused p k < s.oquota p d - s.oused p d then some d else some k) none
/-- The lowest VA of the oasis window that begins a run of n bytes of free pages. -/
def windowRun (x : Part) (n : Nat) : Option Nat :=
  let inW := x.pages.filter fun q => q.hits oasisWindow oasisWindowSize
  let ok (va : Nat) : Bool := decide (va + n ≤ oasisWindow + oasisWindowSize) && !inW.any fun q => q.hits va n
  ((oasisWindow :: inW.map fun q => q.va + q.size).filter ok).foldl (fun b va => match b with
    | none => some va
    | some k => some (min k va)) none
/-- Free granules of a switch die, from a start on, going round. -/
def freeGranules (s : State) (die start n : Nat) : List Nat :=
  (((List.range dieGranules).map fun j => s.boot.modnum * 2 ^ 50 + 2 ^ 46 + die * 2 ^ 36 + (start + j) % dieGranules * 2 ^ 21).filter
    fun g => !s.oasis.allocs.any fun a => a.gas.contains g).take n
/-- The module that would hold a mirror: the first after this one in the pod that qualifies; which of those do is open
(R343; DESIGN CHOICE, log entry 2). -/
def pickMirror (s : State) : Option Nat × State :=
  let f := s.free
  let me := s.boot.modnum
  let ms := (List.range 31).map fun j => (me + 1 + j) % 32
  ((ms.find? fun m => s.pod.contains m && decide (m ≠ me) && bit f.1 m), f.2)
/-- A mirror on another module takes or returns granules (R343, R346). -/
def State.askMirror (s : State) (p die : Nat) (gas : List Nat) (take : Bool) (m : Nat) : State :=
  s.sendLater m die p (memTag m die) (.mirror gas take)
/-- Bytes of memory outside some granules. -/
def zeroGranules (l : List Nat) (m : List Host.Cell) : List Host.Cell := m.filter fun c => !l.contains (granuleOf c.1)

/-- OALLOC (R345). Its result is written by LOAD_COMPLETE. -/
def execOalloc (d a : Reg) (die : Fin 5) (fc mir : Bool) (s : State) : Out :=
  onRun s fun n r =>
    let p := partOf r.rc.inst
    let size := (r.get a).toNat
    let k := cdiv size (2 ^ 21)
    if 63 ≤ r.ldc then stall s
    else if size = 0 ∨ 2 ^ 36 < size then .next (issueValue s n r d (oStatus vRANGE))
    else match s.part p, pickDie s p die.val with
    | some x, some sd =>
      let m := if mir then pickMirror s else (none, s)
      let f := m.2.free
      let gas := freeGranules s sd (f.1 % dieGranules) k
      (match windowRun x (k * 2 ^ 21) with
       | none => .next (issueValue s n r d (oStatus vSTATE))
       | some va =>
         let l := (List.range k).map fun i =>
           ({ va := va + i * 2 ^ 21, size := 2 ^ 21, ga := gas.getD i 0, attr := if fc then 2 else 0, r := true, w := true } : Page)
         if s.dieLost sd || !x.canMap va (k * 2 ^ 21) l then .next (issueValue s n r d (oStatus vSTATE))
         else if s.oquota p sd < s.oused p sd + k ∨ (mir = true ∧ m.1.isNone = true) then .next (issueValue s n r d (oStatus vQUOTA))
         else
           let al : OAlloc := { part := p, die := sd, gas := gas, va := va, copies := s.boot.modnum :: m.1.toList }
           let s := f.2.setPart p { x with pages := x.pages ++ l }
           let s := m.1.toList.foldl (fun s m => s.askMirror p sd gas true m) { s with oasis := { s.oasis with allocs := s.oasis.allocs ++ [al] } }
           .next (issueValue { s.setMem (zeroGranules gas s.mem) with bad := s.bad.filter fun a => !gas.contains (granuleOf a) } n r d (BitVec.ofNat 64 va)))
    | _, _ => .next (issueValue s n r d (oStatus vSTATE))

/-- Whether a module of the pod is out of reach: its four switch dies are lost (R344). -/
def State.moduleLost (s : State) (m : Nat) : Bool := (List.range 4).all fun d => s.oasis.lost.contains (m, d)
/-- Asks every other module of the pod within reach to unmap the granules of an allocation (R346). -/
def askUnmap (s : State) (p : Nat) (al : OAlloc) : State :=
  (s.pod.filter fun m => decide (m ≠ s.boot.modnum) && !s.moduleLost m).foldl (fun s m =>
    al.gas.foldl (fun s g => s.sendLater m al.die p (memTag m al.die) (.unmap g (2 ^ 21))) s) s
/-- OFREE (R346): the mappings go at issue, on this module and by a token to every other one; INVALIDATION_COMPLETE
and LOAD_COMPLETE bring the rest. -/
def execOfree (d a : Reg) (s : State) : Out :=
  onRun s fun n r =>
    let p := partOf r.rc.inst
    let va := (r.get a).toNat
    if 63 ≤ r.ldc then stall s
    else match s.allocAt p va, s.part p with
    | some al, some x =>
      if x.streams.any fun w => decide (w.2.bk = 2) && al.gas.any fun g =>
          decide (g < w.2.fbase + w.2.w * 2 ^ w.2.f) && decide (w.2.fbase < g + 2 ^ 21) then .next (issueValue s n r d (oStatus vSTATE))
      else
        let cut (q : Page) : Bool := al.gas.any fun g => decide (g < q.ga + q.size) && decide (q.ga < g + 2 ^ 21)
        let s := (askUnmap (s.setPart p { x with pages := x.pages.filter fun q => !cut q }) p al).setAlloc p va fun a =>
          { a with freeing := true, cut := (x.pages.filter cut).map fun q => (q.va, q.size) }
        .next (issue s n r fun id =>
          { mkPend s n r .ldc (.value 0) d.val (BitVec.ofNat 64 va) (al.gas.length * 2 ^ 21) false id with st := .waiting })
    | _, _ => .next (issueValue s n r d (oStatus vRANGE))

/-- The allocation that an OFREE is freeing. -/
def State.freeingAt (s : State) (p va : Nat) : Option OAlloc :=
  s.oasis.allocs.find? fun a => decide (a.part = p) && decide (a.va = va) && a.freeing
/-- Whether an access that reaches an allocation under OFREE is still to be performed, or another module still to be asked
(R331, R346). -/
def freeWaits (s : State) (p va : Nat) : Bool :=
  match s.freeingAt p va with
  | none => false
  | some a => (s.outbox.any fun w => match w.req with | .unmap g _ => a.gas.contains g | _ => false) || (a.cut.any fun e => inFlight s p e.1 e.2) || a.gas.any fun g => inFlightGa s g (2 ^ 21)
/-- An OFREE's invalidation has completed: the pages that it unmapped leave the TLBs, the allocation's lines leave every
fabric cache, and its granules return to their quotas, a mirror's included (R346). -/
def freed (s : State) (p va : Nat) : State :=
  match s.freeingAt p va with
  | none => s
  | some a =>
    let s := a.cut.foldl (fun s e => tlbDrop s p e.1 (e.1 + e.2)) s
    let s := (a.copies.filter fun m => decide (m ≠ s.boot.modnum)).foldl (fun s m => s.askMirror p a.die a.gas false m) s
    let s := { s with caches := { s.caches with fab := mapT (fun _ l => l.filter fun y => !a.gas.contains (granuleOf y.ga)) s.caches.fab } }
    { s with oasis := { s.oasis with allocs := delFirst (fun a => decide (a.part = p) && decide (a.va = va) && a.freeing) s.oasis.allocs } }

/-- INVALIDATION_COMPLETE (R331): argument 0 names the queue whose head call invalidates; or it is 13,
and argument 1 names an OFREE (R346), whose turn comes once the other modules have answered (DEDUCED, log entry 35). -/
def execInvalidationComplete (s : State) : Out :=
  let q := s.arg 0
  .next (if q = 13 then
    (match s.pend (s.arg 1) with
    | none => s
    | some o => match o.act, o.st with
      | .value v, .waiting =>
        if freeWaits s o.part o.va.toNat then s
        else (freed s o.part o.va.toNat).setPend { o with st := .done v }
      | _, _ => s)
  else match s.callList q with
  | [] => s
  | c :: _ =>
    let lo := c.work.getD 0 0
    let n := c.work.getD 1 0
    if !c.invalidates || inFlight s c.part lo n then s
    else respond (tlbDrop s c.part lo (lo + n)) q c [] vOK 0)

/-! ### Loss (R299, R344, R375, R386) -/

/-- Whether an address's primary is on a switch die that is being lost, and another copy survives: of an allocation of this
module's or of any other's (R344). -/
def fellOver (s : State) (m die : Nat) (ga : Nat) : Bool :=
  decide (gaKind ga = 1) && decide (fld ga 37 36 = die) && match copiesOf s ga with
    | a :: _ :: _ => decide (a = m)
    | _ => false
/-- A write or read-modify-write to a mirrored allocation that was not performed at the loss faults; it
may or may not have taken effect, and so may one that its primary has executed and its mirror not yet applied (R344; DESIGN
CHOICE, log entry 2). -/
def loseWrite (s : State) (q : Pend) : State :=
  let f := s.free
  let s := f.2
  let gone (s : State) : State := s.setPend { q with st := .faulted (pendFault s q cLOST q.ga) }
  let v : Option (List Byte) := match q.act with
    | .store n v => some (toBytes n v.toNat)
    | .rmw op b d => (match homeRead s q.part q.ga 8 with
      | .ok m => (atomNew op (BitVec.ofNat 64 m) b d).map fun v => toBytes 8 v.toNat
      | .error _ => none)
    | _ => none
  match q.st.open_, v with
  | true, some bs => if f.1 % 2 = 0 then gone s else (match homeWrite s q.part q.ga bs with
    | .ok s => gone s
    | .error _ => gone s)
  | true, none => gone s
  | false, _ => if f.1 % 2 = 0 then gone s else s
/-- The VA through which a partition maps an address, if it does. -/
def vaOf (x : Part) (ga : Nat) : Nat :=
  match x.pages.find? fun q => decide (q.ga ≤ ga) && decide (ga < q.ga + q.size) with
  | some q => q.va + (ga - q.ga)
  | none => 0
/-- Whether a byte range of a partition's space meets such an allocation: the first address that does. -/
def fellIn (s : State) (m die p va n : Nat) : Option Nat :=
  (physRanges s p va n).findSome? fun e => if fellOver s m die e.1 then some e.1 else if fellOver s m die (e.1 + e.2 - 1) then some (e.1 + e.2 - 1) else none
/-- A command that is writing elements to such an allocation stops, as `loseWrite` says (R323, R344, R386). -/
def loseCmd (m die : Nat) (s : State) (c : Cmd) : State :=
  let writing (k : Chunk) : Option (Chunk × Nat × Nat) :=
    if !k.outs.isEmpty || (decide (c.op = eRED) && k.whole) then
      (c.next k).findSome? fun a => (fellIn s m die c.part a.1 a.2).map fun ga => (k, a.1, ga)
    else none
  match (c.chunk.toList ++ c.back).findSome? writing, s.cmdTile c with
  | some (k, va, ga), some t =>
    if !c.st.open_ || c.stream true then s
    else
      let f := s.free
      let s := if f.1 % 2 = 0 then f.2 else moveChunk f.2 c t k
      match s.cmd c.id with
      | some c => stopAt s c cLOST va ga
      | none => s
  | _, _ => s
/-- A pattern that is storing to such an allocation freezes, as `loseWrite` says (R344, R386): e names its instance, its
tile, its number and the access. -/
def losePat (m die : Nat) (s : State) (e : Nat × Nat × Nat × PAcc) : State :=
  match s.inst e.1 with
  | none => s
  | some i => match getT i.tiles e.2.1, fmtOf (patFmt (i.img.pat e.2.1 e.2.2.1)) with
    | some t, some f =>
      let v : PView := ⟨e.1, e.2.1, e.2.2.1, i, t, i.img.pat e.2.1 e.2.2.1, t.pat e.2.2.1, f⟩
      let a := e.2.2.2
      (match fellIn s m die v.part a.va a.n with
      | none => s
      | some ga =>
        let g := s.free
        v.freeze (if g.1 % 2 = 0 then g.2 else v.store g.2 a) cLOST a.va ga (some a.op))
    | _, _ => s
/-- The stores of patterns that are still to be performed. -/
def State.patStores (s : State) : List (Nat × Nat × Nat × PAcc) :=
  s.insts.flatMap fun e => e.2.tiles.flatMap fun t => t.2.pats.flatMap fun j =>
    if patStore (e.2.img.pat t.1 j.1) then
      (j.2.accs.filter fun a => !a.complete true && !a.eddy && !j.2.bad.contains a.op).map fun a => (e.1, t.1, j.1, a)
    else []
/-- A record parked on a lost word is replaced by the instance's trap continuation, which takes over its pool entry (R176,
R375). -/
def loseParked (s : State) (ga : Nat) (e : Nat × Nat × Nat) : State :=
  match s.part e.1 with
  | none => s
  | some x => match (getTD x.pool e.2.1 {}).rc with
    | none => s
    | some r =>
      let f : FaultRec := { inst := r.inst, code := cLOST, src := 4, intrap := r.trapc, addr := vaOf x ga, cyc := s.cyc, detail := ga }
      if r.trapc then post (s.setPart e.1 (poolDel x e.2.1)) e.1 { fr := f }
      else
        let c := trapRec s r.inst r.fp r.arg
        post (s.setPart e.1 { x with pool := putT x.pool e.2.1 { getTD x.pool e.2.1 {} with rc := some c } }) e.1 { fr := f, cont := some c, entry := some e.2.1 }
/-- This module's loss of a switch die is declared on every plane, over every link that has started (R38, R344). -/
def declareLost (s : State) (m die : Nat) : State :=
  if m = s.boot.modnum then (s.links.filter fun l => l.2.key.isSome).foldl (fun s l => s.tell l (.lost die)) s else s
/-- Tokens that wait for a link leave no more for a lost switch die's memory, and none for a module that is out of reach
(R344). -/
def dropOutbox (s : State) (m die : Nat) : State :=
  let dead (w : LlWait) : Bool := decide (w.module = m) && (s.moduleLost m || (decide (w.plane = die) && match w.req with
    | .apply .. => true | .mirror .. => true | .swap .. => true | _ => false))
  { s with outbox := s.outbox.filter fun w => !dead w }
/-- Marks one switch die of a module lost (R344): writes that were not performed fault, no fabric cache keeps a line of
the lost range, and what waits there is answered (R375, R386). -/
def loseDie (s : State) (m die : Nat) : State :=
  if s.oasis.lost.contains (m, die) then s
  else
    let hit := s.pends.filter fun q => q.act.writes && (match q.st with | .faulted _ => false | _ => true) && !isStream q.va && fellOver s m die q.ga
    let s := hit.foldl loseWrite s
    let s := s.cmds.foldl (loseCmd m die) s
    let s := s.patStores.foldl (losePat m die) s
    let al := s.oasis.allocs.map fun (a : OAlloc) => if a.die = die then { a with copies := a.copies.filter fun k => decide (k ≠ m) } else a
    let s := dropOutbox { s with oasis := { s.oasis with lost := s.oasis.lost ++ [(m, die)], allocs := al } } m die
    let s := declareLost s m die
    let s := { s with caches := { s.caches with fab := mapT (fun _ l => l.filter fun y => !oasisLost s y.ga) s.caches.fab } }
    let t := m * 32 + 16 + die
    let gone := (getTD s.mons t []).filter fun y => oasisLost s y.ga
    let s := { s with mons := putT s.mons t ((getTD s.mons t []).filter fun y => !oasisLost s y.ga) }
    let s := gone.foldl (fun s y => y.parked.foldl (fun s e => loseParked s y.ga e) s) s
    (s.parts.map (·.1)).foldl wakeStreams s
/-- LOSS_DECLARATION (R38, R344): by this module's own service unit, or by that of the module at a link's other end, under the
link key. -/
def execLossDeclaration (flit : LlFlit) (lost : PodDie) (s : State) : Out :=
  .next (if lost.module = s.boot.modnum then loseDie s lost.module lost.die
    else flitIn s flit (fun l => decide (l.peer = some lost.module)) fun _ s => loseDie s lost.module lost.die)
/-- UNREACHABLE_TIMEOUT (R37, R344): the module's four switch dies are lost, and partitions that wait for
their key from it wait no longer. -/
def execUnreachableTimeout (module : Nat) (s : State) : Out :=
  let s := (List.range 4).foldl (fun s d => loseDie s module d) s
  .next { s with parts := mapT (fun _ x => if x.definer = some module then { x with podWait := false } else x) s.parts }

end Sys2Proof.Machine
end

