-- ==== Sys2Proof/Machine/Loader.lean ====
section
/-!
DEFINITION. The loader's checks of a configuration image (R76 to R92, R107, R108, R217, R400), and how a
checked image stands in the state.
-/
namespace Sys2Proof.Machine

/-- The little-endian number of n bytes at an offset (R2). -/
def leAt (bs : List Byte) (off n : Nat) : Nat := ofBytes ((bs.drop off).take n)

/-- An image as its bytes lay it out (R76): the header's fields, the records by frame address in their
order, the code frames and the digest. -/
structure RawImage where
  magic : Nat
  ver   : Nat
  bw    : Nat
  bh    : Nat
  nrec  : Nat
  ncode : Nat
  entry : Nat
  trapw : Nat
  edge  : Nat
  rest  : Nat
  recs  : List (Nat × Nat)
  code  : List Nat
  digest : Nat
  hash   : Nat
  deriving DecidableEq, Repr

/-- The length that a header implies (R76). -/
def headerLength (bs : List Byte) : Nat := 32 + 40 * leAt bs 8 4 + 32 * leAt bs 12 4 + 48
/-- Consecutive records. -/
def parseRecs : Nat → List Byte → List (Nat × Nat)
  | 0, _ => []
  | n + 1, bs => (leAt bs 0 8, leAt bs 8 32) :: parseRecs n (bs.drop 40)
/-- Consecutive 32-bit words. -/
def parseWords : Nat → List Byte → List Nat
  | 0, _ => []
  | n + 1, bs => leAt bs 0 4 :: parseWords n (bs.drop 4)
/-- Reads an image whose length is the one its header implies. -/
def parseImage (bs : List Byte) : RawImage :=
  let nrec := leAt bs 8 4
  let ncode := leAt bs 12 4
  { magic := leAt bs 0 4, ver := leAt bs 4 2, bw := leAt bs 6 1, bh := leAt bs 7 1, nrec := nrec, ncode := ncode
    entry := leAt bs 16 2, trapw := leAt bs 18 2, edge := leAt bs 20 1, rest := leAt bs 21 11
    recs := parseRecs nrec (bs.drop 32), code := parseWords (8 * ncode) (bs.drop (32 + 40 * nrec))
    digest := leAt bs (32 + 40 * nrec + 32 * ncode) 48
    hash := ofBytes (sha384 (bs.take (32 + 40 * nrec + 32 * ncode))) }
/-- The image as instances use it: its frames by frame index × 2^14 + tile key. -/
def RawImage.image (r : RawImage) : Image :=
  { bw := r.bw, bh := r.bh, entry := r.entry, trapw := r.trapw, edge := r.edge, ncode := r.ncode
    frames := r.recs, code := r.code, digest := r.digest }
/-- The bytes of a checked image (R76). -/
def Image.bytes (i : Image) : Nat := 32 + 40 * i.frames.length + 32 * i.ncode + 48

/-! ### Positions -/

/-- The tile positions of a list of records, each once. -/
def tileKeys (recs : List (Nat × Nat)) : List Nat := (recs.map fun r => r.1 % 2 ^ 14).eraseDups
/-- The kind of a position: 0 C, 1 M, 2 A (R8, R10, R77). -/
def kindAt (tk : Nat) : Nat := if 0x40 ≤ tk % 128 then 2 else (tk % 128 + tk / 128) % 2
/-- Whether a kind of tile uses a frame index (R78). -/
def fidxOk (kind f : Nat) : Bool :=
  decide (f = 0) || (decide (1 ≤ f) && decide (f ≤ (if kind = 0 then 4 else 8))) || (decide (9 ≤ f) && decide (f ≤ 20)) ||
    (decide (21 ≤ f) && decide (f ≤ (if kind = 2 then 24 else 22))) || (decide (25 ≤ f) && decide (f ≤ 27)) ||
    (decide (kind ≠ 2) && decide (28 ≤ f) && decide (f ≤ 31)) || (decide (32 ≤ f) && decide (f ≤ 63)) ||
    (decide (kind = 1) && decide (64 ≤ f) && decide (f ≤ 32831))
/-- Whether numbers rise strictly. -/
def rising : List Nat → Bool
  | a :: b :: l => decide (a < b) && rising (b :: l)
  | _ => true

/-! ### The checks of R92, in order -/

/-- 0x01: the header and the digest. -/
def check01 (r : RawImage) : Bool :=
  decide (r.magic = 0x59544D42) && decide (r.ver = 1) && decide (1 ≤ r.bw) && decide (r.bw ≤ 8) && decide (1 ≤ r.bh) &&
    decide (r.bh ≤ 16) && decide (r.ncode ≤ 8192) && decide (r.edge < 4) && decide (r.rest = 0) && decide (r.digest = r.hash)
/-- 0x02: the records' order and addresses. -/
def check02 (r : RawImage) : Bool :=
  rising (r.recs.map (·.1)) && r.recs.all fun e =>
    let x := e.1 % 128
    decide (e.1 < 2 ^ 30) && (decide (x < 8 * r.bw) || decide (x = 0x40) || decide (x = 0x41)) &&
      decide (fld e.1 13 7 < 8 * r.bh) && fidxOk (kindAt (e.1 % 2 ^ 14)) (e.1 / 2 ^ 14)
/-- Whether a record supplies a frame. -/
def Image.supplies (i : Image) (f tk : Nat) : Bool := (getT i.frames (f * 2 ^ 14 + tk)).isSome
/-- 0x03: kinds, valid bits and sides. -/
def check03 (i : Image) (tks : List Nat) : Bool :=
  tks.all fun tk =>
    (!i.supplies 0 tk || decide (i.kind tk = kindAt tk)) &&
    ((List.range 8).all fun k => i.hasSlot tk k == bit (i.frame (1 + k) tk) 255) &&
    ((List.range 4).all fun k => i.hasChain tk k == bit (i.frame (21 + k) tk) 255) &&
    (decide (tk % 128 < 0x40) || bit i.edge (tk % 128 - 0x40))
/-- The 64 route entries of a position (R90). -/
def Image.routes (i : Image) (tk : Nat) : List Nat :=
  (List.range 64).map fun e => fld (i.frame (28 + e / 16) tk) (16 * (e % 16) + 15) (16 * (e % 16))
/-- 0x04: reserved fields and codes. -/
def check04 (i : Image) (tks : List Nat) : Bool :=
  tks.all fun tk =>
    decide (i.frame 0 tk % 2 ^ 238 = 0) &&
    ((List.range 8).all fun k => decide (i.frame (1 + k) tk % 2 ^ 40 = 0)) &&
    ((List.range 24).all fun p => decide (i.ep tk p % 2 ^ 98 = 0) && (isInput p || decide (fld (i.ep tk p) 109 98 = 0))) &&
    ((List.range 4).all fun k =>
      let w := i.frame (21 + k) tk
      decide (fld w 242 216 = 0) && decide (fld w 215 (36 * min 6 (i.nlev tk k)) = 0) && decide (fld w 251 248 ≤ 8) &&
        (decide (fld w 247 244 ≤ 7) || decide (fld w 247 244 = 15))) &&
    (match kindAt tk with
     | 0 => decide (fld (i.frame 27 tk) 255 32 = 0)
     | 1 => decide (fld (i.frame 27 tk) 180 0 = 0)
     | _ => [0, 1].all fun j => decide (i.pat tk j % 2 ^ 102 = 0) && decide (patRnd (i.pat tk j) ≤ 4)) &&
    (i.routes tk).all fun e => decide (e % 2 = 0) && decide (fld e 4 2 ≤ 4)

/-- GEN of a slot. -/
def Image.genBit (i : Image) (tk k : Nat) : Bool := bit (i.frame (1 + k) tk) 235
/-- The ports of a slot: the valid endpoints that name it (R83). -/
def Image.slotPorts (i : Image) (tk k : Nat) : List Nat :=
  (List.range 24).filter fun p => epV (i.ep tk p) && decide (epSlot (i.ep tk p) = k)
/-- 0x05: programs, chains and generators. That the chain of a COUNTED slot must have its CHAINS bit set, and that a GEN slot with
bit 234 set is refused here, is the model's choice (DESIGN CHOICE, log entry 27). -/
def check05 (i : Image) (tks : List Nat) : Bool :=
  decide (i.entry < i.words) && decide (i.trapw < i.words) && tks.all fun tk =>
    ((List.range 8).all fun k =>
      let w := i.frame (1 + k) tk
      (i.genBit tk k || decide (fld w 234 40 = 0)) &&
      (!i.hasSlot tk k ||
        (if i.genBit tk k then
          decide (kindAt tk ≠ 2) && decide (fld w 254 239 = 0) && !bit w 236 && !bit w 234 &&
            (let p := 4 + fld w 233 232
             decide (i.slotPorts tk k = [p]) && decide (epRate (i.ep tk p) = 1))
        else
          decide (1 ≤ i.slotLen tk k) && decide (i.slotEntry tk k + i.slotLen tk k ≤ 128) &&
            (!bit w 239 || i.hasChain tk (fld w 238 237))))) &&
    ((List.range 4).all fun k => !i.hasChain tk k ||
      (decide (1 ≤ i.nlev tk k) && decide (i.nlev tk k ≤ 6) && (List.range (i.nlev tk k)).all fun l => decide (1 ≤ i.count tk k l)))

/-- A valid endpoint of an image: its tile, its port and its word. -/
structure End where
  tk : Nat
  p  : Nat
  w  : Nat
  deriving DecidableEq, Repr
/-- Every valid endpoint. -/
def Image.ends (i : Image) (tks : List Nat) : List End :=
  tks.flatMap fun tk => ((List.range 24).filter fun p => epV (i.ep tk p)).map fun p => ⟨tk, p, i.ep tk p⟩
/-- The producer and the consumer of a channel, if it has one of each on one plane (R84). -/
def channelEnds (l : List End) (ch : Nat) : Option (End × End) :=
  match l.filter fun e => decide (epCh e.w = ch) && !isInput e.p, l.filter fun e => decide (epCh e.w = ch) && isInput e.p with
  | [a], [b] => if isWide a.p == isWide b.p then some (a, b) else none
  | _, _ => none
/-- The channels of an image. -/
def channels (l : List End) : List Nat := (l.map fun e => epCh e.w).eraseDups
/-- 0x06: channels. -/
def check06 (l : List End) : Bool := (channels l).all fun ch => (channelEnds l ch).isSome
/-- The producer and consumer of every channel. -/
def pairs (l : List End) : List (End × End) := (channels l).filterMap (channelEnds l)
/-- The rate of an endpoint for R86: a pattern's endpoint counts as 1 (R311). -/
def Image.rate (i : Image) (e : End) : Nat :=
  if kindAt e.tk = 2 ∧ (i.patUses e.tk 0 e.p || i.patUses e.tk 1 e.p) = true then 1 else epRate e.w
/-- 0x07: rates, depths and priming (R83, R85, R86). -/
def check07 (i : Image) (tks : List Nat) (l : List End) : Bool :=
  (l.all fun e => !isInput e.p ||
    (decide (1 ≤ epRate e.w) && decide (1 ≤ epDepth e.w) && decide (epDepth e.w ≤ (if isWide e.p then 16 else 31)) && decide (epInit e.w ≤ epDepth e.w))) &&
  ((pairs l).all fun c => decide (epInit c.2.w + i.rate c.1 ≤ epDepth c.2.w) && decide (i.rate c.2 ≤ epDepth c.2.w) &&
    (!epFb c.2.w || decide (i.rate c.2 ≤ epInit c.2.w))) &&
  tks.all fun tk =>
    let n := (l.filter fun e => decide (e.tk = tk) && isInput e.p && !isWide e.p).foldl (fun a e => a + epInit e.w) 0
    decide (n = fld (i.frame 0 tk) 241 238) && decide (n ≤ 8)
/-- Removes the tiles with no edge in, n times. -/
def prune : Nat → List (Nat × Nat) → List (Nat × Nat)
  | 0, l => l
  | n + 1, l => prune n (l.filter fun e => l.any fun f => decide (f.2 = e.1))
/-- 0x08: the channels that are not feedback form no directed cycle (R86, R400). -/
def check08 (tks : List Nat) (l : List End) : Bool :=
  (prune tks.length (((pairs l).filter fun c => !epFb c.2.w).map fun c => (c.1.tk, c.2.tk))).isEmpty

/-- Follows a channel from the router of a position to its sink (R91). -/
def follow (i : Image) (ch : Nat) (wide : Bool) (sink : Nat) : Nat → Nat → Nat → Bool
  | 0, _, _ => false
  | n + 1, x, y =>
    match (i.routes (tkey y x)).find? fun e => bit e 15 && decide (fld e 14 5 = ch) && (bit e 1 == wide) with
    | none => false
    | some e => match fld e 4 2 with
      | 0 => decide (0 < y) && follow i ch wide sink n x (y - 1)
      | 1 => if x + 1 < 8 * i.bw then follow i ch wide sink n (x + 1) y else decide (sink = tkey y 0x41)
      | 2 => decide (y + 1 < 8 * i.bh) && follow i ch wide sink n x (y + 1)
      | 3 => if 0 < x then follow i ch wide sink n (x - 1) y else decide (sink = tkey y 0x40)
      | _ => decide (sink = tkey y x)
/-- 0x09: routes (R91). -/
def check09 (i : Image) (tks : List Nat) (l : List End) : Bool :=
  (tks.all fun tk =>
    let v := ((i.routes tk).filter fun e => bit e 15).map fun e => (fld e 14 5, bit e 1)
    decide (v.eraseDups.length = v.length)) &&
  (pairs l).all fun c =>
    let x := if c.1.tk % 128 = 0x40 then 0 else if c.1.tk % 128 = 0x41 then 8 * i.bw - 1 else c.1.tk % 128
    follow i (epCh c.1.w) (isWide c.1.p) c.2.tk (64 * i.bw * i.bh + 1) x (c.1.tk / 128)

/-- Whether a kind of tile has a scalar operation (R107). -/
def scalarIn (kind : Nat) : Instr → Bool
  | .ldl _ _ _ => decide (kind = 1)
  | .stl _ _ _ => decide (kind = 1)
  | .sAtom _ _ _ _ => decide (kind = 1)
  | .limw _ => decide (kind = 1)
  | .limr _ => decide (kind = 1)
  | .setprec _ => decide (kind = 0)
  | .getprec _ _ => decide (kind = 0)
  | _ => true
/-- Whether a kind of tile has a vector operation (R107). -/
def vectorIn (kind : Nat) (v : Instr) : Bool :=
  match v with
  | .vnop => true
  | .vld _ _ _ => decide (kind = 1)
  | .vst _ _ _ => decide (kind = 1)
  | .vgath _ _ _ _ => decide (kind = 1)
  | .mma _ _ _ _ _ => decide (kind = 0)
  | .mmas _ _ _ _ => decide (kind = 0)
  | .mz _ => decide (kind = 0)
  | .mrd _ _ _ _ => decide (kind = 0)
  | .mrdStatus _ _ _ _ => decide (kind = 0)
  | .manch _ _ => decide (kind = 0)
  | .manchPreset _ _ => decide (kind = 0)
  | .pfill _ _ _ _ => decide (kind = 0)
  | .pfillPort _ _ _ _ => decide (kind = 0)
  | .pemit _ _ => decide (kind = 0)
  | .prel _ => decide (kind = 0)
  | _ => decide (kind ≠ 2)
/-- The port that a slot's operation names under rule 4 of R108. -/
def portNamed : Instr → Option Nat
  | .takes _ p => some (8 + p.val)
  | .peeks _ p => some (8 + p.val)
  | .puts p _ => some (16 + p.val)
  | .putr p _ _ => some (16 + p.val)
  | .take _ p _ => some p.val
  | .takeMark _ p _ _ => some p.val
  | .peek _ p _ => some p.val
  | .peekMark _ p _ _ => some p.val
  | .drop p => some p.val
  | .put p _ _ => some (4 + p.val)
  | .puth p _ _ _ => some (4 + p.val)
  | .pute p _ _ => some (4 + p.val)
  | _ => none
/-- The port that a slot's operation names under rule 5 of R108: MMAS, PFILL and PEMIT name theirs too (R257, R261, R262). -/
def portOfSlot : Instr → Option Nat
  | .mmas _ _ _ p => some p.val
  | .pfillPort _ p _ _ => some p.val
  | .pemit p _ => some p.val
  | x => portNamed x
/-- The chain and level that a slot's operation names (rule 6 of R108). -/
def chainNamed : Instr → Option (Nat × Nat)
  | .cntr _ k l => some (k.val, l.val)
  | .cadv k l => some (k.val, l.val)
  | _ => none
/-- Whether a P-word is legal for a slot (R108). -/
def wordLegal (i : Image) (tk k w : Nat) : Bool :=
  match decodeP w with
  | .error _ => false
  | .ok w =>
    w.scalar.wf && w.vector.wf && scalarIn (kindAt tk) w.scalar && vectorIn (kindAt tk) w.vector &&
    ([w.scalar, w.vector].all fun x =>
      (match portNamed x with
       | some p => epV (i.ep tk p) && decide (epSlot (i.ep tk p) = k)
       | none => true) &&
      (match chainNamed x with
       | some (c, l) => i.hasChain tk c && decide (l < i.nlev tk c)
       | none => true)) &&
    ((portOfSlot w.scalar).isNone || decide (portOfSlot w.scalar ≠ portOfSlot w.vector))
/-- The firing-store words of a slot's program (R81). -/
def Image.program (i : Image) (tk k : Nat) : List Nat := (List.range (i.slotLen tk k)).map fun n => i.pword tk (i.slotEntry tk k + n)
/-- The used slots that have a program. -/
def Image.actors (i : Image) (tk : Nat) : List Nat := (List.range 8).filter fun k => i.hasSlot tk k && !i.genBit tk k
/-- 0x0A: legal words (R108). -/
def check0A (i : Image) (tks : List Nat) : Bool :=
  tks.all fun tk => (i.actors tk).all fun k => (i.program tk k).all (wordLegal i tk k)
/-- Whether a P-word holds VBC. -/
def hasVbc (w : Nat) : Bool :=
  match decodeP w with
  | .ok w => (match w.vector with | .vbc _ _ _ => true | _ => false)
  | .error _ => false
/-- 0x0B: VBC and REPL (R87). -/
def check0B (i : Image) (tks : List Nat) : Bool :=
  tks.all fun tk => (i.actors tk).all fun k =>
    if bit (i.frame (1 + k) tk) 236 then (i.slotPorts tk k).any fun p => decide (4 ≤ p) && decide (p < 8)
    else !(i.program tk k).any hasVbc
/-- 0x0C: the initial PREC of C-tiles (R89), in every frame 27 that is there or must be. -/
def check0C (i : Image) (tks : List Nat) : Bool :=
  tks.all fun tk => decide (kindAt tk ≠ 0) || !(i.supplies 0 tk || i.supplies 27 tk) || precLegal (i.frame 27 tk % 2 ^ 20)
/-- Whether the fields of a pattern are consistent (R89), which one whose V is 0 need not be (DESIGN CHOICE, log entry 27). -/
def patternOk (i : Image) (tk w : Nat) : Bool :=
  !patV w ||
    ((fmtOf (patFmt w)).isSome && (!patRaw w || isIntFmt (patFmt w)) && (!patReuse w || (isBlockFmt (patFmt w) && patStore w)) &&
      (decide (patTbt w = 0) || decide (patFmt w = 0x18)) && (decide (patRnd w ≠ 4) || epV (i.ep tk (patRndp w))))
/-- 0x0D: patterns (R89). -/
def check0D (i : Image) (tks : List Nat) : Bool :=
  tks.all fun tk => decide (kindAt tk ≠ 2) ||
    (([0, 1].all fun j => patternOk i tk (i.pat tk j)) &&
      (!i.supplies 0 tk || i.supplies 27 tk || !(List.range 24).any fun p => epV (i.ep tk p)))
/-- 0x0E: preload frames and bank use. -/
def check0E (i : Image) : Bool :=
  i.frames.all fun f =>
    let n := f.1 / 2 ^ 14
    decide (n < 64) || decide (i.bankUse (f.1 % 2 ^ 14) ((n - 64) / 2048) % 3 = 0)

/-- The lowest failing check of an image (R92), or none. -/
def imageFails (r : RawImage) : Option Nat :=
  let i := r.image
  let tks := tileKeys r.recs
  let l := i.ends tks
  if !check01 r then some 0x01 else if !check02 r then some 0x02 else if !check03 i tks then some 0x03
  else if !check04 i tks then some 0x04 else if !check05 i tks then some 0x05 else if !check06 l then some 0x06
  else if !check07 i tks l then some 0x07 else if !check08 tks l then some 0x08 else if !check09 i tks l then some 0x09
  else if !check0A i tks then some 0x0A else if !check0B i tks then some 0x0B else if !check0C i tks then some 0x0C
  else if !check0D i tks then some 0x0D else if !check0E i then some 0x0E else none

/-- Whether an image fits a partition's rectangle (R156). -/
def fits (x : Part) (i : Image) : Bool :=
  decide (i.bw ≤ x.bw) && decide (i.bh ≤ x.bh) && (!bit i.edge 0 || decide (x.bx = 0)) && (!bit i.edge 1 || decide (x.bx + x.bw = 8)) &&
    (decide (i.edge ≠ 3) || decide (i.bw = x.bw))

end Sys2Proof.Machine
end

