-- ==== Sys2Proof/Machine/BindCalls.lean ====
section
/-!
DEFINITION. The binding calls (R137 to R140), PRELOAD (R158), EVICT (R407), BTIMEO (R140), and the VF and
slice calls VFASSIGN (R125), VFTEAR (R387) and PSLICE (R388).
-/
namespace Sys2Proof.Machine

/-! ### BIND and UNBIND (R137 to R140) -/

/-- Unloads the idle instances of a configuration that serve no later packet (R139). -/
def unloadIdle (s : State) (vf cfg : Nat) : State :=
  ((s.insts.filter fun e => decide (e.2.vf = vf) && decide (e.2.cfg = cfg) && decide (e.2.phase = .idle)).map (·.1)).foldl unload s
/-- The images that a partition's control area holds, each by its binding with its bytes: those bound in its VFs, and
replaced or unbound ones that a packet or an instance still uses (R139, R140, R267). -/
def imagesKept (s : State) (p : Nat) : List (Nat × Nat) :=
  let of (b : Binding) : Nat × Nat := (b.id, b.img.bytes)
  let queue : List Packet := match s.part p with | some x => x.queue | none => []
  let vfs := s.vfs.filter fun v => decide (v.2.part = p)
  ((vfs.flatMap fun v => v.2.table.map fun b => of b.2) ++ ((vfs.flatMap fun v => v.2.park) ++ queue).filterMap (fun q => q.bind.map of) ++
    (s.insts.filter fun e => decide (e.1 / 8 = p)).map fun e => (e.2.bindId, e.2.img.bytes)).eraseDups
/-- The bytes of those images. -/
def boundBytes (s : State) (p : Nat) : Nat := ((imagesKept s p).map (·.2)).sum
/-- Whether an image fits a partition, and the partition that a PRESIZE under way will leave (R147, R156; DESIGN CHOICE, log entry
51). -/
def fitsNow (s : State) (p : Nat) (x : Part) (i : Image) : Bool :=
  fits x i && match s.resizing p with | some y => fits y i | none => true
/-- The commit of a BIND (R137 to R139). -/
def bindCommit (s : State) (vf cfg : Nat) (v : Vf) (i : Image) : State :=
  let b : Binding := { img := i, id := s.bindNo }
  let park := v.park.map fun (q : Packet) => if q.cfg = cfg ∧ q.bind.isNone = true then { q with bind := some b } else q
  let s := { s with vfs := putT s.vfs vf { v with table := putT v.table cfg b, park := park }, bindNo := s.bindNo + 1 }
  unparkVf (unloadIdle s vf cfg) vf 256
/-- BIND (R137 to R140). A length that does not match the header answers SVC_RANGE (R140) with R92's check code 0x01 as
its detail; of several refusals, the first in the order below is the one that is answered (DESIGN CHOICE, log entry
49). -/
def execBind (s : State) : Out := call s 0x14 .any fun v s =>
  let cfg := v.word 2
  let n := v.word 4
  if !v.only [(1, 63), (2, 2 ^ 32 - 1), (3, full64), (4, full64)] || decide (cfg = 0) then Svc.fail s vRANGE
  else v.ownVf s (v.word 1) fun x => v.withPart s fun y =>
    if v.word 3 % 64 ≠ 0 then Svc.fail s vARG
    else match v.read s (v.word 3) n with
    | none => Svc.fail s vARG
    | some (s1, bs) =>
      if n < 80 ∨ n ≠ headerLength bs then Svc.fail s vRANGE 1
      else
        let r := parseImage bs
        match imageFails r with
        | some c => Svc.fail s vIMAGE c
        | none =>
          if !fitsNow s v.c.part y r.image then Svc.fail s vRANGE
          else if (getT x.table cfg).isNone ∧ 1024 ≤ x.table.length then Svc.fail s vSTATE 1
          else if Config.imageRoom y.csl < boundBytes s v.c.part + n then Svc.fail s vSTATE 2
          else Svc.ok (bindCommit s1 (v.word 1) cfg x r.image)
/-- UNBIND (R139, R140). -/
def execUnbind (s : State) : Out := call s 0x15 .any fun v s =>
  if !v.only [(1, full64), (2, full64)] then Svc.fail s vRANGE
  else v.ownVf s (v.word 1) fun x =>
    if (getT x.table (v.word 2)).isNone then Svc.fail s vSTATE
    else Svc.ok (unloadIdle { s with vfs := putT s.vfs (v.word 1) { x with table := delT x.table (v.word 2) } } (v.word 1) (v.word 2))
/-- BQUERY (R140). -/
def execBquery (s : State) : Out := call s 0x16 .any fun v s =>
  if !v.only [(1, full64), (2, full64), (3, full64), (4, full64), (5, full64), (6, full64)] then Svc.fail s vRANGE
  else v.ownVf s (v.word 1) fun x =>
    let mine := s.insts.filter fun e => decide (e.2.vf = v.word 1) && decide (e.2.cfg = v.word 2)
    let cur (e : Nat × Inst) : Bool := match getT x.table (v.word 2) with | some b => decide (e.2.bindId = b.id) | none => false
    let n := (mine.filter cur).length
    let st := if (getT x.table (v.word 2)).isNone then 0 else if n = 0 then 1 else 2
    let parked := (x.park.filter fun q => decide (q.cfg = v.word 2)).length
    Svc.ok s [(3, st), (4, n), (5, parked), (6, b2n (mine.any fun e => !cur e && decide (e.2.phase ≠ .idle)))]
/-- BTIMEO (R140). -/
def execBtimeo (s : State) : Out := call s 0x17 .host fun v s =>
  if !v.only [(1, full64), (2, full64)] || decide (v.word 2 < 1000) || decide (2 ^ 32 ≤ v.word 2) then Svc.fail s vRANGE
  else match getT s.vfs (v.word 1) with
  | none => Svc.fail s vRANGE
  | some x => Svc.ok { s with vfs := putT s.vfs (v.word 1) { x with timeout := v.word 2 } }
/-- PRELOAD (R158): it waits for its place as a packet does, then for the load; where an idle instance of the same image stands it
loads a further one (DESIGN CHOICE, log entry 18). -/
def execPreload (s : State) : Out := call s 0x18 .any fun v s =>
  if !v.only [(1, 63), (2, 2 ^ 32 - 1)] then Svc.fail s vRANGE
  else v.ownVf s (v.word 1) fun x => match getT x.table (v.word 2) with
    | none => Svc.fail s vSTATE
    | some b =>
      if v.c.phase = 2 then
        match s.inst (v.c.work.getD 0 0) with
        | some i => if i.phase = .loading then .wait s 2 v.c.work else Svc.ok s
        | none => Svc.ok s
      else match place s v.c.part b with
      | .wait s => .wait s 1 []
      | .ready s k => match s.part v.c.part with
        | some y => .wait (loadInst s v.c.part k y b { vf := v.word 1, cfg := v.word 2 } true) 2 [v.c.part * 8 + k]
        | none => Svc.fail s vSTATE
/-- EVICT (R407). -/
def execEvict (s : State) : Out := call s 0x19 .any fun v s =>
  if !v.only [(1, 63), (2, 2 ^ 32 - 1), (3, full64)] then Svc.fail s vRANGE
  else v.ownVf s (v.word 1) fun _ =>
    let l := s.insts.filter fun e => decide (e.2.vf = v.word 1) && (decide (v.word 2 = 0) || decide (e.2.cfg = v.word 2)) && decide (e.2.phase = .idle)
    Svc.ok ((l.map (·.1)).foldl unload s) [(3, l.length)]

/-! ### Virtual functions (R125, R387) -/

/-- VFASSIGN (R125). -/
def execVfassign (s : State) : Out := call s 0x1D .host fun v s =>
  let n := v.word 1
  if !v.only [(1, 63), (2, 15), (3, 1), (4, 3)] || (s.part (v.word 2)).isNone then Svc.fail s vRANGE
  else if (getT s.vfs n).isSome then Svc.fail s vSTATE
  else
    let ports := (List.range 4).foldl (fun l i => if i ≤ v.word 4 then putT l (4 * n + i) {} else delT l (4 * n + i)) s.ports
    Svc.ok { s with vfs := putT s.vfs n { part := v.word 2, hport := v.word 3, nports := v.word 4 + 1 }, ports := ports }

/-- Stops an instance and its descendants as FABORT does, to a nesting depth of n, but writes no
completion yet: the completions due are collected, and stores and read-modify-writes already issued stay
on their way (R387). -/
def stopInst : Nat → State × List Owed → Nat → State × List Owed
  | 0, a, _ => a
  | n + 1, a, k =>
    match a.1.inst k with
    | none => a
    | some i =>
      let kids := (a.1.insts.filter fun e => decide (e.2.parent = some i.num)).map (·.1)
      let a := kids.foldl (stopInst n) a
      let s := abortPackets a.1 i.num
      let out := s.pends.filter fun q => decide (q.inst = i.num) && q.act.writes && q.st.open_ && !isStream q.va
      let s := unload (purge s k i.num) k
      let s := { s with pends := s.pends ++ out }
      if i.phase = .idle then (s, a.2) else (s, a.2 ++ [{ num := i.num, cga := i.cga, cval := i.cval, parent := i.parent }])
/-- Closes a VF (R387, steps 1 to 3). Packets of other VFs that waited for room in the placement queue take it (R138). -/
def vfClose (s : State) (n timeout : Nat) : State :=
  match getT s.vfs n with
  | none => s
  | some v =>
    let ports := (List.range 4).map fun i => 4 * n + i
    let clear (e : Nat × IPort) : Nat × IPort := if ports.contains e.1 then (e.1, { e.2 with toks := [], full := [] }) else e
    let arrived := ports.flatMap fun p => (s.port p).full.map fun w => mkPacket w n false
    let queued := match s.part v.part with | some x => x.queue.filter fun q => decide (q.vf = n) | none => []
    let s := s.modPart v.part fun x => { x with queue := x.queue.filter fun q => decide (q.vf ≠ n) }
    let s := { s with ports := s.ports.map clear }
    let s := { s with vfs := putT s.vfs n { v with park := [], kids := [], windows := [], closing := some (s.cyc + timeout) } }
    let s := (arrived ++ v.kids ++ v.park ++ queued).foldl (fun s q => packetEnds s q 5 0) s
    let keys := (s.insts.filter fun e => decide (e.2.vf = n)).map (·.1)
    let r := keys.foldl (stopInst 97) (s, [])
    let s := unpark r.1 v.part
    match getT s.vfs n with
    | some v => { s with vfs := putT s.vfs n { v with stopped := v.stopped ++ r.2 } }
    | none => s
/-- VFTEAR (R387). -/
def execVftear (s : State) : Out := call s 0x1E .host fun v s =>
  let t := v.word 2
  if v.c.phase ≠ 0 then .wait s 1 v.c.work
  else if 63 < v.word 1 ∨ (t ≠ 0 ∧ (t < 1000 ∨ 2 ^ 32 ≤ t)) then Svc.fail s vRANGE
  else if (getT s.vfs (v.word 1)).isNone then Svc.fail s vSTATE
  else .wait (vfClose s (v.word 1) (if t = 0 then 100000 else t)) 1 [v.word 1]
/-- The end of a VF's drain (R387, steps 4 and 5). -/
def vfEnd (s : State) (n : Nat) (v : Vf) : State :=
  let s := { s with pends := s.pends.filter fun q => !v.stopped.any fun e => decide (e.num = q.inst) }
  let s := v.kids.foldl (fun s q => packetEnds s q 5 0) s
  let s := { s with vfs := putT s.vfs n { v with kids := [], stopped := [] } }
  let s := v.stopped.foldl abortRecord s
  let s := leaveFar s v.part 0 (.vfLeave n)
  let s := s.modPart v.part fun x => { x with streams := mapT (fun _ w => detachVf n w) x.streams }
  let s := { s with vfs := delT s.vfs n, ports := s.ports.filter fun e => decide (e.1 / 4 ≠ n) }
  wakeStreams s v.part
/-- DRAIN_TIMEOUT (R387): argument 0 names the VF. -/
def execDrainTimeout (s : State) : Out :=
  let n := s.arg 0
  .next (match getT s.vfs n with
  | none => s
  | some v => match v.closing with
    | none => s
    | some t =>
      if s.cyc < t then s
      else
        let s := vfEnd s n v
        match s.callList hostQueue with
        | c :: _ => if c.num = 0x1E ∧ c.phase = 1 ∧ c.work.head? = some n then respond s hostQueue c [] vOK 0 else s
        | [] => s)

/-! ### Slices (R388) -/

/-- PSLICE (R388). -/
def execPslice (s : State) : Out := call s 0x1F .host fun v s =>
  let w := v.word 3
  let mode := w / 2 ^ 63
  let len := w % 2 ^ 63
  let cap := v.word 4
  let mrl := v.word 5
  if !v.only [(1, 15), (2, 7), (3, full64), (4, full64), (5, full64)] then Svc.fail s vRANGE
  else Svc.named s (v.word 1) fun x =>
    if x.occs ≤ v.word 2 ∨ len < (if mode = 0 then 10000 else 2 ^ 20) ∨ (cap ≠ 0 ∧ (mode = 0 ∨ cap < 10000)) ∨
        (mrl ≠ 0 ∧ (mrl < 4096 ∨ 2 ^ 24 < mrl)) then Svc.fail s vRANGE
    else Svc.ok (s.setPart (v.word 1)
      { x with slicing := putT x.slicing (v.word 2) { mode := mode, len := len, cap := cap }, mrl := if mrl = 0 then x.mrl else mrl })

end Sys2Proof.Machine
end

