-- ==== Sys2Proof/Machine/PartCalls.lean ====
section
/-!
DEFINITION. Partitions (R35, R37, R146 to R150, R267): PDEF, PRESIZE and PTEAR, the pod partition key,
and page moves (R152 to R154, R375).
-/
namespace Sys2Proof.Machine

/-! ### Defining and resizing (R146, R147) -/

/-- The masks of a PDEF block (R146). -/
def pdefMasks : List (Nat × Nat) :=
  [(1, 0xF7F70F), (2, 2 ^ 32 - 1), (3, full64), (4, full64), (5, full64), (6, 7), (7, full64)]
/-- Whether two rectangles share a block. -/
def overlaps (a b : Part) : Bool :=
  decide (a.bx < b.bx + b.bw) && decide (b.bx < a.bx + a.bw) && decide (a.byy < b.byy + b.bh) && decide (b.byy < a.byy + a.bh)
/-- The conditions of R146 and R147 on the resources of partition p. -/
def sizeOk (s : State) (p : Nat) (y : Part) : Bool :=
  decide (y.bx + y.bw ≤ 8) && decide (y.byy + y.bh ≤ 16) && (decide (y.bx = 0) || decide (y.bx + y.bw = 8)) &&
  decide (y.colours ≠ 0) && decide (y.cores ≠ 0) && decide (y.csl + 1 ≤ (sliceList y.slices).length) &&
  s.parts.all fun e => decide (e.1 = p) ||
    (!overlaps y e.2 && decide (y.colours &&& e.2.colours = 0) && decide (y.cores &&& e.2.cores = 0) && decide (y.slices &&& e.2.slices = 0))
/-- The other modules of the pod. -/
def State.others (s : State) : List Nat := s.pod.filter fun m => decide (m ≠ s.boot.modnum)
/-- The partition that a PDEF creates with its own key, or, where another module of the pod defined it
first, without the pod's; `key` then encrypts its slices until that arrives, if it does so before the PDEF completes
(R35, R37, R147; DESIGN CHOICE, log entry 56). Its rectangle is its occupant slot 0's from now on (R389). -/
def newPart (s : State) (y : Part) (definer : Option Nat) : Part × State :=
  let k := Config.drbg s.drbg
  ({ y with key := k, podKey := if definer.isSome then none else some k, definer := definer, sliceAt := s.cyc }, { s with drbg := s.drbg + 1 })
/-- PDEF (R146, R147). Whether another module defined the partition first, and whether that module can be
reached, is open (DESIGN CHOICE, log entry 2); its service unit is asked for the pod partition key (R37), and
until the key or its refusal arrives the call waits. The partition's rim routes are written (R149). -/
def execPdef (s : State) : Out := call s 0x1A .host fun v s =>
  let p := v.word 1 % 16
  if v.c.phase ≠ 0 then
    let f := s.free
    if f.1 % 2 = 0 then .wait f.2 1 v.c.work
    else Svc.ok (f.2.modPart p fun x => { x with podWait := true, podAsked := false }) [(7, match s.part p with | some x => x.csl | none => 0)]
  else if (s.part p).isSome then Svc.fail s vSTATE
  else if !v.only pdefMasks || decide (11 < p) then Svc.fail s vRANGE
  else match v.read s (v.word 3) 128 with
  | none => Svc.fail s vARG
  | some (s1, bs) =>
    let y := ({} : Part).sized v.c.words (ofBytes bs)
    if !sizeOk s p y then Svc.fail s vRANGE
    else
      let f := s1.free
      let definer := if f.1 % 2 = 0 then none else s.others[f.1 / 2 % s.others.length]?
      let n := newPart f.2 y definer
      let s := { ((n.2.setPart p n.1).setRim p n.1) with full := emptySlices y.slices s.boot.modnum s.full }
      match definer with
      | some m => .wait (askPodKey s p m) 1 [p]
      | none => Svc.ok s [(7, y.csl)]

/-- The 4 KiB frames of HBM that a stream's frames lie in, where they stand now. -/
def Stream.hbm (x : Stream) : List Nat :=
  if x.bk = 1 then
    ((List.range ((x.fbase + x.w * 2 ^ x.f - 1) / 4096 + 1 - x.fbase / 4096)).map fun i => relocated x.reloc ((x.fbase / 4096 + i) * 4096)).eraseDups
  else []
/-- Whether every page of HBM or of host memory that a partition maps, and every frame of its streams, lies in frames and
colours that it keeps (R148, R150 to R152). No move takes a host page elsewhere: it goes by UNMAP (DESIGN CHOICE, log entry
15). -/
def keptPages (s : State) (p : Nat) (x y : Part) : Bool :=
  (x.pages.all fun q => !(decide (gaKind q.ga = 0) || decide (gaKind q.ga = 4)) || decide (gaModule q.ga ≠ s.boot.modnum) || frameOk s p y q.size q.ga) &&
    x.streams.all fun e => e.2.hbm.all fun g => frameOk s p y 4096 g
/-- Whether the slice of a partition's stream table is one that it keeps (R286). -/
def keptTable (x y : Part) : Bool := match x.stable with | some (b, _) => y.mapsSlice (fld b 39 30) | none => true
/-- PRESIZE (R147, R150): page moves first empty the frames that go; then a front saves every occupant,
the resources change, and the occupants resume. One that would take the slice of the stream table away, or the place of a resident instance or of a packet in the placement queue
whose image is bound no more, answers SVC_STATE (DESIGN CHOICE, log entries 15 and 51). -/
def execPresize (s : State) : Out := call s 0x1C .host fun v s =>
  let p := v.word 1 % 16
  if v.c.phase = 0 ∧ v.only pdefMasks = false then Svc.fail s vRANGE
  else Svc.named s p fun x =>
    let ws := v.c.work.map fun n => BitVec.ofNat 64 n
    let y := x.sized v.c.words (ofWords ws)
    match v.c.phase with
    | 0 =>
      (match v.read s (v.word 3) 128 with
       | none => Svc.fail s vARG
       | some (s1, bs) =>
         let y := x.sized v.c.words (ofBytes bs)
         if !sizeOk s p y then Svc.fail s vRANGE
         else if !keptTable x y || (s.vfs.any fun f => decide (f.2.part = p) && f.2.table.any fun b => !fits y b.2.img) ||
             (s.insts.any fun e => decide (e.1 / 8 = p) && (decide (y.occs ≤ e.1 % 8) || !fits y e.2.img)) ||
             (x.queue.any fun q => q.bind.any fun b => !fits y b.img) then Svc.fail s vSTATE
         else .wait s1 1 ((wordsN 16 (ofBytes bs)).map fun w => w.toNat))
    | 1 =>
      if x.front.isSome || !keptPages s p x y then .wait s 1 v.c.work
      else .wait (s.setPart p { x with front := some { dst := x.cur, mrl := x.mrl, presize := some (ws ++ v.c.words) } }) 2 v.c.work
    | _ => if x.front.isSome then .wait s 2 v.c.work else Svc.ok s [(7, x.csl)]

/-! ### Tearing down (R35, R147) -/

/-- Memory outside the HBM slices that a bitmap names. -/
def scrub (bitmap modnum : Nat) (m : List Host.Cell) : List Host.Cell :=
  m.filter fun c => !(decide (gaKind c.1 = 0) && decide (gaModule c.1 = modnum) && bit bitmap (fld c.1 39 30))
/-- What remains of a partition's use of the module goes: its cores are idle, its calls are dropped, its
key is destroyed with it, and its slices are scrubbed (R35, R39). -/
def dissolve (s : State) (p : Nat) (x : Part) : State :=
  let s := dropColours (tlbDrop s p 0 (2 ^ 64)) x.colours
  let own (e : Nat × Nat × Nat) : Bool := decide (e.1 = p) || (decide (16 ≤ e.1) && decide (e.2.2 = p))
  { s with
    parts := delT s.parts p
    cores := s.cores.filter fun e => !bit x.cores e.1
    calls := delT s.calls p
    pends := s.pends.filter fun q => decide (q.part ≠ p)
    cmds := s.cmds.filter fun c => decide (c.part ≠ p)
    mons := mapT (fun _ l => (l.map fun (m : Monitor) => { m with parked := m.parked.filter fun e => !own e }).filter fun m => !m.parked.isEmpty) s.mons
    moves := s.moves.filter fun m => decide (m.part ≠ p)
    rim := s.rim.filter fun e => decide (e.2 ≠ p)
    bias := mapT (fun g e => if bit x.slices (fld (g * 4096) 39 30) then (e.1, 0) else e) s.bias
    mem := scrub x.slices s.boot.modnum s.mem
    full := emptySlices x.slices s.boot.modnum s.full
    bad := emptySlices x.slices s.boot.modnum s.bad
    caches := { s.caches with
      l1 := s.caches.l1.filter fun e => !bit x.cores e.1
      fab := mapT (fun _ l => l.filter fun y => decide (y.part ≠ p)) s.caches.fab }
    outbox := s.outbox.filter fun w => decide (w.part ≠ p)
    grants := s.grants.filter fun g => decide (g.part ≠ p)
    syncs := s.syncs.filter fun w => decide (w.part ≠ p)
    oasis := { s.oasis with
      allocs := s.oasis.allocs.filter fun a => decide (a.part ≠ p)
      mirrors := s.oasis.mirrors.filter fun m => decide (m.part ≠ p)
      quota := s.oasis.quota.filter fun e => decide (e.1 / 4 ≠ p) } }
/-- PTEAR (R147): the partition's VFs are torn down, its instances aborted and its key destroyed. -/
def execPtear (s : State) : Out := call s 0x1B .host fun v s =>
  if v.c.phase = 0 ∧ v.only [(1, full64)] = false then Svc.fail s vRANGE
  else Svc.named s (v.word 1) fun x =>
    let p := v.word 1
    let vfs := (s.vfs.filter fun f => decide (f.2.part = p)).map (·.1)
    if v.c.phase = 0 then .wait (vfs.foldl (fun s n => vfClose s n 100000) s) 1 [p]
    else if !vfs.isEmpty then .wait s 1 [p]
    else Svc.ok (dissolve (((s.insts.filter fun e => decide (e.1 / 8 = p)).map (·.1)).foldl (fun s k => abort s k 0) s) p x)

/-! ### The pod partition key (R37) -/

/-- The session of a module's service unit that a flit of a link comes in: that with the module at its other end, if it is
of that secret (R37, R38). -/
def sessionOn (s : State) (l : LLink) (secret : Nat) : Option (Nat × State) :=
  match l.peer with
  | none => none
  | some m => match s.session m with
    | some (k, s) => if k = secret then some (m, s) else none
    | none => none
/-- POD_KEY_REQUEST (R37, R38): inside the session with the module at the link's other end, the defining module sends the key
only if that module's measurements stand together on its accepted list, and only to a module on which PDEF of the
partition has begun; else it refuses. -/
def execPodKeyRequest (flit : LlFlit) (ask : PodSay) (mrs : List Nat) (s : State) : Out :=
  .next (flitIn s flit (fun _ => true) fun l s =>
    match s.part ask.part, sessionOn s l ask.secret with
    | some x, some (m, s) =>
      let no : LlMsg := .podNo ask.part ask.secret
      let say : LlMsg := match x.podKey with
        | some k => if x.definer.isNone && s.pod.contains m && s.boot.accepted.contains mrs && Config.podPart m ask.part then .podKey ask.part ask.secret k else no
        | none => no
      s.tell (flit.link, getTD s.links flit.link {}) say
    | _, _ => s)
/-- POD_KEY_ARRIVAL (R37, R38): inside the session in which the partition's defining module was asked, its key, or, where
there is none, the refusal. It completes the waiting PDEF, whose partition then has this key alone, or lets waiting oasis
accesses proceed. -/
def execPodKeyArrival (flit : LlFlit) (ans : PodSay) (s : State) : Out :=
  .next (flitIn s flit (fun _ => true) fun l s =>
    match s.part ans.part with
    | none => s
    | some x =>
      let pdef := match s.callList hostQueue with
        | c :: _ => decide (c.num = 0x1A) && decide (c.phase = 1) && decide (c.work.head? = some ans.part)
        | [] => false
      let asked := x.podAsked && x.definer.isSome && decide (l.peer = x.definer) && decide ((l.peer.bind fun m => getT s.peers m) = some ans.secret)
      if x.podKey.isSome || !(pdef || x.podWait) || !asked then s
      else
        let s := s.setPart ans.part { x with podKey := ans.key, podWait := false, key := if pdef then ans.key.getD x.key else x.key }
        match s.callList hostQueue with
        | c :: _ => if pdef then respond s hostQueue c [(7, x.csl)] vOK 0 else s
        | [] => s)

/-! ### Page moves (R152 to R154, R375) -/

/-- The frame that a move of a page takes: that of the page mapped at an address, or, at a stream address whose frame is
mapped no more, the 4 KiB of HBM that hold it (R152; DESIGN CHOICE, log entry 28). -/
def moveSource (s : State) (x : Part) (va : Nat) : Option (Nat × Nat) :=
  match x.pages.find? fun q => decide (q.va = va) with
  | some q => if gaKind q.ga = 0 ∧ gaModule q.ga = s.boot.modnum then some (q.ga, q.size) else none
  | none =>
    if bit va 63 then
      match x.stream (streamNo va) with
      | some w =>
        let ga := w.addr (streamOff va) / 4096 * 4096
        if w.bk = 1 ∧ (x.pages.any fun q => decide (q.ga ≤ ga) && decide (ga < q.ga + q.size)) = false then some (ga, 4096) else none
      | none => none
    else none
/-- MOVE_START (R152, R153): a page of HBM begins to move to a free frame that the partition keeps. A frame is free once
no page maps it and no move holds it. -/
def execMoveStart (part va dst : Nat) (s : State) : Out :=
  .next (match s.part part with
  | none => s
  | some x => match moveSource s x va with
    | none => s
    | some (src, size) =>
      let meets (r : Page) (ga : Nat) : Bool := decide (r.ga < ga + size) && decide (ga < r.ga + r.size)
      if dst % size ≠ 0 ∨ 2 ^ 56 ≤ dst ∨ gaKind dst ≠ 0 ∨ gaModule dst ≠ s.boot.modnum ∨ frameOkNow s part x size dst = false ∨
          (x.pages.any fun r => meets r dst) = true ∨ (x.streams.any fun w => w.2.hbm.any fun g => decide (dst ≤ g) && decide (g < dst + size)) = true ∨
          (x.pages.any fun r => meets r src && !(decide (src ≤ r.ga) && decide (r.ga + r.size ≤ src + size))) = true ∨
          s.inMove src size = true ∨ s.inMove dst size = true ∨
          1024 ≤ (s.moves.filter fun m => decide (gaDie m.src = gaDie src)).length then s
      else
        let f := s.fresh
        { f.2 with moves := f.2.moves ++ [{ id := f.1, part := part, va := va, src := src, dst := dst, size := size }] })
/-- Whether an address lies in a move's source. -/
def Move.has (m : Move) (ga : Nat) : Bool := decide (m.src ≤ ga) && decide (ga < m.src + m.size)
/-- The destination of an address of a move's source. -/
def Move.to (m : Move) (ga : Nat) : Nat := if m.has ga then m.dst + (ga - m.src) else ga
/-- The bytes of a source frame stand in the destination too. -/
def Move.copy (m : Move) (l : List Host.Cell) : List Host.Cell :=
  (l.filter fun c => m.has c.1).foldl (fun a c => memPut a (m.to c.1) c.2)
    (l.filter fun c => !(decide (m.dst ≤ c.1) && decide (c.1 < m.dst + m.size)))
/-- What marks bytes or words of a source frame marks the destination too. -/
def Move.copyFull (m : Move) (l : List Nat) : List Nat :=
  (l.filter m.has).foldl (fun a c => insN (m.to c) a) (l.filter fun c => !(decide (m.dst ≤ c) && decide (c < m.dst + m.size)))
/-- A stream after a move of frames that hold some of it: whole arrays take a new base, and of others the part that moved is
relocated (R153, R288). -/
def Move.stream (m : Move) (w : Stream) : Stream :=
  if w.bk ≠ 1 then w
  else if w.reloc.isEmpty ∧ m.src ≤ w.fbase ∧ w.fbase + w.w * 2 ^ w.f ≤ m.src + m.size then { w with fbase := m.to w.fbase }
  else if (w.hbm.any fun g => m.has g) = true then { w with reloc := w.reloc ++ [(m.src, m.size, m.dst)] }
  else w
/-- A packet whose completion record goes to a frame that moved. -/
def Move.packet (m : Move) (q : Packet) : Packet := { q with cga := m.to q.cga }
/-- What names a frame that moved names its destination: bias and flips, synchronising loads and monitors that wait at the
home, and completion addresses (R154, R375). The destination's own bias is that of a free frame, and is forgotten. -/
def Move.names (m : Move) (s : State) : State :=
  { s with
    bias := s.bias.foldl (fun t e => if m.dst ≤ e.1 * 4096 ∧ e.1 * 4096 < m.dst + m.size then t else putT t (m.to (e.1 * 4096) / 4096) e.2) []
    calls := mapT (fun _ l => l.map fun (c : Call) =>
      if c.phase = 1 ∧ (c.num = 0x2E ∨ c.num = 0x2F) then { c with work := c.work.map fun g => m.to (g * 4096) / 4096 } else c) s.calls
    pends := s.pends.map fun (q : Pend) => if waitsSync q then { q with ga := m.to q.ga } else q
    syncs := s.syncs.map fun (w : FarSync) => { w with ga := m.to w.ga }
    compls := s.compls.map fun (e : Nat × List Byte) => (m.to e.1, e.2)
    insts := mapT (fun _ i => { i with cga := i.cga.map m.to }) s.insts
    vfs := mapT (fun _ v => { v with
      kids := v.kids.map m.packet, park := v.park.map m.packet
      stopped := v.stopped.map fun (e : Owed) => { e with cga := e.cga.map m.to } }) s.vfs
    parts := mapT (fun _ x => { x with queue := x.queue.map m.packet }) s.parts }
/-- MOVE_APPLIED (R153, R375): argument 0 names the move. Bytes and full-empty bits stand at the destination, and what
names the frame, the translations among it, leads there; monitors keep their order of arming (R374). -/
def execMoveApplied (s : State) : Out :=
  .next (match s.moves.find? fun m => decide (m.id = s.arg 0) with
  | none => s
  | some m =>
    if m.moved then s
    else
      let ms := (s.mons.flatMap (·.2)).filter fun y => m.has y.ga
      let s := m.names (dropCopies s m.src (m.src + m.size))
      let s := { s with
        mem := m.copy s.mem
        full := m.copyFull s.full
        bad := m.copyFull s.bad
        mons := mapT (fun _ l => l.filter fun (y : Monitor) => !m.has y.ga) s.mons
        moves := updFirst (fun n => decide (n.id = m.id)) (fun n => { n with moved := true }) s.moves }
      let s := ms.foldl (fun s y => putMonitor s { y with ga := m.to y.ga }) s
      s.modPart m.part fun x =>
        { x with
          pages := x.pages.map fun (q : Page) => { q with ga := m.to q.ga }
          streams := mapT (fun _ w => m.stream w) x.streams })
/-- SHOOTDOWN_COMPLETE (R153, R331): argument 0 names the move. Every access that was translated to the source has been
performed; the entries that led there have left the TLBs, and the source is free. -/
def execShootdownComplete (s : State) : Out :=
  .next (match s.moves.find? fun m => decide (m.id = s.arg 0) with
  | none => s
  | some m =>
    if !m.moved || inFlightGa s m.src m.size then s
    else
      let vas : List Page := match s.part m.part with
        | some x => x.pages.filter fun q => decide (m.dst ≤ q.ga) && decide (q.ga < m.dst + m.size)
        | none => []
      let s := vas.foldl (fun s q => tlbDrop s m.part q.va (q.va + q.size)) s
      { s with moves := delFirst (fun n => decide (n.id = m.id)) s.moves })

end Sys2Proof.Machine
end

