-- ==== Sys2Proof/Machine/FaultCalls.lean ====
section
/-!
DEFINITION. The fault calls FQSET (R381), FRESUME, FABORT, FQUERY and FMASK (R210, R383), and TSYNC
(R178).
-/
namespace Sys2Proof.Machine

/-- Whether any instance of a partition is resident. -/
def anyResident (s : State) (p : Nat) : Bool := s.insts.any fun e => decide (e.1 / 8 = p)
/-- FQSET (R381). -/
def execFqset (s : State) : Out := call s 0x20 .any fun v s =>
  v.withPart s fun x =>
    let va := v.word 1
    let n := v.word 2
    if n < 6 ∨ 16 < n then Svc.fail s vRANGE
    else if va % 4096 ≠ 0 then Svc.fail s vARG
    else match argPieces x true true (2 ^ n / 64 + 3) va (64 + 64 * 2 ^ n) with
    | none => Svc.fail s vARG
    | some l =>
      if l.any fun g => stashBad s v.c.part g.2.2.2 || decide (gaKind g.1 ≠ 0) || decide (gaModule g.1 ≠ s.boot.modnum) || s.hostBias g.1 then Svc.fail s vARG
      else if anyResident s v.c.part then Svc.fail s vSTATE
      else
        let s := s.setPart v.c.part { x with fq := some (va, n) }
        Svc.ok (writeVa (writeVa s v.c.part va (toBytes 8 0)) v.c.part (va + 16) (toBytes 8 0))

/-- Word 1 of a fault record, by which a call names its node (R380, R383). -/
def FaultRec.node (f : FaultRec) : Nat := ((f.words).getD 1 0).toNat
/-- Inserts a node before those of a higher row or, in its row, of no lower column. -/
def insertNode (a : FaultRec) : List FaultRec → List FaultRec
  | [] => [a]
  | b :: l => if a.y * 256 + a.x ≤ b.y * 256 + b.x then a :: b :: l else b :: insertNode a l
/-- The frozen nodes of an instance: its tiles and its A-tiles' patterns, by ascending row, then
column. -/
def frozenNodes (i : Inst) : List FaultRec :=
  (i.tiles.flatMap fun t => t.2.frozen.toList ++ t.2.pats.flatMap fun p => p.2.frozen.toList).foldr insertNode []
/-- Runs a body with an instance that is resident in the caller's partition (R383). -/
def Svc.resident (v : Svc) (s : State) (f : Nat → Inst → SvcOut) : SvcOut :=
  match s.instNum (v.word 1) with
  | some i => if i.part = v.c.part then f (keyOf (v.word 1)) i else Svc.fail s vRANGE
  | none => Svc.fail s vRANGE

/-- Whether a fault record names the node of a word 1: source, unit, row and column. -/
def FaultRec.at_ (f : FaultRec) (w : Nat) : Bool :=
  decide (f.src = fld w 47 45) && decide (f.unit = fld w 27 24) && decide (f.y = fld w 22 16) && decide (f.x = fld w 15 8)
/-- Whether a tile is frozen by the fault that a word 1 names. -/
def Tile.frozenAt (w : Nat) (t : Tile) : Bool := match t.frozen with | some f => f.at_ w | none => false
/-- Whether a pattern is frozen by the fault that a word 1 names. -/
def Pat.frozenAt (w : Nat) (p : Pat) : Bool := match p.frozen with | some f => f.at_ w | none => false
/-- A tile's firing does not run again, and arbitration goes on as if its slot had fired (R383); the follow-ons that fills hold
enter the issue point ahead of any firing word (R252). -/
def thawTile (dis : Bool) (f : FaultRec) (t : Tile) : Tile :=
  { t with frozen := none, ahead := t.fwait.length, disabled := if dis then f.unit :: t.disabled else t.disabled }
/-- The run of the first fault of a frozen pattern: that of its access, else the run in progress. -/
def Pat.badRun (p : Pat) : Nat :=
  match p.accs.find? fun a => decide (a.op = p.bad.headD 0) with
  | some a => a.run
  | none => p.run
/-- A pattern retries what has faulted, or drops its base and the run of its first fault (R383). -/
def thawPat (i : Image) (tk j : Nat) (dis : Bool) (t : Tile) : Tile :=
  let p := t.pat j
  if !dis then t.setPat j { p with frozen := none, bad := [] }
  else
    let r := p.badRun
    let gone := (p.accs.filter fun a => decide (a.run = r)).map (·.op)
    let t := { t with eddy := t.eddy.filter fun e => match e with | .pat k op _ => !(decide (k = j) && gone.contains op) | _ => true }
    let q := { p with frozen := none, bad := [], accs := p.accs.filter fun a => decide (a.run ≠ r), ends := p.ends.filter fun e => decide (e ≠ r)
                      head := none, dpos := 0, rnd := [] }
    if p.base.isSome ∧ r = p.run then
      let k := patChain (i.pat tk j)
      let c := getTD t.chains k {}
      { t.setPat j { q with base := none, bpos := 0, headed := false } with chains := putT t.chains k { c with running := false, idx := [] } }
    else t.setPat j q
/-- A run stopped by BRK goes on at the word after it (R101, R210). -/
def thawRun (s : State) (v : SavedRun) : SavedRun :=
  let r := v.run
  if r.pc + 1 < (s.image r).words then { v with brk := none, run := { r with pc := r.pc + 1 } }
  else { v with brk := none, run := { r with ending := some (.trap (runFault s v.core r cILLEGAL 0 0)) } }
/-- FRESUME (R210, R383). -/
def execFresume (s : State) : Out := call s 0x21 .any fun v s =>
  v.resident s fun k i =>
    let w := v.word 2
    let dis := bit (v.word 3) 0
    match fld w 47 45 with
    | 0 =>
      (match i.tiles.find? fun t => t.2.frozenAt w with
       | some (tk, t) => (match t.frozen with
         | some f => Svc.ok (s.modTile k tk (thawTile dis f))
         | none => Svc.fail s vSTATE)
       | none => Svc.fail s vSTATE)
    | 3 =>
      (match i.tiles.find? fun t => t.2.pats.any fun p => p.2.frozenAt w with
       | some (tk, t) => (match t.pats.find? fun p => p.2.frozenAt w with
         | some (j, _) => Svc.ok (s.modTile k tk (thawPat i.img tk j dis))
         | none => Svc.fail s vSTATE)
       | none => Svc.fail s vSTATE)
    | 1 =>
      let mine (y : SavedRun) : Bool := decide (y.brk = some (w % 128)) && decide (y.run.rc.inst = i.num) && decide (y.run.pc = fld w 63 48)
      v.withPart s fun x =>
        if x.saved.any mine then Svc.ok (s.setPart v.c.part { x with saved := updFirst mine (thawRun s) x.saved })
        else Svc.fail s vSTATE
    | _ => Svc.fail s vSTATE
/-- FABORT (R383). -/
def execFabort (s : State) : Out := call s 0x22 .any fun v s =>
  v.resident s fun k i => Svc.ok (abort s k (i.firstFault.getD 0))
/-- FQUERY (R383). -/
def execFquery (s : State) : Out := call s 0x23 .any fun v s =>
  v.resident s fun _ i =>
    match frozenNodes i with
    | [] => Svc.ok s [(2, 0), (3, 0), (4, 0)]
    | f :: l => Svc.ok s [(2, l.length + 1), (3, f.node), (4, f.code)]
/-- FMASK (R383). -/
def execFmask (s : State) : Out := call s 0x24 .any fun v s =>
  v.withPart s fun x =>
    if 2 ^ 16 ≤ v.word 1 then Svc.fail s vRANGE
    else Svc.ok (s.setPart v.c.part { x with fmask := v.word 1 })

/-- TSYNC (R178): through a VF's doorbell the port is that VF's; from a run, word 1 names it. -/
def execTsync (s : State) : Out := call s 0x25 .any fun v s =>
  let port := if v.c.vf.isSome then v.c.hport else v.word 1 % 2
  if !v.only [(1, 1), (2, full64), (3, full64)] then Svc.fail s vRANGE
  else if Config.ptmOn port s.cyc then Svc.ok s [(2, s.cyc), (3, Config.ptmTime port s.cyc)]
  else Svc.fail s vSTATE

end Sys2Proof.Machine
end

