-- ==== Sys2Proof/Machine/Boot.lean ====
section
/-!
DEFINITION. Module reset, the boot pair and its stages (R23 to R31), the module control page (R21, R22,
R30, R32), and the calls of the Attestation and keys group (R40).
-/
namespace Sys2Proof.Machine

/-! ### Module reset (R24) -/

/-- A MODULE RESET (R24): every partition, key and instance is lost, and boot restarts from stage 0. What
stays is the boot flash, the bytes that other modules and the hosts hold, and the numbering of free values,
operations and random draws (DEDUCED, log entry 30). MISM reads 0 again (R5, R30), and MODNUM reads 0 until
boot has read the settings block (DESIGN CHOICE, log entry 30); `mism` is the number of lock-step mismatches of
this power-on so far. -/
def moduleReset (s : State) (mism : Nat) : State :=
  { sched := s.sched
    boot := { flash := s.boot.flash, mismAll := mism }
    mem := s.mem.filter fun c => decide (gaKind c.1 = 4) || decide (gaModule c.1 ≠ s.boot.modnum)
    bad := s.bad.filter fun a => decide (gaKind a = 4) || decide (gaModule a ≠ s.boot.modnum)
    drbg := s.drbg }

/-- POWER_ON (R24). -/
def execPowerOn (s : State) : Out := .next (moduleReset s 0)
/-- WATCHDOG_EXPIRY (R24). -/
def execWatchdogExpiry (s : State) : Out := .next (moduleReset s s.boot.mismAll)
/-- RECOVERY_DOORBELL (R24, R39): any other value, any other port, and a port without IDE are ignored. -/
def execRecoveryDoorbell (port value : Nat) (s : State) : Out :=
  .next (if port = 0 ∧ value = 0x5A5A ∧ s.ideUp 0 = true then moduleReset s s.boot.mismAll else s)
/-- REGISTER_WRITE (R22): host stores to the module control page are ignored. -/
def execRegisterWrite (_offset _value : Nat) (s : State) : Out := .next s

/-! ### Measurement (R26, R31, R40) -/

/-- The most entries of the measurement log (R40). -/
def logMax : Nat := 4096
/-- A log entry (R40). -/
def logEntry (reg stage vf cfg d : Nat) : List Byte :=
  toBytes 1 reg ++ toBytes 1 stage ++ toBytes 1 vf ++ [0] ++ toBytes 4 cfg ++ toBytes 48 d ++ toBytes 8 0
/-- Extends a measurement register and appends the entry; a full log only remembers that it was. -/
def Boot.extend (b : Boot) (reg stage vf cfg d : Nat) : Boot :=
  let b := { b with mr := b.mr.set reg (extendMr (b.mr.getD reg 0) d) }
  if logMax ≤ b.log.length then { b with logOvf := true } else { b with log := b.log ++ [logEntry reg stage vf cfg d] }

/-! ### The boot pair (R23 to R29) -/

/-- The running stage (R30). -/
abbrev stageRun : Nat := 0xF
/-- The recovery stage (R30). -/
abbrev stageRec : Nat := 0xE
/-- The firmware slot that boot is trying. -/
def Boot.fw (b : Boot) : FwSlot := if b.slotB then b.flash.slotB else b.flash.slotA
/-- Why an image does not verify: 1 ECDSA, 2 LMS (R25, R27). -/
def imageCause (i : BootImage) : Option Nat := if !i.ecdsaOk then some 1 else if !i.lmsOk then some 2 else none
/-- Why stage k of the boot cannot hand over to the next: its image's signatures, and at stage 0 the
manifest's version (R27). -/
def Boot.fails (b : Boot) : Option Nat :=
  match b.fw.images[b.stage]? with
  | none => some 1
  | some i => match imageCause i with
    | some c => some c
    | none => if b.stage = 0 ∧ b.fw.svn < b.flash.msvn then some 3 else none
/-- A slot fails (R24, R27): slot B is tried, or after it the module enters recovery. -/
def Boot.failSlot (b : Boot) (c : Nat) : Boot :=
  if b.slotB then { b with sbc := c, failc := 4, stage := stageRec }
  else { b with sac := c, failc := c, slotB := true, stage := 0, svn := 0 }
/-- Firmware stages 0 to 3 measure the next image and hand over to it. -/
def Boot.handOver (b : Boot) : Boot :=
  match b.fails with
  | some c => b.failSlot c
  | none =>
    let d := match b.fw.images[b.stage]? with | some i => i.digest | none => 0
    let b : Boot := { (b.extend b.stage (b.stage + 1) 0 0 d) with stage := b.stage + 1 }
    if b.stage = 1 then { b with svn := b.fw.svn } else b
/-- Whether the settings block verifies: both of its signatures do, under the owner keys that the running
slot's manifest names (R29). -/
def Boot.settingsOk (b : Boot) : Bool := (imageCause b.flash.settings.image).isNone && decide (b.flash.settings.signer = b.fw.owner)
/-- Stage 4 reads the settings block (R29). -/
def Boot.settings (b : Boot) : Boot :=
  let x := b.flash.settings
  if !b.settingsOk then { b with failc := 6, capw := 3000, modnum := 0, pod := [], accepted := [], owners := [], stage := 5 }
  else { (b.extend 4 5 0 0 x.image.digest) with
      capw := x.capw % 2 ^ 16, modnum := x.modnum % 32, pod := x.pod, accepted := x.accepted, owners := x.owners, stage := 5 }
/-- The module runs; MSVN is raised if the manifest says so (R28). -/
def Boot.run (b : Boot) : Boot :=
  { b with stage := stageRun
           flash := { b.flash with msvn := if b.fw.commit then max b.flash.msvn b.svn else b.flash.msvn } }
/-- BOOT_STAGE (R26): the stage in progress finishes. -/
def execBootStage (s : State) : Out :=
  .next { s with boot :=
    if s.boot.stage < 4 then s.boot.handOver else if s.boot.stage = 4 then s.boot.settings
    else if s.boot.stage = 5 then s.boot.run else s.boot }

/-- LOCKSTEP_MISMATCH (R23): while the pair runs. MISM shows the mismatches of this power-on, 3 at most. The
third clears the measurement registers, as every mismatch does, and then enters recovery, and so does every
mismatch after it (DESIGN CHOICE, log entry 30). In recovery the measurements stay, and nothing restarts (R24,
R33). What boot had read from the settings block, and the SPDM sessions and IDE streams of the ports, stay while
boot restarts (DESIGN CHOICE, log entry 30). -/
def execLockstepMismatch (s : State) : Out :=
  let b := s.boot
  let m := min 3 (b.mismAll + 1)
  .next (if b.stage = stageRun then s
  else if b.stage = stageRec then { s with boot := { b with mism := m, mismAll := m, failc := if m = 3 then 5 else b.failc } }
  else
    let b := { b with mism := m, mismAll := m, mr := List.replicate 8 0, slotB := false, svn := 0 }
    { s with boot := if m = 3 then { b with stage := stageRec, failc := 5 } else { b with stage := 0 } })

/-! ### Power (R21) -/

/-- The cap that the power unit applies (R22). -/
def Boot.cap (b : Boot) : Nat := max 3000 (min 6000 b.capw)
/-- POWER_WINDOW_END (R21): a window ends every 1,000,000 cycles. -/
def execPowerWindowEnd (watts : Nat) (s : State) : Out :=
  let b := s.boot
  .next (if s.cyc < 1000000 * (b.window + 1) then s
  else { s with boot := { b with
    window := b.window + 1
    measw := watts % 2 ^ 16
    thr := if b.cap < watts then min 15 (b.thr + 1) else if watts * 100 ≤ b.cap * 95 then b.thr - 1 else b.thr } })

/-! ### The module control page (R22, R30, R32) -/

/-- MID (R22). -/
def State.mid (s : State) : Nat := 0x0640 * 2 ^ 48 + Config.stepping % 256 * 2 ^ 40 + s.boot.modnum % 64
/-- MPWR (R22). -/
def State.mpwr (s : State) : Nat := s.boot.measw % 2 ^ 16 * 2 ^ 32 + s.boot.thr % 16 * 2 ^ 16 + s.boot.capw % 2 ^ 16
/-- BSTS (R30). -/
def Boot.bsts (b : Boot) : Nat :=
  b.failc % 256 * 2 ^ 40 + b.svn % 256 * 2 ^ 32 + b.flash.msvn % 256 * 2 ^ 24 + b.sac % 4 * 2 ^ 22 + b.sbc % 4 * 2 ^ 20 +
    b.mism % 4 * 2 ^ 16 + b2n b.slotB * 2 ^ 8 + b.stage % 16
/-- The 8-byte word that a load of the module control page returns (R22, R30, R32). -/
def State.controlWord (s : State) (off : Nat) : Nat :=
  if off = 0 then s.mid
  else if off = 8 then s.mpwr
  else if off = 0x10 then s.boot.bsts
  else if 0x100 ≤ off ∧ off < 0x300 ∧ off % 64 < 48 then
    s.boot.mr.getD ((off - 0x100) / 64) 0 / 2 ^ (8 * (off % 64)) % 2 ^ 64
  else 0

/-- The alias key of this boot (R34). -/
def Boot.alias (b : Boot) : Nat := Config.aliasKey (b.mr.take 5)

/-! ### Attestation and key calls (R40) -/

/-- MRECORD (R31, R40). -/
def execMrecord (s : State) : Out := call s 0x29 .any fun v s =>
  let n := v.word 1
  if !v.only [(1, full64), (2, full64), (3, 2 ^ 32 - 1)] || decide (n < 5) || decide (7 < n) || decide (63 < v.word 2) then Svc.fail s vRANGE
  else v.ownVf s (v.word 2) fun x =>
    match getT x.table (v.word 3) with
    | none => Svc.fail s vSTATE
    | some b => Svc.ok { s with boot := s.boot.extend n 0xFF (v.word 2) (v.word 3) b.img.digest }
/-- MLOG (R40). -/
def execMlog (s : State) : Out := call s 0x2A .any fun v s =>
  let len := v.word 2
  if !v.only [(1, full64), (2, full64), (3, full64), (4, full64), (5, full64)] || decide (len % 64 ≠ 0) || decide (len < 64) || decide (65536 < len) then
    Svc.fail s vRANGE
  else if (v.pieces s (v.word 1) len false true).isNone then Svc.fail s vARG
  else
    let l := (s.boot.log.drop (v.word 3)).take (len / 64)
    match v.write s (v.word 1) l.flatten with
    | none => Svc.fail s vARG
    | some s => Svc.ok s [(4, l.length), (5, s.boot.log.length + b2n s.boot.logOvf * 2 ^ 63)]

/-- The part of a QUOTE report that is signed (R40). -/
def quoteBody (b : Boot) (nonce : List Byte) (p : Nat) : List Byte :=
  b.mr.flatMap (toBytes 48) ++ toBytes 8 b.bsts ++ nonce ++ toBytes 1 p ++ List.replicate 55 0
/-- QUOTE (R34, R40). -/
def execQuote (s : State) : Out := call s 0x2B .any fun v s =>
  if !v.only [(1, full64), (2, full64), (3, full64)] then Svc.fail s vRANGE
  else match v.read s (v.word 1) 32 with
  | none => Svc.fail s vARG
  | some (s1, nonce) =>
    let body := quoteBody s.boot nonce v.c.part
    let sig := Config.ecdsaSign s.boot.alias body
    match v.write s1 (v.word 2) (body ++ (sig ++ List.replicate 96 0).take 96) with
    | none => Svc.fail s vARG
    | some s => Svc.ok s [(3, 576)]

/-- The wrapping key of a partition (R37, R40); the info string of its HKDF is the model's own (DESIGN CHOICE, log
entry 42). -/
def Part.wrapKey (x : Part) : Nat := Config.hkdf (x.podKey.getD x.key) [0x4B, 0x57, 0x52, 0x41, 0x50]
/-- A KWRAP call, by its direction. -/
def kwrap (s : State) (un : Bool) (f : Svc → State → Part → SvcOut) : Out :=
  service s (fun c => decide (c.num = 0x2C) && bit (c.words.getD 1 0).toNat 0 == un) .any fun v s =>
    if !v.only [(1, 1), (2, full64), (3, full64), (4, full64), (5, full64)] then Svc.fail s vRANGE
    else v.withPart s fun x => if x.podKey.isNone then Svc.fail s vSTATE else f v s x
/-- KWRAP_WRAP (R40). The partition number is one byte of associated data (DESIGN CHOICE, log entry 42). -/
def execKwrapWrap (s : State) : Out := kwrap s false fun v s x =>
  let n := v.word 3
  if n < 1 ∨ 65536 < n then Svc.fail s vRANGE
  else match v.read s (v.word 2) n with
  | none => Svc.fail s vARG
  | some (s1, bs) =>
    let iv := Config.drbg s.drbg % 2 ^ 96
    let sealed_ := gcmSeal x.wrapKey iv (toBytes 1 v.c.part) bs
    match v.write { s1 with drbg := s.drbg + 1 } (v.word 4) (toBytes 12 iv ++ sealed_) with
    | none => Svc.fail s vARG
    | some s => Svc.ok s [(5, n + 28)]
/-- KWRAP_UNWRAP (R40). -/
def execKwrapUnwrap (s : State) : Out := kwrap s true fun v s x =>
  let n := v.word 3
  if n < 29 ∨ 65564 < n then Svc.fail s vRANGE
  else match v.read s (v.word 2) n, v.pieces s (v.word 4) (n - 28) false true with
  | some (s1, bs), some _ =>
    (match gcmOpen x.wrapKey (ofBytes (bs.take 12)) (toBytes 1 v.c.part) (bs.drop 12) with
     | none => Svc.fail s vSTATE
     | some m => match v.write s1 (v.word 4) m with
       | none => Svc.fail s vARG
       | some s => Svc.ok s [(5, n - 28)])
  | _, _ => Svc.fail s vARG

end Sys2Proof.Machine
end

