-- ==== Sys2Proof/Machine/Control.lean ====
section
/-!
DEFINITION. Branches, jumps and calls (R186, R187) with the range rule of R101.
-/
namespace Sys2Proof.Machine

/-- The target of a displacement: the next index plus the signed word count (R95). -/
def dispTarget (r : Run) (n : Nat) (disp : BitVec n) : Int := (r.pc : Int) + 1 + disp.toInt

/-- A conditional branch (R186). -/
def branch (s : State) (a b : Reg) (disp : BitVec 16) (c : Word → Word → Bool) : Out :=
  onRun s fun n r =>
    if c (r.get a) (r.get b) then .next (goto s n r r (dispTarget r 16 disp)) else .next (retire s n r)

/-- BEQ (R186). -/
def execBeq (a b : Reg) (disp : BitVec 16) (s : State) : Out := branch s a b disp fun x y => decide (x = y)
/-- BNE (R186). -/
def execBne (a b : Reg) (disp : BitVec 16) (s : State) : Out := branch s a b disp fun x y => decide (x ≠ y)
/-- BLT (R186). -/
def execBlt (a b : Reg) (disp : BitVec 16) (s : State) : Out := branch s a b disp ltS
/-- BGE (R186). -/
def execBge (a b : Reg) (disp : BitVec 16) (s : State) : Out := branch s a b disp fun x y => !ltS x y
/-- BLTU (R186). -/
def execBltu (a b : Reg) (disp : BitVec 16) (s : State) : Out := branch s a b disp ltU
/-- BGEU (R186). -/
def execBgeu (a b : Reg) (disp : BitVec 16) (s : State) : Out := branch s a b disp fun x y => !ltU x y
/-- JMP (R187). -/
def execJmp (disp : BitVec 26) (s : State) : Out :=
  onRun s fun n r => .next (goto s n r r (dispTarget r 26 disp))
/-- CALL writes the next index to g30 only when its target is in range (R101, R187). -/
def execCall (disp : BitVec 26) (s : State) : Out :=
  onRun s fun n r => .next (goto s n r (r.set 30 (BitVec.ofNat 64 (r.pc + 1))) (dispTarget r 26 disp))
/-- JR (R187). -/
def execJr (a : Reg) (s : State) : Out :=
  onRun s fun n r => .next (goto s n r r ((r.get a).toNat : Int))

end Sys2Proof.Machine
end

