-- ==== Sys2Proof/Machine/Trust.lean ====
section
/-!
DEFINITION. The SPDM responder of the host ports and the IDE keys that it programs (R33, R34, R39). The
spec names DMTF SPDM 1.2 and PCI-SIG IDE_KM: the codes of their messages come from those standards, and a
response is held as its four header bytes, a payload and the alias key's signature (PRESUMED, log entry 31).
-/
namespace Sys2Proof.Machine

/-- Whether SPDM is served (R33). -/
def State.spdmUp (s : State) : Bool := decide (3 ≤ s.boot.stage)
/-- Sends a response to a request through a port, signed by the alias key (R34). -/
def say (s : State) (port code p1 p2 : Nat) (payload req : List Byte) : State :=
  let h := s.hport port
  let m := [0x12, BitVec.ofNat 8 code, BitVec.ofNat 8 p1, BitVec.ofNat 8 p2] ++ payload
  s.setHport port { h with out := h.out ++ [m ++ Config.ecdsaSign s.boot.alias (req ++ m)] }
/-- ERROR. -/
def spdmError (s : State) (port code : Nat) : State := say s port 0x7F code 0 [] []
/-- Answers a request where SPDM is served. -/
def spdm (s : State) (f : State) : Out := .next (if s.spdmUp then f else s)

/-- GET_VERSION (R33): version 1.2. -/
def execGetVersion (port : Nat) (s : State) : Out := spdm s (say s port 0x04 0 0 [0, 1, 0, 0x12] [])
/-- GET_CAPABILITIES (R33). -/
def execGetCapabilities (port : Nat) (s : State) : Out := spdm s (say s port 0x61 0 0 (toBytes 4 0 ++ toBytes 4 0x2D6) [])
/-- NEGOTIATE_ALGORITHMS (R33): ECDSA P-384 and SHA-384. -/
def execNegotiateAlgorithms (port : Nat) (s : State) : Out := spdm s (say s port 0x63 0 0 (toBytes 4 0x80 ++ toBytes 4 2) [])
/-- The certificate chain of slot 0 (R34). -/
def State.chain (s : State) : List Byte := Config.certChain (s.boot.mr.take 5)
/-- GET_DIGESTS (R33): slot 0 alone. -/
def execGetDigests (port : Nat) (s : State) : Out := spdm s (say s port 0x01 0 1 (sha384 s.chain) [])
/-- GET_CERTIFICATE (R33). -/
def execGetCertificate (port : Nat) (s : State) : Out := spdm s (say s port 0x02 0 0 s.chain [])
/-- CHALLENGE (R33, R34). -/
def execChallenge (port : Nat) (nonce : List Byte) (s : State) : Out :=
  spdm s (say s port 0x03 0 1 (sha384 s.chain ++ nonce) nonce)
/-- The measurement of an index (R33): MR0 to MR7 at 1 to 8, and BSTS at 9. -/
def State.measurement (s : State) (i : Nat) : List Byte :=
  if i = 9 then toBytes 8 s.boot.bsts else toBytes 48 (s.boot.mr.getD (i - 1) 0)
/-- GET_MEASUREMENTS (R33): index 0 asks for their number, and 0xFF for all of them. -/
def execGetMeasurements (port : Nat) (index : Nat) (nonce : List Byte) (s : State) : Out :=
  let block (i : Nat) : List Byte := toBytes 1 i ++ s.measurement i
  spdm s (
    if index = 0 then say s port 0x60 9 0 [] nonce
    else if index ≤ 9 then say s port 0x60 0 0 (block index) nonce
    else if index = 0xFF then say s port 0x60 0 0 ((List.range 9).flatMap fun i => block (i + 1)) nonce
    else spdmError s port 0x01)
/-- KEY_EXCHANGE (R33). -/
def execKeyExchange (port : Nat) (share : List Byte) (s : State) : Out :=
  let h := s.hport port
  spdm s (say { s.setHport port { h with spdm := { secret := some (Config.ecdh s.drbg share), open_ := false } } with drbg := s.drbg + 1 }
    port 0x64 0 0 (Config.ecdhShare s.drbg) share)
/-- FINISH (R33): it opens the session if its value verifies. -/
def execFinish (port : Nat) (mac : List Byte) (s : State) : Out :=
  let h := s.hport port
  spdm s (match h.spdm.secret with
    | none => spdmError s port 0x04
    | some k =>
      if mac = Config.finishMac k then say (s.setHport port { h with spdm := { h.spdm with open_ := true } }) port 0x65 0 0 [] []
      else spdmError s port 0x06)
/-- END_SESSION (R33). -/
def execEndSession (port : Nat) (s : State) : Out :=
  let h := s.hport port
  spdm s (if h.spdm.open_ then say (s.setHport port { h with spdm := {} }) port 0x6C 0 0 [] [] else spdmError s port 0x04)
/-- UNSUPPORTED_REQUEST (R33). -/
def execUnsupportedRequest (port : Nat) (_code : Nat) (s : State) : Out := spdm s (spdmError s port 0x07)

/-! ### IDE_KM inside a session (R33, R39) -/

/-- An IDE_KM request: outside a session it is an unsupported request. Completion records that waited for a port to have IDE
are written. -/
def ideKm (s : State) (port : Nat) (answer : List Byte) (f : HPort → HPort) : Out :=
  spdm s (if (s.hport port).spdm.open_ then
      let s := s.setHport port (f (s.hport port))
      say (flushCompls s s.compls) port 0x7E 0 0 answer []
    else spdmError s port 0x07)
/-- An IDE stream of a port: its key, and whether its use has started. -/
def HPort.stream (h : HPort) (k : Nat) : List Byte × Bool := getTD h.ide k ([], false)
/-- IDE_KM_QUERY (R39). -/
def execIdeKmQuery (port : Nat) (s : State) : Out := ideKm s port [1, 0, BitVec.ofNat 8 port] id
/-- KEY_PROG (R39). -/
def execKeyProg (port : Nat) (stream : Nat) (key : List Byte) (s : State) : Out :=
  ideKm s port [3, 0, 0, BitVec.ofNat 8 stream] fun h => { h with ide := putT h.ide stream (key, (h.stream stream).2) }
/-- K_SET_GO (R39): use of a programmed key starts. -/
def execKSetGo (port : Nat) (stream : Nat) (s : State) : Out :=
  ideKm s port [6, 0, 0, BitVec.ofNat 8 stream] fun h =>
    match getT h.ide stream with
    | some k => { h with ide := putT h.ide stream (k.1, true) }
    | none => h
/-- K_SET_STOP (R39). -/
def execKSetStop (port : Nat) (stream : Nat) (s : State) : Out :=
  ideKm s port [6, 0, 0, BitVec.ofNat 8 stream] fun h =>
    match getT h.ide stream with
    | some k => { h with ide := putT h.ide stream (k.1, false) }
    | none => h

/-! ### What memory outside the device boundary holds (R36) -/

/-- The key under which a partition's memory is encrypted (R36, R37): oasis under the pod partition key, without which
nothing of it is reached; HBM under the key that the partition was created with, which never changes (R35; of a module
whose PDEF completed without the pod partition key its own, DESIGN CHOICE, log entry 56). -/
def Part.memKey (x : Part) (ga : Nat) : Nat := if gaKind ga = 1 then x.podKey.getD x.key else x.key
/-- The 64 bytes that HBM or an oasis stack holds for the data unit of an address of a partition: AES-256-XTS of the
plaintext, with the unit's global address as its tweak (R36). Encryption is at the A-tile memory port and the
switch-die bank, so that no access sees these bytes. -/
def State.ciphertext (s : State) (x : Part) (ga : Nat) : List Byte :=
  let u := ga / 64 * 64
  xtsSeal (x.memKey ga) (Config.xtsKey2 (x.memKey ga)) u (memGets s.mem u 64)

end Sys2Proof.Machine
end

