-- ==== Sys2Proof/Machine/Links.lean ====
section
/-!
DEFINITION. Llynren: links and their keys (R38), pacing (R11, R339, R340, R377), rim ports and peer tokens
(R149, R338), and arriving tokens (R335 to R337).
-/
namespace Sys2Proof.Machine

/-! ### Links (R38) -/

/-- The Llynren links of a module: link n stands at switch die n / 32. -/
def linkMax : Nat := 128
/-- LINK_START (R29, R30, R38): a running module accepts a link to another module of its pod whose share verifies
under its alias key, and answers with its own signed share; how the link number enters the key is the model's
own (DESIGN CHOICE, log entry 35). What has waited for a link leaves. Where argument 0 of the turn is odd the module at the
other end has been recovered (R24): its switch dies are lost no longer, and hold no mirror of this one (R344; DESIGN CHOICE,
log entry 1). -/
def execLinkStart (link peer : Nat) (share : List Byte) (s : State) : Out :=
  .next (if s.boot.stage ≠ stageRun ∨ linkMax ≤ link ∨ s.pod.contains peer = false ∨ peer = s.boot.modnum ∨ Config.shareSigned peer share = false then s
  else
    let l := getTD s.links link {}
    let mine := Config.ecdhShare s.drbg
    let back := decide (s.arg 0 % 2 = 1)
    { s with
      drbg := s.drbg + 1
      oasis := if back then { s.oasis with
          lost := s.oasis.lost.filter fun d => decide (d.1 ≠ peer)
          mirrors := s.oasis.mirrors.filter fun m => decide (gaModule m.ga ≠ peer) }
        else s.oasis
      links := putT s.links link { l with
        peer := some peer, key := some (Config.hkdf (Config.ecdh s.drbg share) (toBytes 1 link)), oldKey := none, count := 0, sent := 0
        out := [.share (mine ++ Config.ecdsaSign s.boot.alias (share ++ mine))] } }.sendWaiting)
/-- LINK_REKEY (R38): the old key stays until the peer acknowledges the change. The new key is derived from the old
one, with an info string of the model's own (DESIGN CHOICE, log entry 35). -/
def execLinkRekey (s : State) : Out :=
  .next (match getT s.links (s.arg 0) with
  | none => s
  | some l => match l.key with
    | none => s
    | some k => { s with links := putT s.links (s.arg 0) { l with
        key := some (Config.hkdf k [0x52, 0x4B]), oldKey := some k, count := 0, sent := 0 } }.sendWaiting)

/-! ### Receivers and their grants (R11, R102, R339, R340, R377) -/

/-- The receivers of a module: an oasis bank's switch die, a host port, an A-tile's memory port, or its rim
port, by side × 128 + module row. -/
inductive Recv where
  | oasis (die : Nat)
  | host (port : Nat)
  | edge (at_ : Nat)
  | rim (at_ : Nat)
  deriving DecidableEq, Repr
/-- The receiver of a number. -/
def recvOf (n : Nat) : Recv :=
  if n < 4 then .oasis n else if n < 6 then .host (n - 4) else if n < 6 + 256 then .edge (n - 6) else .rim (n - 262)
/-- The number of a receiver. -/
def Recv.num : Recv → Nat
  | .oasis d => d
  | .host p => 4 + p
  | .edge a => 6 + a
  | .rim a => 262 + a
/-- The HBM stack to which an A-tile connects (R11): of the two on its edge of die D, stack 2D where its row modulo
32 is below 16. -/
def stackOf (at_ : Nat) : Nat := 2 * edgeDie at_ + if at_ % 128 % 32 < 16 then 0 else 1
/-- The 16 A-tiles that a stack serves (R11). -/
def stackTiles (h : Nat) : List Nat := (List.range 256).filter fun a => decide (stackOf a = h)
/-- The A-tile whose memory port serves a line of HBM: the one that makes the access where it connects to the stack
(R11), else one of the stack's; which is open (DESIGN CHOICE, log entry 2). -/
def portOf (at_ : Option Nat) (ga : Nat) : Nat :=
  let h := fld ga 39 36
  match at_ with
  | some a => if stackOf a = h then a else (stackTiles h).getD (Config.stackPort (ga / 128) % 16) 0
  | none => (stackTiles h).getD (Config.stackPort (ga / 128) % 16) 0
/-- Whether a receiver serves an access to a global address, from an A-tile or from elsewhere. -/
def Recv.serves (r : Recv) (s : State) (at_ : Option Nat) (ga : Nat) : Bool :=
  match r with
  | .oasis d => decide (gaKind ga = 1) && decide (servedBy s ga = s.boot.modnum) && decide (fld ga 37 36 = d)
  | .host h => decide (gaKind ga = 4) && decide (gaModule ga = s.boot.modnum) && decide (fld ga 45 45 = h)
  | .edge a => decide (gaKind ga = 0) && decide (gaModule ga = s.boot.modnum) && decide (portOf at_ ga = a)
  | .rim _ => false
/-- The units of n bytes (R339). -/
def units (n : Nat) : Nat := max 1 ((n + 127) / 128)
/-- What a source asks of a receiver (R339): units of a pacing class for an access, named by its operation, a tag and its
global address. -/
structure Ask where
  cls   : Nat
  op    : Nat
  tag   : Nat
  ga    : Nat
  units : Nat
  deriving DecidableEq, Repr
/-- Ranges that follow one another are one. -/
def joinRanges (l : List (Nat × Nat)) : List (Nat × Nat) :=
  l.foldr (fun a l => match l with
    | b :: t => if a.1 + a.2 = b.1 then (a.1, a.2 + b.2) :: t else a :: b :: t
    | [] => [a]) []
/-- What an access to ranges of memory asks of a receiver. -/
def Recv.asked (r : Recv) (s : State) (at_ : Option Nat) (cls op tag : Nat) (l : List (Nat × Nat)) : List Ask :=
  ((joinRanges l).filter fun e => r.serves s at_ e.1).map fun e => ⟨cls, op, tag, e.1, units e.2⟩
/-- What a run's access asks of a receiver. -/
def Pend.asks (q : Pend) (s : State) (r : Recv) : List Ask :=
  if q.st = .issued ∧ (q.act.mem || q.act.waits) = true then r.asked s none 0 q.id 0 (q.phys s) else []
/-- How far a chunk has come: its index entry, its codes, its scale bytes, its writes. -/
def Chunk.phase (k : Chunk) : Nat := if !k.outs.isEmpty then 3 else if !k.scales.isEmpty then 2 else if !k.codes.isEmpty then 1 else 0
/-- What the accesses that a command makes next ask of a receiver. -/
def Cmd.asks (c : Cmd) (s : State) (r : Recv) : List Ask :=
  if !c.st.open_ then []
  else (c.chunk.toList ++ c.back).flatMap fun k => (c.next k).flatMap fun a =>
    r.asked s (some (s.edgeAt c.key c.pos)) c.cls c.id ((k.r * 2 ^ 48 + k.c) * 4 + k.phase) (physRanges s c.part a.1 a.2)
/-- What the accesses that a pattern has issued ask of a receiver: the next part of each that is not complete. -/
def Pat.asks (p : Pat) (store : Bool) (s : State) (r : Recv) (part at_ : Nat) : List Ask :=
  (p.accs.filter fun a => !a.complete store && !p.bad.contains a.op).flatMap fun a =>
    let k := if store then a.stage else a.got.length
    let e := if a.head then (a.blocks.getD k 0, 2) else if a.stage = 1 then (a.blocks.getD 0 0, 2) else (a.va, a.n)
    r.asked s (some at_) 0 a.op k (physRanges s part e.1 e.2)
/-- The A-tile of a partition's occupant at which a rim port stands. -/
def State.rimTile (s : State) (p at_ : Nat) : Option (Nat × Inst × Nat × Tile) :=
  match s.occupant p with
  | none => none
  | some (k, i) => (i.tiles.find? fun t => i.img.rim t.1 && decide (s.edgeAt k t.1 = at_)).map fun t => (k, i, t.1, t.2)
/-- Whether the peer token at the head of an A-tile's ni7 goes to the same place on this module. -/
def rimAsks (s : State) (t : Tile) : Bool :=
  match t.fifoOf 15 with
  | .narrow _ tag :: _ => decide (fld tag 11 7 = s.boot.modnum)
  | _ => false
/-- The operation under which the peer tokens of an A-tile are granted. -/
def rimOp (k tk : Nat) : Nat := 2 ^ 48 + k * 2 ^ 14 + tk
/-- The units that a receiver has granted to other modules' demand of a class, and what has arrived has not used. -/
def State.grantedTo (s : State) (recv p cls : Nat) : Nat :=
  match s.grants.find? fun g => decide (g.recv = recv) && decide (g.part = p) && decide (g.op = 0) && decide (g.tag = cls) with
  | some g => g.units
  | none => 0
/-- Whether a rim port may be granted a token: only against demand on no7 (R338). -/
def rimRoom (s : State) (r : Recv) (p : Nat) : Bool :=
  match r with
  | .rim a => (match s.rimTile p a with
    | some (_, _, _, t) =>
      decide (((s.grants.filter fun g => decide (g.recv = r.num) && decide (g.part = p)).foldl (fun n g => n + g.units) 0) < t.demandOf 23)
    | none => false)
  | _ => true
/-- The demand of a partition at a receiver (R339): an engine command's in its own class, every other access's and every
peer token's in class 0; and that of other modules, which bit 4p + c of argument 1 of the turn announces for partition p and
class c (operation 0; DESIGN CHOICE, log entry 1). -/
def asksAt (s : State) (r : Recv) (p : Nat) : List Ask :=
  (s.pends.filter fun q => decide (q.part = p)).flatMap (fun q => q.asks s r) ++
  (s.cmds.filter fun c => decide (c.part = p)).flatMap (fun c => c.asks s r) ++
  (match s.occupant p with
    | some (k, i) => i.tiles.flatMap fun t => t.2.pats.flatMap fun q => q.2.asks (patStore (i.img.pat t.1 q.1)) s r p (s.edgeAt k t.1)
    | none => []) ++
  (match r with
    | .rim a => (match s.rimTile p a with
      | some (k, _, tk, t) => if rimAsks s t then [⟨0, rimOp k tk, 0, 0, 1⟩] else []
      | none => [])
    | _ => []) ++
  ((List.range 4).filter fun c => bit (s.arg 1) (4 * p + c)).map fun c => ⟨c, 0, c, 0, s.grantedTo r.num p c + 1⟩
/-- Whether a grant is for what an ask names. -/
def Grant.names (g : Grant) (recv p : Nat) (a : Ask) : Bool :=
  decide (g.recv = recv) && decide (g.part = p) && decide (g.op = a.op) && decide (g.tag = a.tag) && decide (g.va = a.ga)
/-- What a partition has pending at a receiver: the asks that are not granted whole. -/
def pending (s : State) (r : Recv) (p : Nat) : List Ask :=
  (asksAt s r p).filter fun a => rimRoom s r p && match s.grants.find? fun g => g.names r.num p a with
    | some g => decide (g.units < a.units)
    | none => true
/-- Whether a partition has pending demand of a pacing class at a receiver. -/
def demands (s : State) (r : Recv) (p cls : Nat) : Bool := (pending s r p).any fun a => decide (a.cls = cls)
/-- Grants one unit to the first pending ask of a class (R340). -/
def grantUnit (s : State) (r : Recv) (p cls : Nat) : State :=
  match (pending s r p).find? fun a => decide (a.cls = cls) with
  | none => s
  | some a =>
    if s.grants.any fun g => g.names r.num p a then
      { s with grants := updFirst (fun g => g.names r.num p a) (fun g => { g with units := g.units + 1 }) s.grants }
    else { s with grants := s.grants ++ [{ recv := r.num, part := p, op := a.op, tag := a.tag, va := a.ga, units := 1 }] }
/-- What arrives has travelled on units granted to its class (R339). -/
def useGrant (s : State) (r : Recv) (p cls n : Nat) : State :=
  { s with grants := (s.grants.map fun g =>
      if g.recv = r.num ∧ g.part = p ∧ g.op = 0 ∧ g.tag = cls then { g with units := g.units - n } else g).filter fun g => decide (0 < g.units) }
/-- The grants of a receiver for what no source asks any more lapse: it has travelled. -/
def pruneGrants (s : State) (r : Recv) : State :=
  { s with grants := s.grants.filter fun g => decide (g.recv ≠ r.num) || decide (g.op = 0) || (asksAt s r g.part).any fun a => g.names r.num g.part a }
/-- The class schedule of a partition (R340): weight 0 acts as 1 (R102). -/
def classPlaces (spacw : Nat) : List Nat :=
  (List.range 4).flatMap fun c => List.replicate (max 1 (fld spacw (8 * c + 7) (8 * c))) c
/-- The place of a visit: the first, at or after a partition's pointer at a receiver, whose class has demand. -/
def visitPlace (x : Part) (n : Nat) (has : Nat → Bool) : Option Nat :=
  let l := classPlaces x.spacw
  let at_ := getTD x.classPtr n 0 % l.length
  ((List.range l.length).map fun j => (at_ + j) % l.length).find? fun j => has (l.getD j 0)
/-- The pointer moves past a place. -/
def movePtr (x : Part) (n j : Nat) : Part := { x with classPtr := putT x.classPtr n ((j + 1) % (classPlaces x.spacw).length) }
/-- One visit: the unit goes to the class of its place. -/
def visit (s : State) (n : Nat) (p : Nat) : State :=
  match s.part p with
  | none => s
  | some x => match visitPlace x n (demands s (recvOf n) p) with
    | some j => (grantUnit s (recvOf n) p ((classPlaces x.spacw).getD j 0)).modPart p fun x => movePtr x n j
    | none => s
/-- GRANT_ROUND (R340): argument 0 names the receiver; every partition with demand is visited once, beginning after the one
visited first in the previous round. -/
def execGrantRound (s : State) : Out :=
  let n := s.arg 0
  let s := pruneGrants s (recvOf n)
  let from_ := match getT s.rot n with | some p => p + 1 | none => 0
  let ps := ((List.range 12).map fun j => (from_ + j) % 12).filter fun p => (List.range 4).any fun c => demands s (recvOf n) p c
  .next (match ps with
  | [] => s
  | p :: _ => { (ps.foldl (fun s p => visit s n p) s) with rot := putT s.rot n p })

/-! ### Peer tokens (R149, R336, R338) -/

/-- A fault of an A-tile's rim port freezes its node (R338, R382); a masked code aborts the instance. -/
def freezeRim (s : State) (k tk : Nat) (i : Inst) : State :=
  let fr : FaultRec := { inst := i.num, frozen := true, code := cACCESS, y := i.y0 + tk / 128, x := tk % 128, cyc := s.cyc }
  match s.part (k / 8) with
  | none => s
  | some x =>
    if bit x.fmask cACCESS then abort s k cACCESS
    else post (s.modTile k tk fun t => { t with frozen := some fr }) (k / 8) { fr := fr }
/-- A peer token at the A-tile of a side and a relative row, of whatever occupant holds the rectangle. A rim stop
that carries another partition's tokens drops it and counts it (R149); an A-tile without a rim port, be it one that
the image leaves unused, faults; else the token is put on no7 against demand. None: it is not granted yet. -/
def peerPut (s : State) (p side row value tag : Nat) : Option State :=
  match s.occupant p with
  | none => none
  | some (k, i) =>
    let tk := tkey row (0x40 + side)
    if getT s.rim (side * 128 + i.y0 + row) ≠ some p then some (s.count p 4 1)
    else match getT i.tiles tk with
    | none => some (freezeRim s k tk i)
    | some t =>
      if t.acted || !t.woken || t.frozen.isSome then none
      else if i.img.rim tk = false ∨ 2 ≤ tag % 32 then some (freezeRim s k tk i)
      else if t.demandOf 23 = 0 then none
      else some (s.setInst k (i.put tk 23 (.narrow (BitVec.ofNat 64 value) 0)))
/-- The receiver of a peer token: the rim port of its A-tile. -/
def rimRecv (s : State) (p side row : Nat) : Option Recv :=
  (s.occupant p).map fun e => .rim (side * 128 + e.2.y0 + row)
/-- PEER_TOKEN_ARRIVAL (R338): in class 0, on a unit that the receiver has granted (R339, R377). -/
def execPeerTokenArrival (part side row value tag : Nat) (s : State) : Out :=
  .next (match peerPut s part side row value tag, rimRecv s part side row with
  | some t, some r => useGrant t r part 0 1
  | some t, none => t
  | none, _ => s)

/-- RIM_PORT_SEND (R335, R338): arguments name the instance and the tile; a token for this module's own
rim port needs that port's grant; argument 2 is odd where another module, as the destination, has granted the token (DESIGN
CHOICE, log entry 1). -/
def execRimPortSend (s : State) : Out :=
  let k := s.arg 0
  let tk := s.arg 1
  .next (match s.inst k, s.part (k / 8) with
  | some i, some x => (match getT i.tiles tk with
    | none => s
    | some t =>
      if !i.img.rim tk || !t.woken || t.acted || t.frozen.isSome || decide (x.cur ≠ k % 8) then s
      else match t.fifoOf 15 with
      | .narrow v tag :: _ =>
        let p := k / 8
        let row := tk / 128
        let side := tk % 128 - 0x40
        if tag % 32 ≠ 1 ∨ s.pod.contains (fld tag 11 7) = false then freezeRim s k tk i
        else
          let s1 := s.setInst k (i.take tk 15)
          if fld tag 11 7 = s.boot.modnum then
            if s.grants.any fun g => decide (g.op = rimOp k tk) then
              ((peerPut s1 p side row v.toNat tag).map fun t => { t with grants := t.grants.filter fun g => decide (g.op ≠ rimOp k tk) }).getD s
            else s
          else if s.arg 2 % 2 = 0 then s
          else (s1.sendToken (fld tag 11 7) (fld tag 6 5) p tag (.peer side row v.toNat)).getD s
      | _ => s)
  | _, _ => s)

/-! ### Arriving tokens (R37, R38, R299, R335 to R337, R373) -/

/-- The cache effects of an access of n bytes from another module at its home (R126, R271, R274, R278, R370). -/
def arriveTouch (s : State) (p ga n : Nat) (write rmw : Bool) : State := touchRange s p (2 ^ 64) ga n write rmw none
/-- Whether an address may be reached from another module here (R335): of this module's own HBM and oasis, or of a granule
whose mirror stands here (R343). -/
def arriveOk (s : State) (ga : Nat) : Bool :=
  decide (ga < 2 ^ 56) && decide (gaKind ga ≤ 1) && gaLegal ga &&
    (decide (gaModule ga = s.boot.modnum) || s.oasis.mirrors.any fun m => decide (m.ga = granuleOf ga))
/-- What becomes of a delivered token: it waits, or the state with the fault code and value that return, if
anything does. -/
abbrev LlRes := Option (State × Option (Nat × Nat))
/-- A token to n bytes from a global address of this module: refused, held while a page of theirs flips, or performed. -/
def llAt (s : State) (ga n : Nat) (ok : Bool) (f : State → LlRes) : LlRes :=
  if !arriveOk s ga || !ok then some (s, some (cACCESS, 0)) else if s.shut ga n then none else f s
/-- A token that writes bytes: what returns. -/
def llWrite (s : State) (p ga : Nat) (bs : List Byte) (rmw : Bool) (v : Nat) : LlRes :=
  match homeWrite s p ga bs with
  | .ok s => some (arriveTouch s p ga bs.length true rmw, some (0, v))
  | .error c => some (s, some (c, 0))
/-- A token that reads, modifies and writes n bytes: what it writes is a function of what it reads. -/
def llModify (s : State) (p ga n : Nat) (f : Nat → Option Nat) : LlRes :=
  match homeRead s p ga n with
  | .error c => some (s, some (c, 0))
  | .ok m => match f m with
    | none => some (arriveTouch s p ga n false true, some (0, m))
    | some v => llWrite s p ga (toBytes n v) true m
/-- The words of a bit map that a write makes full are filled, and serve what waits on them (R324, R365). -/
def llFill (s : State) (p ga n full : Nat) : State :=
  ((List.range ((ga % 8 + n + 7) / 8)).filter fun j => bit full j).foldl (fun s j => fill s p ((ga / 8 + j) * 8)) s
/-- A party of a stream on another module reaches its home here (R292, R299): it is answered, or enters the wait list and
is answered later over the link that brought it. -/
def llStream (s : State) (p link num occ off : Nat) (act : LlStream) : LlRes :=
  match s.stream p num with
  | none => some (s, some (cACCESS, 0))
  | some x =>
    if x.bk ≠ 2 ∨ s.remoteStream x = true then some (s, some (cACCESS, 0))
    else
      let f := s.fresh
      let w : StreamWait := { op := f.1, since := s.cyc, occ := occ, off := off, via := some (link, act) }
      match farServe f.2 p num w act with
      | some (t, c, v) => some (wakeStream t p num, some (c, v))
      | none => some (addWait f.2 p num w, none)
/-- A mirror of another module's granules takes them, zeroed, where the quota of their switch die holds them, or returns
them (R342, R343, R345, R346): 0, or 1 where it does not. -/
def llMirror (s : State) (p : Nat) (gas : List Nat) (take : Bool) : State × Nat :=
  let keep := s.oasis.mirrors.filter fun m => !gas.contains m.ga
  let die := fld (gas.headD 0) 37 36
  if !take then ({ s with oasis := { s.oasis with mirrors := keep } }, 0)
  else if s.oquota p die < s.oused p die + gas.length then (s, 1)
  else
    ({ s with
        mem := zeroGranules gas s.mem
        bad := s.bad.filter fun a => !gas.contains (granuleOf a)
        oasis := { s.oasis with mirrors := keep ++ gas.map fun g => { part := p, ga := g } } }, 0)
/-- A mirror applies what the primary has written (R343). -/
def llApply (s : State) (ga n data : Nat) : State :=
  { dropFabric s ga n with mem := memWrite s.mem ga n data, bad := mended s.bad ga n }
/-- The primary and the mirror of granules change places (R347). -/
def llSwap (s : State) (p : Nat) (gas : List Nat) : State :=
  let turn (m : OMirror) : OMirror := if m.part = p ∧ gas.contains m.ga = true then { m with primary := !m.primary } else m
  { s with oasis := { s.oasis with mirrors := s.oasis.mirrors.map turn } }
/-- Every mapping of a partition that meets a freed range goes, with its translations and its lines (R346). -/
def llUnmap (s : State) (p ga n : Nat) : State :=
  match s.part p with
  | none => s
  | some x =>
    let cut (q : Page) : Bool := decide (q.ga < ga + n) && decide (ga < q.ga + q.size)
    let s := (x.pages.filter cut).foldl (fun s q => tlbDrop s p q.va (q.va + q.size)) s
    dropFabric (s.setPart p { x with pages := x.pages.filter fun q => !cut q }) ga n
/-- What a memory token touches: its first byte and its length. -/
def reqRange : LlReq → Option (Nat × Nat)
  | .read ga n => some (ga, n)
  | .write ga n _ _ _ => some (ga, n)
  | .rmw _ ga _ _ => some (ga, 8)
  | .red _ ga n _ => some (ga, n)
  | .sync ga _ => some (ga, 8)
  | .waita ga _ => some (ga, 8)
  | .apply ga n _ => some (ga, n)
  | _ => none
/-- The receiver at which a token of a module's partition arrives, and its units (R339). -/
def llRecv (s : State) (p : Nat) (req : LlReq) : Option (Recv × Nat) :=
  let at_ (ga n : Nat) : Recv × Nat := (if gaKind ga = 1 then .oasis (fld ga 37 36) else .edge (portOf none ga), units n)
  let frame (num off n : Nat) : Option (Recv × Nat) := (s.stream p num).map fun x => at_ (x.addr off) n
  match req with
  | .peer side row _ => (rimRecv s p side row).map fun r => (r, 1)
  | .stream num _ off (.read n) => frame num off n
  | .stream num _ off (.store n _ _) => frame num off n
  | r => (reqRange r).map fun e => at_ e.1 e.2
/-- A delivered token's effect. A synchronising load waits until its word is full (R365), and a freed range until what has
been translated to it is performed (R331, R346); a WAITA leaves its word only shared in the caches (R373). -/
def llServe (s : State) (source p link tag : Nat) : LlReq → LlRes
  | .read ga n => llAt s ga n true fun s => match homeRead s p ga n with
      | .ok v => some (arriveTouch s p ga n false false, some (0, v))
      | .error c => some (s, some (c, 0))
  | .write ga n data mask full => llAt s ga n true fun s =>
      match (if mask = 2 ^ (8 * n) - 1 then .ok 0 else homeRead s p ga n) with
      | .error c => some (s, some (c, 0))
      | .ok old => (llWrite s p ga (toBytes n (merge mask data old)) false 0).map fun r => (llFill r.1 p ga n full, r.2)
  | .rmw op ga b d => llAt s ga 8 (decide (ga % 8 = 0)) fun s => llModify s p ga 8 fun m => (atomNew op (BitVec.ofNat 64 m) b d).map fun v => v.toNat
  | .red op ga n data => llAt s ga n (decide (n = redBits op / 8) && decide (ga % n = 0)) fun s => llModify s p ga n fun m => some (redOp2 op m data)
  | .sync ga keep => llAt s ga 8 (decide (ga % 8 = 0) && decide (gaKind ga = 0)) fun s => (farSyncAt s link p ga keep).map fun s => (s, none)
  | .waita ga e => llAt s ga 8 (decide (ga % 8 = 0)) fun s => match homeRead s p ga 8 with
      | .error c => some (s, some (c, 0))
      | .ok m =>
        let s := arriveTouch s p ga 8 false false
        if BitVec.ofNat 64 m ≠ e then some (s, some (0, 0))
        else some (armMonitor s (fwdGa s ga) (16 + source, fwdGa s ga, p), some (0, 1))
  | .stream num occ off act => llStream s p link num occ off act
  | .wake ga => some (wakeWord s ga, none)
  | .mirror gas take => let r := llMirror s p gas take; some (r.1, some (0, r.2))
  | .apply ga n data => llAt s ga n (decide (gaKind ga = 1)) fun s => some (llApply s ga n data, some (0, 0))
  | .swap gas => some (llSwap s p gas, some (0, 0))
  | .unmap ga n => if inFlightGa s ga n then none else some (llUnmap s p ga n, some (0, 0))
  | .peer side row value => (peerPut s p side row value tag).map fun s => (s, none)
/-- Whether a token's route tag names the kind of token it is (R336): 0 for every token but a peer token. -/
def destOk (tag : Nat) : LlReq → Bool
  | .peer .. => decide (tag % 32 ≠ 0)
  | _ => decide (tag % 32 = 0)
/-- Whether a notice returns for a token that is dropped: a load or a read-modify-write learns of it, a store does not (R337). -/
def dropNotice : LlReq → Bool
  | .read .. => true
  | .rmw .. => true
  | .red .. => true
  | .sync .. => true
  | .waita .. => true
  | .stream _ _ _ (.store ..) => false
  | .stream .. => true
  | _ => false
/-- LLYNREN_TOKEN_ARRIVAL (R336 to R338, R377): through a started link of the tag's plane, before its flits pass
2^32 under the key, or, for a flit that straddles a re-key, under the old key while the peer has not acknowledged
the change (R38). A flit whose tag fails is dropped and counted, and the link is retrained; a token for a
partition that does not hold its key, or whose DEST is not its kind's, is dropped and counted as event 4. -/
def execLlynrenTokenArrival (link : Nat) (tok : LlToken) (s : State) : Out :=
  let tag := tok.tag.toNat
  let here (l : LLink) : Bool := decide (l.peer = some tok.source) && decide (fld tag 11 7 = s.boot.modnum) && decide (fld tag 6 5 = link / 32)
  .next (flitIn s ⟨link, tok.tagOk, tok.old⟩ here fun l t =>
    let hold := match s.part tok.part with
      | some x => x.podKey.isSome && decide (x.podKey.map (fun k => trafficKey k link) = tok.key)
      | none => false
    if !hold || !destOk tag tok.req then
      let t := { t with links := putT t.links link { l with drops := l.drops + 1 } }
      let t := if dropNotice tok.req then t.tell (link, getTD t.links link {}) .dropped else t
      t.count tok.part 4 1
    else
      let t := match llRecv t tok.part tok.req with | some r => useGrant t r.1 tok.part tok.cls r.2 | none => t
      match llServe t tok.source tok.part link tag tok.req with
      | none => s
      | some (t, some a) => t.answerOn link tok.part a.1 a.2
      | some (t, none) => t)


end Sys2Proof.Machine
end

