-- ==== Sys2Proof/Machine/Scalar.lean ====
section
/-!
DEFINITION. The scalar slot of firing words (R218 to R225, R242): each operation as what its slot makes of the
tile, and as a word whose vector slot is VNOP.
-/
namespace Sys2Proof.Machine

/-- NOP of a slot (R218). -/
def slotSNop (_ : View) : SlotRes := .ok id none .next
/-- NOP (R218). -/
def execSNop (s : State) : Out := scalarWord slotSNop s
/-- ADD of a slot (R218). -/
def slotSAdd (d : SReg) (a : SReg) (b : SReg) (v : View) : SlotRes :=
  v.tile fun t => t.setS d (v.s a + v.s b)
/-- ADD (R218). -/
def execSAdd (d : SReg) (a : SReg) (b : SReg) (s : State) : Out := scalarWord (slotSAdd d a b) s
/-- SUB of a slot (R218). -/
def slotSSub (d : SReg) (a : SReg) (b : SReg) (v : View) : SlotRes :=
  v.tile fun t => t.setS d (v.s a - v.s b)
/-- SUB (R218). -/
def execSSub (d : SReg) (a : SReg) (b : SReg) (s : State) : Out := scalarWord (slotSSub d a b) s
/-- AND of a slot (R218). -/
def slotSAnd (d : SReg) (a : SReg) (b : SReg) (v : View) : SlotRes :=
  v.tile fun t => t.setS d (v.s a &&& v.s b)
/-- AND (R218). -/
def execSAnd (d : SReg) (a : SReg) (b : SReg) (s : State) : Out := scalarWord (slotSAnd d a b) s
/-- OR of a slot (R218). -/
def slotSOr (d : SReg) (a : SReg) (b : SReg) (v : View) : SlotRes :=
  v.tile fun t => t.setS d (v.s a ||| v.s b)
/-- OR (R218). -/
def execSOr (d : SReg) (a : SReg) (b : SReg) (s : State) : Out := scalarWord (slotSOr d a b) s
/-- XOR of a slot (R218). -/
def slotSXor (d : SReg) (a : SReg) (b : SReg) (v : View) : SlotRes :=
  v.tile fun t => t.setS d (v.s a ^^^ v.s b)
/-- XOR (R218). -/
def execSXor (d : SReg) (a : SReg) (b : SReg) (s : State) : Out := scalarWord (slotSXor d a b) s
/-- SHL of a slot (R218). -/
def slotSShl (d : SReg) (a : SReg) (b : SReg) (v : View) : SlotRes :=
  v.tile fun t => t.setS d (v.s a <<< ((v.s b).toNat % 64))
/-- SHL (R218). -/
def execSShl (d : SReg) (a : SReg) (b : SReg) (s : State) : Out := scalarWord (slotSShl d a b) s
/-- SHR of a slot (R218). -/
def slotSShr (d : SReg) (a : SReg) (b : SReg) (v : View) : SlotRes :=
  v.tile fun t => t.setS d (v.s a >>> ((v.s b).toNat % 64))
/-- SHR (R218). -/
def execSShr (d : SReg) (a : SReg) (b : SReg) (s : State) : Out := scalarWord (slotSShr d a b) s
/-- SAR of a slot (R218). -/
def slotSSar (d : SReg) (a : SReg) (b : SReg) (v : View) : SlotRes :=
  v.tile fun t => t.setS d ((v.s a).sshiftRight ((v.s b).toNat % 64))
/-- SAR (R218). -/
def execSSar (d : SReg) (a : SReg) (b : SReg) (s : State) : Out := scalarWord (slotSSar d a b) s
/-- MUL of a slot (R218). -/
def slotSMul (d : SReg) (a : SReg) (b : SReg) (v : View) : SlotRes :=
  v.tile fun t => t.setS d (v.s a * v.s b)
/-- MUL (R218). -/
def execSMul (d : SReg) (a : SReg) (b : SReg) (s : State) : Out := scalarWord (slotSMul d a b) s
/-- MIN of a slot (R218). -/
def slotSMin (d : SReg) (a : SReg) (b : SReg) (v : View) : SlotRes :=
  v.tile fun t => t.setS d (if ltS (v.s b) (v.s a) then v.s b else v.s a)
/-- MIN (R218). -/
def execSMin (d : SReg) (a : SReg) (b : SReg) (s : State) : Out := scalarWord (slotSMin d a b) s
/-- MAX of a slot (R218). -/
def slotSMax (d : SReg) (a : SReg) (b : SReg) (v : View) : SlotRes :=
  v.tile fun t => t.setS d (if ltS (v.s a) (v.s b) then v.s b else v.s a)
/-- MAX (R218). -/
def execSMax (d : SReg) (a : SReg) (b : SReg) (s : State) : Out := scalarWord (slotSMax d a b) s
/-- ADDI of a slot (R218). -/
def slotSAddi (d : SReg) (a : SReg) (imm : BitVec 10) (v : View) : SlotRes :=
  v.tile fun t => t.setS d (v.s a + imm.signExtend 64)
/-- ADDI (R218). -/
def execSAddi (d : SReg) (a : SReg) (imm : BitVec 10) (s : State) : Out := scalarWord (slotSAddi d a imm) s
/-- MOVI of a slot (R218). -/
def slotMovi (d : SReg) (imm : BitVec 10) (v : View) : SlotRes :=
  v.tile fun t => t.setS d (imm.signExtend 64)
/-- MOVI (R218). -/
def execMovi (d : SReg) (imm : BitVec 10) (s : State) : Out := scalarWord (slotMovi d imm) s
/-- MOV of a slot (R218). -/
def slotMov (d : SReg) (a : SReg) (v : View) : SlotRes :=
  v.tile fun t => t.setS d (v.s a)
/-- MOV (R218). -/
def execMov (d : SReg) (a : SReg) (s : State) : Out := scalarWord (slotMov d a) s
/-- CMPEQ of a slot (R219). -/
def slotCmpeq (d : QReg) (a : SReg) (b : SReg) (v : View) : SlotRes :=
  v.tile fun t => t.setQ d (decide (v.s a = v.s b))
/-- CMPEQ (R219). -/
def execCmpeq (d : QReg) (a : SReg) (b : SReg) (s : State) : Out := scalarWord (slotCmpeq d a b) s
/-- CMPLT of a slot (R219). -/
def slotCmplt (d : QReg) (a : SReg) (b : SReg) (v : View) : SlotRes :=
  v.tile fun t => t.setQ d (ltS (v.s a) (v.s b))
/-- CMPLT (R219). -/
def execCmplt (d : QReg) (a : SReg) (b : SReg) (s : State) : Out := scalarWord (slotCmplt d a b) s
/-- CMPLTU of a slot (R219). -/
def slotCmpltu (d : QReg) (a : SReg) (b : SReg) (v : View) : SlotRes :=
  v.tile fun t => t.setQ d (ltU (v.s a) (v.s b))
/-- CMPLTU (R219). -/
def execCmpltu (d : QReg) (a : SReg) (b : SReg) (s : State) : Out := scalarWord (slotCmpltu d a b) s
/-- QAND of a slot (R219). -/
def slotQand (d : QReg) (a : QReg) (b : QReg) (ca : Bool) (cb : Bool) (v : View) : SlotRes :=
  v.tile fun t => t.setQ d (qsrc (v.q a) ca && qsrc (v.q b) cb)
/-- QAND (R219). -/
def execQand (d : QReg) (a : QReg) (b : QReg) (ca : Bool) (cb : Bool) (s : State) : Out := scalarWord (slotQand d a b ca cb) s
/-- QOR of a slot (R219). -/
def slotQor (d : QReg) (a : QReg) (b : QReg) (ca : Bool) (cb : Bool) (v : View) : SlotRes :=
  v.tile fun t => t.setQ d (qsrc (v.q a) ca || qsrc (v.q b) cb)
/-- QOR (R219). -/
def execQor (d : QReg) (a : QReg) (b : QReg) (ca : Bool) (cb : Bool) (s : State) : Out := scalarWord (slotQor d a b ca cb) s
/-- TAKES of a slot (R220). -/
def slotTakes (d : SReg) (port : Fin 8) (v : View) : SlotRes :=
  match v.head (8 + port.val) false with
  | .error e => e
  | .ok x => v.eff fun s => v.taken (8 + port.val) (s.modTile v.key v.tk fun t => t.setS d x.word)
/-- TAKES (R220). -/
def execTakes (d : SReg) (port : Fin 8) (s : State) : Out := scalarWord (slotTakes d port) s
/-- PEEKS of a slot (R220). -/
def slotPeeks (d : SReg) (port : Fin 8) (v : View) : SlotRes :=
  match v.head (8 + port.val) false with
  | .error e => e
  | .ok x => v.tile fun t => t.setS d x.word
/-- PEEKS (R220). -/
def execPeeks (d : SReg) (port : Fin 8) (s : State) : Out := scalarWord (slotPeeks d port) s
/-- PUTS of a slot (R220). -/
def slotPuts (port : Fin 8) (a : SReg) (v : View) : SlotRes :=
  v.put (16 + port.val) (.narrow (v.s a) 0)
/-- PUTS (R220). -/
def execPuts (port : Fin 8) (a : SReg) (s : State) : Out := scalarWord (slotPuts port a) s
/-- PUTR of a slot (R220). -/
def slotPutr (port : Fin 8) (a : SReg) (b : SReg) (v : View) : SlotRes :=
  v.put (16 + port.val) (.narrow (v.s a) ((v.s b).toNat % 4096))
/-- PUTR (R220). -/
def execPutr (port : Fin 8) (a : SReg) (b : SReg) (s : State) : Out := scalarWord (slotPutr port a b) s
/-- CNTR of a slot (R221). -/
def slotCntr (d : SReg) (chain : Fin 4) (level : Fin 6) (v : View) : SlotRes :=
  let c := getTD v.t.chains chain.val {}
  v.tile fun t => t.setS d (BitVec.ofInt 64 ((c.idx.getD level.val 0 : Nat) * v.i.img.stride v.tk chain.val level.val))
/-- CNTR (R221). -/
def execCntr (d : SReg) (chain : Fin 4) (level : Fin 6) (s : State) : Out := scalarWord (slotCntr d chain level) s
/-- CADV of a slot (R221). -/
def slotCadv (chain : Fin 4) (level : Fin 6) (v : View) : SlotRes :=
  v.eff fun s => s.modInst v.key fun i => i.stepChain v.tk chain.val level.val
/-- CADV (R221). -/
def execCadv (chain : Fin 4) (level : Fin 6) (s : State) : Out := scalarWord (slotCadv chain level) s
/-- LOOP of a slot (R222). -/
def slotLoop (a : SReg) (imm : BitVec 10) (v : View) : SlotRes :=
  let x := v.s a - 1
  .ok (fun s => s.modTile v.key v.tk fun t => t.setS a x) none
    (if x = 0 then .next else .jump ((v.f.pc : Int) + 1 + imm.toInt))
/-- LOOP (R222). -/
def execLoop (a : SReg) (imm : BitVec 10) (s : State) : Out := scalarWord (slotLoop a imm) s
/-- BRF of a slot (R222). -/
def slotBrf (imm : BitVec 10) (v : View) : SlotRes :=
  .ok id none (.jump ((v.f.pc : Int) + 1 + imm.toInt))
/-- BRF (R222). -/
def execBrf (imm : BitVec 10) (s : State) : Out := scalarWord (slotBrf imm) s
/-- FIN of a slot (R222). -/
def slotFin (_ : View) : SlotRes := .ok id none .fin
/-- FIN (R222). -/
def execFin (s : State) : Out := scalarWord slotFin s
/-- LDL of a slot (R223). -/
def slotLdl (d : SReg) (a : SReg) (imm : BitVec 10) (v : View) : SlotRes :=
  let x := (v.s a + imm.signExtend 64 * 8).toNat
  match v.readBad x with
  | some e => .fault e 0
  | none => v.tile fun t => t.setS d (BitVec.ofNat 64 (memRead v.t.sram x 8))
/-- LDL (R223). -/
def execLdl (d : SReg) (a : SReg) (imm : BitVec 10) (s : State) : Out := scalarWord (slotLdl d a imm) s
/-- STL of a slot (R223). -/
def slotStl (a : SReg) (b : SReg) (imm : BitVec 10) (v : View) : SlotRes :=
  let x := (v.s a + imm.signExtend 64 * 8).toNat
  match v.sramBad x with
  | some e => .fault e 0
  | none => .ok (v.sramSet x (v.s b).toNat) (some (v.sramSet x (v.s b).toNat)) .next
/-- STL (R223). -/
def execStl (a : SReg) (b : SReg) (imm : BitVec 10) (s : State) : Out := scalarWord (slotStl a b imm) s
/-- ATOM of a slot (R224). -/
def slotSAtom (d : SReg) (a : SReg) (b : SReg) (op : AtomOp) (v : View) : SlotRes :=
  let x := (v.s a).toNat
  match v.readBad x with
  | some e => .fault e 0
  | none =>
    let m := BitVec.ofNat 64 (memRead v.t.sram x 8)
    let set : State → State := match atomNew op m (v.s b) (v.s d) with
      | some n => v.sramSet x n.toNat
      | none => id
    .ok (fun s => set (s.modTile v.key v.tk fun t => t.setS d m)) (some set) .next
/-- ATOM (R224). -/
def execSAtom (d : SReg) (a : SReg) (b : SReg) (op : AtomOp) (s : State) : Out := scalarWord (slotSAtom d a b op) s
/-- SETPREC of a slot (R242). -/
def slotSetprec (a : SReg) (v : View) : SlotRes :=
  if precLegal (v.s a).toNat then .mop (.setprec (v.s a)) id else .fault cPREC 0
/-- SETPREC (R242). -/
def execSetprec (a : SReg) (s : State) : Out := scalarWord (slotSetprec a) s
/-- GETPREC of a slot (R242). -/
def slotGetprec (d : SReg) (sel : Fin 3) (v : View) : SlotRes :=
  let x : Nat := v.f.seen.getD sel.val (match sel.val with
    | 0 => v.t.prec
    | 1 => v.t.cursor.word
    | _ => v.t.panelTable)
  v.tile fun t => t.setS d (BitVec.ofNat 64 x)
/-- GETPREC (R242). -/
def execGetprec (d : SReg) (sel : Fin 3) (s : State) : Out := scalarWord (slotGetprec d sel) s
/-- LIMW of a slot (R225). -/
def slotLimw (a : SReg) (v : View) : SlotRes :=
  v.tile fun t => { t with limit := (v.s a).toNat % 2 ^ 32 }
/-- LIMW (R225). -/
def execLimw (a : SReg) (s : State) : Out := scalarWord (slotLimw a) s
/-- LIMR of a slot (R225). -/
def slotLimr (d : SReg) (v : View) : SlotRes :=
  v.tile fun t => t.setS d (BitVec.ofNat 64 v.t.limit)
/-- LIMR (R225). -/
def execLimr (d : SReg) (s : State) : Out := scalarWord (slotLimr d) s

end Sys2Proof.Machine
end

