-- ==== Sys2Proof/Machine/Vector.lean ====
section
/-!
DEFINITION. The vector slot of firing words (R226 to R237): each operation as what its slot makes of the tile,
and as a word whose scalar slot is NOP.
-/
namespace Sys2Proof.Machine

/-- The check of every address that a governed lane would touch, in lane order (R237). -/
def View.lanesBad (v : View) (m : MReg) (x : Nat → Nat) : Option Nat :=
  ((List.range 64).filter (lane (v.m m))).findSome? fun i => v.sramBad (x i)

/-- The check of every address that a governed lane would read (R237, R269). -/
def View.lanesReadBad (v : View) (m : MReg) (x : Nat → Nat) : Option Nat :=
  ((List.range 64).filter (lane (v.m m))).findSome? fun i => v.readBad (x i)

/-- VNOP of a slot (R106). -/
def slotVnop (_ : View) : SlotRes := .ok id none .next
/-- VNOP (R106). -/
def execVnop (s : State) : Out := vectorWord slotVnop s
/-- TAKE of a slot (R227). -/
def slotTake (d : VReg) (port : Fin 4) (m : MReg) (v : View) : SlotRes :=
  match v.head port.val true with
  | .error e => e
  | .ok x => v.eff fun s => v.taken port.val (s.modTile v.key v.tk fun t => (t.setV d.val (blend (v.m m) x.lanes (t.vreg d.val))))
/-- TAKE (R227). -/
def execTake (d : VReg) (port : Fin 4) (m : MReg) (s : State) : Out := vectorWord (slotTake d port m) s
/-- TAKE_MARK of a slot (R227). -/
def slotTakeMark (d : VReg) (port : Fin 4) (k : SReg) (m : MReg) (v : View) : SlotRes :=
  match v.head port.val true with
  | .error e => e
  | .ok x => v.eff fun s => v.taken port.val (s.modTile v.key v.tk fun t => (t.setV d.val (blend (v.m m) x.lanes (t.vreg d.val))).setS k (BitVec.ofNat 64 x.mark))
/-- TAKE_MARK (R227). -/
def execTakeMark (d : VReg) (port : Fin 4) (k : SReg) (m : MReg) (s : State) : Out := vectorWord (slotTakeMark d port k m) s
/-- PEEK of a slot (R227). -/
def slotPeek (d : VReg) (port : Fin 4) (m : MReg) (v : View) : SlotRes :=
  match v.head port.val true with
  | .error e => e
  | .ok x => v.eff fun s => s.modTile v.key v.tk fun t => (t.setV d.val (blend (v.m m) x.lanes (t.vreg d.val)))
/-- PEEK (R227). -/
def execPeek (d : VReg) (port : Fin 4) (m : MReg) (s : State) : Out := vectorWord (slotPeek d port m) s
/-- PEEK_MARK of a slot (R227). -/
def slotPeekMark (d : VReg) (port : Fin 4) (k : SReg) (m : MReg) (v : View) : SlotRes :=
  match v.head port.val true with
  | .error e => e
  | .ok x => v.eff fun s => s.modTile v.key v.tk fun t => (t.setV d.val (blend (v.m m) x.lanes (t.vreg d.val))).setS k (BitVec.ofNat 64 x.mark)
/-- PEEK_MARK (R227). -/
def execPeekMark (d : VReg) (port : Fin 4) (k : SReg) (m : MReg) (s : State) : Out := vectorWord (slotPeekMark d port k m) s
/-- PUT of a slot (R227). -/
def slotPut (port : Fin 4) (a : VReg) (m : MReg) (v : View) : SlotRes :=
  v.put (4 + port.val) (.wide (blend (v.m m) (v.v a) zeroLanes) 0)
/-- PUT (R227). -/
def execPut (port : Fin 4) (a : VReg) (m : MReg) (s : State) : Out := vectorWord (slotPut port a m) s
/-- PUTH of a slot (R227). -/
def slotPuth (port : Fin 4) (a : VReg) (m : MReg) (empty : Bool) (v : View) : SlotRes :=
  v.put (4 + port.val) (.wide (blend (v.m m) (v.v a) zeroLanes) (if empty then 3 else 1))
/-- PUTH (R227). -/
def execPuth (port : Fin 4) (a : VReg) (m : MReg) (empty : Bool) (s : State) : Out := vectorWord (slotPuth port a m empty) s
/-- PUTE of a slot (R227). -/
def slotPute (port : Fin 4) (a : VReg) (m : MReg) (v : View) : SlotRes :=
  v.put (4 + port.val) (.wide (blend (v.m m) (v.v a) zeroLanes) 2)
/-- PUTE (R227). -/
def execPute (port : Fin 4) (a : VReg) (m : MReg) (s : State) : Out := vectorWord (slotPute port a m) s
/-- DROP of a slot (R227). -/
def slotDrop (port : Fin 4) (v : View) : SlotRes :=
  match v.head port.val true with
  | .error e => e
  | .ok _ => v.eff (v.taken port.val)
/-- DROP (R227). -/
def execDrop (port : Fin 4) (s : State) : Out := vectorWord (slotDrop port) s
/-- VMOV of a slot (R228). -/
def slotVmov (d : VReg) (a : VReg) (m : MReg) (v : View) : SlotRes :=
  v.setV d m (v.v a)
/-- VMOV (R228). -/
def execVmov (d : VReg) (a : VReg) (m : MReg) (s : State) : Out := vectorWord (slotVmov d a m) s
/-- VBC of a slot (R228). -/
def slotVbc (d : VReg) (k : SReg) (m : MReg) (v : View) : SlotRes :=
  v.setV d m (Vector.replicate 64 ((v.s k).setWidth 48))
/-- VBC (R228). -/
def execVbc (d : VReg) (k : SReg) (m : MReg) (s : State) : Out := vectorWord (slotVbc d k m) s
/-- VADD of a slot (R229). -/
def slotVadd (d : VReg) (a : VReg) (b : VReg) (m : MReg) (r : Rnd) (v : View) : SlotRes :=
  v.setV d m (Vector.ofFn fun i => fwAdd r (v.v a)[i] (v.v b)[i])
/-- VADD (R229). -/
def execVadd (d : VReg) (a : VReg) (b : VReg) (m : MReg) (r : Rnd) (s : State) : Out := vectorWord (slotVadd d a b m r) s
/-- VSUB of a slot (R229). -/
def slotVsub (d : VReg) (a : VReg) (b : VReg) (m : MReg) (r : Rnd) (v : View) : SlotRes :=
  v.setV d m (Vector.ofFn fun i => fwSub r (v.v a)[i] (v.v b)[i])
/-- VSUB (R229). -/
def execVsub (d : VReg) (a : VReg) (b : VReg) (m : MReg) (r : Rnd) (s : State) : Out := vectorWord (slotVsub d a b m r) s
/-- VMUL of a slot (R229). -/
def slotVmul (d : VReg) (a : VReg) (b : VReg) (m : MReg) (r : Rnd) (v : View) : SlotRes :=
  v.setV d m (Vector.ofFn fun i => fwMul r (v.v a)[i] (v.v b)[i])
/-- VMUL (R229). -/
def execVmul (d : VReg) (a : VReg) (b : VReg) (m : MReg) (r : Rnd) (s : State) : Out := vectorWord (slotVmul d a b m r) s
/-- VFMA of a slot (R229). -/
def slotVfma (d : VReg) (a : VReg) (b : VReg) (c : VReg) (m : MReg) (r : Rnd) (v : View) : SlotRes :=
  v.setV d m (Vector.ofFn fun i => fwFma r false (v.v a)[i] (v.v b)[i] (v.v c)[i])
/-- VFMA (R229). -/
def execVfma (d : VReg) (a : VReg) (b : VReg) (c : VReg) (m : MReg) (r : Rnd) (s : State) : Out := vectorWord (slotVfma d a b c m r) s
/-- VFMS of a slot (R229). -/
def slotVfms (d : VReg) (a : VReg) (b : VReg) (c : VReg) (m : MReg) (r : Rnd) (v : View) : SlotRes :=
  v.setV d m (Vector.ofFn fun i => fwFma r true (v.v a)[i] (v.v b)[i] (v.v c)[i])
/-- VFMS (R229). -/
def execVfms (d : VReg) (a : VReg) (b : VReg) (c : VReg) (m : MReg) (r : Rnd) (s : State) : Out := vectorWord (slotVfms d a b c m r) s
/-- VMAX of a slot (R229). -/
def slotVmax (d : VReg) (a : VReg) (b : VReg) (m : MReg) (_r : Rnd) (v : View) : SlotRes :=
  v.setV d m (Vector.ofFn fun i => fwMax (v.v a)[i] (v.v b)[i])
/-- VMAX (R229). -/
def execVmax (d : VReg) (a : VReg) (b : VReg) (m : MReg) (r : Rnd) (s : State) : Out := vectorWord (slotVmax d a b m r) s
/-- VMIN of a slot (R229). -/
def slotVmin (d : VReg) (a : VReg) (b : VReg) (m : MReg) (_r : Rnd) (v : View) : SlotRes :=
  v.setV d m (Vector.ofFn fun i => fwMin (v.v a)[i] (v.v b)[i])
/-- VMIN (R229). -/
def execVmin (d : VReg) (a : VReg) (b : VReg) (m : MReg) (r : Rnd) (s : State) : Out := vectorWord (slotVmin d a b m r) s
/-- VABS of a slot (R229). -/
def slotVabs (d : VReg) (a : VReg) (m : MReg) (_r : Rnd) (v : View) : SlotRes :=
  v.setV d m (Vector.ofFn fun i => fwAbs (v.v a)[i])
/-- VABS (R229). -/
def execVabs (d : VReg) (a : VReg) (m : MReg) (r : Rnd) (s : State) : Out := vectorWord (slotVabs d a m r) s
/-- VNEG of a slot (R229). -/
def slotVneg (d : VReg) (a : VReg) (m : MReg) (_r : Rnd) (v : View) : SlotRes :=
  v.setV d m (Vector.ofFn fun i => fwNeg (v.v a)[i])
/-- VNEG (R229). -/
def execVneg (d : VReg) (a : VReg) (m : MReg) (r : Rnd) (s : State) : Out := vectorWord (slotVneg d a m r) s
/-- VCPS of a slot (R229). -/
def slotVcps (d : VReg) (a : VReg) (b : VReg) (m : MReg) (_r : Rnd) (v : View) : SlotRes :=
  v.setV d m (Vector.ofFn fun i => fwCps (v.v a)[i] (v.v b)[i])
/-- VCPS (R229). -/
def execVcps (d : VReg) (a : VReg) (b : VReg) (m : MReg) (r : Rnd) (s : State) : Out := vectorWord (slotVcps d a b m r) s
/-- VEXP2 of a slot (R230). -/
def slotVexp2 (d : VReg) (a : VReg) (m : MReg) (r : Rnd) (v : View) : SlotRes :=
  v.setV d m (Vector.ofFn fun i => fwExp2 r (v.v a)[i])
/-- VEXP2 (R230). -/
def execVexp2 (d : VReg) (a : VReg) (m : MReg) (r : Rnd) (s : State) : Out := vectorWord (slotVexp2 d a m r) s
/-- VLOG2 of a slot (R231). -/
def slotVlog2 (d : VReg) (a : VReg) (m : MReg) (r : Rnd) (v : View) : SlotRes :=
  v.setV d m (Vector.ofFn fun i => fwLog2 r (v.v a)[i])
/-- VLOG2 (R231). -/
def execVlog2 (d : VReg) (a : VReg) (m : MReg) (r : Rnd) (s : State) : Out := vectorWord (slotVlog2 d a m r) s
/-- VRCP of a slot (R231). -/
def slotVrcp (d : VReg) (a : VReg) (m : MReg) (r : Rnd) (v : View) : SlotRes :=
  v.setV d m (Vector.ofFn fun i => fwRcp r (v.v a)[i])
/-- VRCP (R231). -/
def execVrcp (d : VReg) (a : VReg) (m : MReg) (r : Rnd) (s : State) : Out := vectorWord (slotVrcp d a m r) s
/-- VRSQ of a slot (R231). -/
def slotVrsq (d : VReg) (a : VReg) (m : MReg) (r : Rnd) (v : View) : SlotRes :=
  v.setV d m (Vector.ofFn fun i => fwRsq r (v.v a)[i])
/-- VRSQ (R231). -/
def execVrsq (d : VReg) (a : VReg) (m : MReg) (r : Rnd) (s : State) : Out := vectorWord (slotVrsq d a m r) s
/-- VCVT of a slot (R232). -/
def slotVcvt (d : VReg) (a : VReg) (f : Fin 32) (m : MReg) (r : Rnd) (v : View) : SlotRes :=
  v.setV d m (Vector.ofFn fun i => roundTrip f.val (.det r) (v.v a)[i])
/-- VCVT (R232). -/
def execVcvt (d : VReg) (a : VReg) (f : Fin 32) (m : MReg) (r : Rnd) (s : State) : Out := vectorWord (slotVcvt d a f m r) s
/-- VSRND of a slot (R232). -/
def slotVsrnd (d : VReg) (a : VReg) (b : VReg) (f : Fin 32) (m : MReg) (v : View) : SlotRes :=
  v.setV d m (Vector.ofFn fun i => roundTrip f.val (.sr ((v.v b)[i].toNat % 2 ^ 32)) (v.v a)[i])
/-- VSRND (R232). -/
def execVsrnd (d : VReg) (a : VReg) (b : VReg) (f : Fin 32) (m : MReg) (s : State) : Out := vectorWord (slotVsrnd d a b f m) s
/-- VFTOI of a slot (R232). -/
def slotVftoi (d : VReg) (a : VReg) (m : MReg) (r : Rnd) (v : View) : SlotRes :=
  v.setV d m (Vector.ofFn fun i => fwToInt r (v.v a)[i])
/-- VFTOI (R232). -/
def execVftoi (d : VReg) (a : VReg) (m : MReg) (r : Rnd) (s : State) : Out := vectorWord (slotVftoi d a m r) s
/-- VITOF of a slot (R232). -/
def slotVitof (d : VReg) (a : VReg) (m : MReg) (r : Rnd) (v : View) : SlotRes :=
  v.setV d m (Vector.ofFn fun i => intToFW r (v.v a)[i])
/-- VITOF (R232). -/
def execVitof (d : VReg) (a : VReg) (m : MReg) (r : Rnd) (s : State) : Out := vectorWord (slotVitof d a m r) s
/-- VIADD of a slot (R233). -/
def slotViadd (d : VReg) (a : VReg) (b : VReg) (m : MReg) (v : View) : SlotRes :=
  v.setV d m (Vector.ofFn fun i => (v.v a)[i] + (v.v b)[i])
/-- VIADD (R233). -/
def execViadd (d : VReg) (a : VReg) (b : VReg) (m : MReg) (s : State) : Out := vectorWord (slotViadd d a b m) s
/-- VIMUL of a slot (R233). -/
def slotVimul (d : VReg) (a : VReg) (b : VReg) (m : MReg) (v : View) : SlotRes :=
  v.setV d m (Vector.ofFn fun i => (v.v a)[i] * (v.v b)[i])
/-- VIMUL (R233). -/
def execVimul (d : VReg) (a : VReg) (b : VReg) (m : MReg) (s : State) : Out := vectorWord (slotVimul d a b m) s
/-- VAND of a slot (R233). -/
def slotVand (d : VReg) (a : VReg) (b : VReg) (m : MReg) (v : View) : SlotRes :=
  v.setV d m (Vector.ofFn fun i => (v.v a)[i] &&& (v.v b)[i])
/-- VAND (R233). -/
def execVand (d : VReg) (a : VReg) (b : VReg) (m : MReg) (s : State) : Out := vectorWord (slotVand d a b m) s
/-- VOR of a slot (R233). -/
def slotVor (d : VReg) (a : VReg) (b : VReg) (m : MReg) (v : View) : SlotRes :=
  v.setV d m (Vector.ofFn fun i => (v.v a)[i] ||| (v.v b)[i])
/-- VOR (R233). -/
def execVor (d : VReg) (a : VReg) (b : VReg) (m : MReg) (s : State) : Out := vectorWord (slotVor d a b m) s
/-- VXOR of a slot (R233). -/
def slotVxor (d : VReg) (a : VReg) (b : VReg) (m : MReg) (v : View) : SlotRes :=
  v.setV d m (Vector.ofFn fun i => (v.v a)[i] ^^^ (v.v b)[i])
/-- VXOR (R233). -/
def execVxor (d : VReg) (a : VReg) (b : VReg) (m : MReg) (s : State) : Out := vectorWord (slotVxor d a b m) s
/-- VCMP of a slot (R234). -/
def slotVcmp (d : MReg) (a : VReg) (b : VReg) (m : MReg) (c : Fin 7) (v : View) : SlotRes :=
  let bits := (List.range 64).foldl (fun n i => n + b2n (lane (v.m m) i && laneCond c.val ((v.v a).toList.getD i 0) ((v.v b).toList.getD i 0)) * 2 ^ i) 0
  v.tile fun t => t.setM d (BitVec.ofNat 64 bits)
/-- VCMP (R234). -/
def execVcmp (d : MReg) (a : VReg) (b : VReg) (m : MReg) (c : Fin 7) (s : State) : Out := vectorWord (slotVcmp d a b m c) s
/-- VSEL of a slot (R234). -/
def slotVsel (d : VReg) (a : VReg) (b : VReg) (m : MReg) (v : View) : SlotRes :=
  v.setVall d (blend (v.m m) (v.v a) (v.v b))
/-- VSEL (R234). -/
def execVsel (d : VReg) (a : VReg) (b : VReg) (m : MReg) (s : State) : Out := vectorWord (slotVsel d a b m) s
/-- VRED of a slot (R235). -/
def slotVred (d : VReg) (a : VReg) (m : MReg) (op : Fin 6) (v : View) : SlotRes :=
  let o := redOp op.val
  v.setVall d (Vector.replicate 64 (redTree o.1 (blend (v.m m) (v.v a) (Vector.replicate 64 o.2)).toList))
/-- VRED (R235). -/
def execVred (d : VReg) (a : VReg) (m : MReg) (op : Fin 6) (s : State) : Out := vectorWord (slotVred d a m op) s
/-- VPERM of a slot (R236). -/
def slotVperm (d : VReg) (a : VReg) (b : VReg) (m : MReg) (v : View) : SlotRes :=
  v.setV d m (Vector.ofFn fun i => (v.v a).toList.getD ((v.v b)[i].toNat % 64) 0)
/-- VPERM (R236). -/
def execVperm (d : VReg) (a : VReg) (b : VReg) (m : MReg) (s : State) : Out := vectorWord (slotVperm d a b m) s
/-- VROT of a slot (R236). -/
def slotVrot (d : VReg) (a : VReg) (k : SReg) (m : MReg) (v : View) : SlotRes :=
  v.setV d m (Vector.ofFn fun i => (v.v a).toList.getD ((i.val + (v.s k).toNat) % 64) 0)
/-- VROT (R236). -/
def execVrot (d : VReg) (a : VReg) (k : SReg) (m : MReg) (s : State) : Out := vectorWord (slotVrot d a k m) s
/-- VLD of a slot (R237). -/
def slotVld (d : VReg) (k : SReg) (m : MReg) (v : View) : SlotRes :=
  let x (i : Nat) : Nat := ((v.s k).toNat + 8 * i) % 2 ^ 64
  match v.lanesReadBad m x with
  | some e => .fault e 0
  | none => v.setV d m (Vector.ofFn fun i => BitVec.ofNat 48 (memRead v.t.sram (x i.val) 8))
/-- VLD (R237). -/
def execVld (d : VReg) (k : SReg) (m : MReg) (s : State) : Out := vectorWord (slotVld d k m) s
/-- VST of a slot (R237). -/
def slotVst (k : SReg) (b : VReg) (m : MReg) (v : View) : SlotRes :=
  let x (i : Nat) : Nat := ((v.s k).toNat + 8 * i) % 2 ^ 64
  match v.lanesBad m x with
  | some e => .fault e 0
  | none =>
    let set (s : State) : State := ((List.range 64).filter (lane (v.m m))).foldl (fun s i => v.sramSet (x i) ((v.v b).toList.getD i 0).toNat s) s
    .ok set (some set) .next
/-- VST (R237). -/
def execVst (k : SReg) (b : VReg) (m : MReg) (s : State) : Out := vectorWord (slotVst k b m) s
/-- VGATH of a slot (R237). -/
def slotVgath (d : VReg) (k : SReg) (b : VReg) (m : MReg) (v : View) : SlotRes :=
  let x (i : Nat) : Nat := ((v.s k).toNat + 8 * ((v.v b).toList.getD i 0).toNat) % 2 ^ 64
  match v.lanesReadBad m x with
  | some e => .fault e 0
  | none => v.setV d m (Vector.ofFn fun i => BitVec.ofNat 48 (memRead v.t.sram (x i.val) 8))
/-- VGATH (R237). -/
def execVgath (d : VReg) (k : SReg) (b : VReg) (m : MReg) (s : State) : Out := vectorWord (slotVgath d k b m) s

end Sys2Proof.Machine
end

