-- ==== Sys2Proof/Machine/Words.lean ====
section
/-!
DEFINITION. Firing words (R104, R109, R164): the guard, the two slots, and the word a tile executes next.
-/
namespace Sys2Proof.Machine

/-- What the scalar slot makes of a tile; none for an instruction of another kind. -/
def scalarSlot : Instr → Option (View → SlotRes)
  | .sNop => some slotSNop
  | .sAdd d a b => some (slotSAdd d a b)
  | .sSub d a b => some (slotSSub d a b)
  | .sAnd d a b => some (slotSAnd d a b)
  | .sOr d a b => some (slotSOr d a b)
  | .sXor d a b => some (slotSXor d a b)
  | .sShl d a b => some (slotSShl d a b)
  | .sShr d a b => some (slotSShr d a b)
  | .sSar d a b => some (slotSSar d a b)
  | .sMul d a b => some (slotSMul d a b)
  | .sMin d a b => some (slotSMin d a b)
  | .sMax d a b => some (slotSMax d a b)
  | .sAddi d a imm => some (slotSAddi d a imm)
  | .movi d imm => some (slotMovi d imm)
  | .mov d a => some (slotMov d a)
  | .cmpeq d a b => some (slotCmpeq d a b)
  | .cmplt d a b => some (slotCmplt d a b)
  | .cmpltu d a b => some (slotCmpltu d a b)
  | .qand d a b ca cb => some (slotQand d a b ca cb)
  | .qor d a b ca cb => some (slotQor d a b ca cb)
  | .takes d port => some (slotTakes d port)
  | .peeks d port => some (slotPeeks d port)
  | .puts port a => some (slotPuts port a)
  | .putr port a b => some (slotPutr port a b)
  | .cntr d chain level => some (slotCntr d chain level)
  | .cadv chain level => some (slotCadv chain level)
  | .loop a imm => some (slotLoop a imm)
  | .brf imm => some (slotBrf imm)
  | .fin => some slotFin
  | .ldl d a imm => some (slotLdl d a imm)
  | .stl a b imm => some (slotStl a b imm)
  | .sAtom d a b op => some (slotSAtom d a b op)
  | .setprec a => some (slotSetprec a)
  | .getprec d sel => some (slotGetprec d sel)
  | .limw a => some (slotLimw a)
  | .limr d => some (slotLimr d)
  | _ => none

/-- What the vector slot makes of a tile; none for an instruction of another kind. -/
def vectorSlot : Instr → Option (View → SlotRes)
  | .vnop => some slotVnop
  | .take d port m => some (slotTake d port m)
  | .takeMark d port k m => some (slotTakeMark d port k m)
  | .peek d port m => some (slotPeek d port m)
  | .peekMark d port k m => some (slotPeekMark d port k m)
  | .put port a m => some (slotPut port a m)
  | .puth port a m empty => some (slotPuth port a m empty)
  | .pute port a m => some (slotPute port a m)
  | .drop port => some (slotDrop port)
  | .vmov d a m => some (slotVmov d a m)
  | .vbc d k m => some (slotVbc d k m)
  | .vadd d a b m r => some (slotVadd d a b m r)
  | .vsub d a b m r => some (slotVsub d a b m r)
  | .vmul d a b m r => some (slotVmul d a b m r)
  | .vfma d a b c m r => some (slotVfma d a b c m r)
  | .vfms d a b c m r => some (slotVfms d a b c m r)
  | .vmax d a b m r => some (slotVmax d a b m r)
  | .vmin d a b m r => some (slotVmin d a b m r)
  | .vabs d a m r => some (slotVabs d a m r)
  | .vneg d a m r => some (slotVneg d a m r)
  | .vcps d a b m r => some (slotVcps d a b m r)
  | .vexp2 d a m r => some (slotVexp2 d a m r)
  | .vlog2 d a m r => some (slotVlog2 d a m r)
  | .vrcp d a m r => some (slotVrcp d a m r)
  | .vrsq d a m r => some (slotVrsq d a m r)
  | .vcvt d a f m r => some (slotVcvt d a f m r)
  | .vsrnd d a b f m => some (slotVsrnd d a b f m)
  | .vftoi d a m r => some (slotVftoi d a m r)
  | .vitof d a m r => some (slotVitof d a m r)
  | .viadd d a b m => some (slotViadd d a b m)
  | .vimul d a b m => some (slotVimul d a b m)
  | .vand d a b m => some (slotVand d a b m)
  | .vor d a b m => some (slotVor d a b m)
  | .vxor d a b m => some (slotVxor d a b m)
  | .vcmp d a b m c => some (slotVcmp d a b m c)
  | .vsel d a b m => some (slotVsel d a b m)
  | .vred d a m op => some (slotVred d a m op)
  | .vperm d a b m => some (slotVperm d a b m)
  | .vrot d a k m => some (slotVrot d a k m)
  | .vld d k m => some (slotVld d k m)
  | .vst k b m => some (slotVst k b m)
  | .vgath d k b m => some (slotVgath d k b m)
  | .mma z a b aScr bScr => some (slotMma z a b aScr bScr)
  | .mmas z a b port => some (slotMmas z a b port)
  | .mz z => some (slotMz z)
  | .mrd d z k m => some (slotMrd d z k m)
  | .mrdStatus d z k m => some (slotMrdStatus d z k m)
  | .manch z k => some (slotManch z k)
  | .manchPreset z k => some (slotManchPreset z k)
  | .pfill d a r m => some (slotPfill d a r m)
  | .pfillPort d port r m => some (slotPfillPort d port r m)
  | .pemit port p => some (slotPemit port p)
  | .prel p => some (slotPrel p)
  | .vmrg d a b => some (slotVmrg d a b)
  | _ => none

/-- Runs a firing word: the guard from the predicate as it stands before the word (R104), then both
slots. -/
def execWord (w : PWord) (s : State) : Out :=
  onFiring s fun v =>
    if v.q w.pred == w.neg then .next (v.done .next s)
    else match scalarSlot w.scalar, vectorSlot w.vector with
    | some a, some b => .next (runSlots s v (a v) (b v))
    | _, _ => .fault .nothingExecutes

/-- The tile's next firing word, or the end of a firing that has run 512 words or off its program
(R109, R164). A generator's firing has no words (R82). -/
def stepTile (s : State) : Out :=
  onFiring s fun v =>
    if v.i.img.isGen v.tk v.f.slot then .next s
    else if 512 ≤ v.f.words ∨ v.f.pc < v.i.img.slotEntry v.tk v.f.slot ∨
        v.i.img.slotEntry v.tk v.f.slot + v.i.img.slotLen v.tk v.f.slot ≤ v.f.pc then .next (v.freeze s cOVERRUN 0)
    else match decodeP (v.i.img.pword v.tk v.f.pc) with
    | .ok w => execWord w s
    | .error _ => .fault .nothingExecutes

end Sys2Proof.Machine
end

