-- ==== Sys2Proof/Machine/Dispatch.lean ====
section
/-!
DEFINITION. One arm for every instruction and event of the opcode table.
-/
namespace Sys2Proof.Machine

/-- The meaning of an instruction in a state. -/
def exec (i : Instr) (s : State) : Host.Outcome State Fault Refusal :=
  match i with
  | .powerOn => Sys2Proof.Machine.execPowerOn s
  | .watchdogExpiry => Sys2Proof.Machine.execWatchdogExpiry s
  | .recoveryDoorbell port value => Sys2Proof.Machine.execRecoveryDoorbell port value s
  | .registerWrite offset value => Sys2Proof.Machine.execRegisterWrite offset value s
  | .lockstepMismatch => Sys2Proof.Machine.execLockstepMismatch s
  | .bootStage => Sys2Proof.Machine.execBootStage s
  | .powerWindowEnd watts => Sys2Proof.Machine.execPowerWindowEnd watts s
  | .waveStep => Sys2Proof.Machine.execWaveStep s
  | .getVersion port => Sys2Proof.Machine.execGetVersion port s
  | .getCapabilities port => Sys2Proof.Machine.execGetCapabilities port s
  | .negotiateAlgorithms port => Sys2Proof.Machine.execNegotiateAlgorithms port s
  | .getDigests port => Sys2Proof.Machine.execGetDigests port s
  | .getCertificate port => Sys2Proof.Machine.execGetCertificate port s
  | .challenge port nonce => Sys2Proof.Machine.execChallenge port nonce s
  | .getMeasurements port index nonce => Sys2Proof.Machine.execGetMeasurements port index nonce s
  | .keyExchange port share => Sys2Proof.Machine.execKeyExchange port share s
  | .finish port mac => Sys2Proof.Machine.execFinish port mac s
  | .endSession port => Sys2Proof.Machine.execEndSession port s
  | .ideKmQuery port => Sys2Proof.Machine.execIdeKmQuery port s
  | .keyProg port stream key => Sys2Proof.Machine.execKeyProg port stream key s
  | .kSetGo port stream => Sys2Proof.Machine.execKSetGo port stream s
  | .kSetStop port stream => Sys2Proof.Machine.execKSetStop port stream s
  | .unsupportedRequest port code => Sys2Proof.Machine.execUnsupportedRequest port code s
  | .linkStart link peer share => Sys2Proof.Machine.execLinkStart link peer share s
  | .linkRekey => Sys2Proof.Machine.execLinkRekey s
  | .llynrenTokenArrival link tok => Sys2Proof.Machine.execLlynrenTokenArrival link tok s
  | .podKeyRequest flit ask mrs => Sys2Proof.Machine.execPodKeyRequest flit ask mrs s
  | .podKeyArrival flit ans => Sys2Proof.Machine.execPodKeyArrival flit ans s
  | .serviceDoorbell port vf addr => Sys2Proof.Machine.execServiceDoorbell port vf addr s
  | .map => Sys2Proof.Machine.execMap s
  | .unmap => Sys2Proof.Machine.execUnmap s
  | .prot => Sys2Proof.Machine.execProt s
  | .query => Sys2Proof.Machine.execQuery s
  | .inval => Sys2Proof.Machine.execInval s
  | .setroot => Sys2Proof.Machine.execSetroot s
  | .aliasWin => Sys2Proof.Machine.execAliasWin s
  | .sync => Sys2Proof.Machine.execSync s
  | .stable => Sys2Proof.Machine.execStable s
  | .sdef => Sys2Proof.Machine.execSdef s
  | .sundef => Sys2Proof.Machine.execSundef s
  | .sattach => Sys2Proof.Machine.execSattach s
  | .sdetach => Sys2Proof.Machine.execSdetach s
  | .sctlpg => Sys2Proof.Machine.execSctlpg s
  | .sstall => Sys2Proof.Machine.execSstall s
  | .sstat => Sys2Proof.Machine.execSstat s
  | .oquota => Sys2Proof.Machine.execOquota s
  | .oqstat => Sys2Proof.Machine.execOqstat s
  | .olost => Sys2Proof.Machine.execOlost s
  | .opromote => Sys2Proof.Machine.execOpromote s
  | .bind => Sys2Proof.Machine.execBind s
  | .unbind => Sys2Proof.Machine.execUnbind s
  | .bquery => Sys2Proof.Machine.execBquery s
  | .btimeo => Sys2Proof.Machine.execBtimeo s
  | .preload => Sys2Proof.Machine.execPreload s
  | .evict => Sys2Proof.Machine.execEvict s
  | .pdef => Sys2Proof.Machine.execPdef s
  | .ptear => Sys2Proof.Machine.execPtear s
  | .presize => Sys2Proof.Machine.execPresize s
  | .vfassign => Sys2Proof.Machine.execVfassign s
  | .vftear => Sys2Proof.Machine.execVftear s
  | .pslice => Sys2Proof.Machine.execPslice s
  | .fqset => Sys2Proof.Machine.execFqset s
  | .fresume => Sys2Proof.Machine.execFresume s
  | .fabort => Sys2Proof.Machine.execFabort s
  | .fquery => Sys2Proof.Machine.execFquery s
  | .fmask => Sys2Proof.Machine.execFmask s
  | .tsync => Sys2Proof.Machine.execTsync s
  | .cntsel => Sys2Proof.Machine.execCntsel s
  | .cntrd => Sys2Proof.Machine.execCntrd s
  | .cntclr => Sys2Proof.Machine.execCntclr s
  | .mrecord => Sys2Proof.Machine.execMrecord s
  | .mlog => Sys2Proof.Machine.execMlog s
  | .quote => Sys2Proof.Machine.execQuote s
  | .kwrapWrap => Sys2Proof.Machine.execKwrapWrap s
  | .kwrapUnwrap => Sys2Proof.Machine.execKwrapUnwrap s
  | .biasget => Sys2Proof.Machine.execBiasget s
  | .biasdev => Sys2Proof.Machine.execBiasdev s
  | .biashost => Sys2Proof.Machine.execBiashost s
  | .unassignedCall => Sys2Proof.Machine.execUnassignedCall s
  | .biasFlipDone => Sys2Proof.Machine.execBiasFlipDone s
  | .hostMemoryAccess port ga n data => Sys2Proof.Machine.execHostMemoryAccess port ga n data s
  | .snpData half => Sys2Proof.Machine.execSnpData half s
  | .snpInv half => Sys2Proof.Machine.execSnpInv half s
  | .snpCur half => Sys2Proof.Machine.execSnpCur half s
  | .ingressStore hostport port offset data => Sys2Proof.Machine.execIngressStore hostport port offset data s
  | .ipseqWrite hostport port value => Sys2Proof.Machine.execIpseqWrite hostport port value s
  | .packetAcceptance => Sys2Proof.Machine.execPacketAcceptance s
  | .bindingTimeout => Sys2Proof.Machine.execBindingTimeout s
  | .childAcceptance => Sys2Proof.Machine.execChildAcceptance s
  | .placement => Sys2Proof.Machine.execPlacement s
  | .instanceStart => Sys2Proof.Machine.execInstanceStart s
  | .firingSelect => Sys2Proof.Machine.execFiringSelect s
  | .generatorFiring => Sys2Proof.Machine.execGeneratorFiring s
  | .tokenArrival => Sys2Proof.Machine.execTokenArrival s
  | .requestArrival => Sys2Proof.Machine.execRequestArrival s
  | .controlTokenArrival => Sys2Proof.Machine.execControlTokenArrival s
  | .lineCountArrival => Sys2Proof.Machine.execLineCountArrival s
  | .chainStart => Sys2Proof.Machine.execChainStart s
  | .kvRequestExamine => Sys2Proof.Machine.execKvRequestExamine s
  | .patternBaseTake => Sys2Proof.Machine.execPatternBaseTake s
  | .patternLoadStep => Sys2Proof.Machine.execPatternLoadStep s
  | .patternReadReturn => Sys2Proof.Machine.execPatternReadReturn s
  | .patternStoreStep => Sys2Proof.Machine.execPatternStoreStep s
  | .patternRunEnd => Sys2Proof.Machine.execPatternRunEnd s
  | .commandArrival => Sys2Proof.Machine.execCommandArrival s
  | .commandCompletion => Sys2Proof.Machine.execCommandCompletion s
  | .fillReservation => Sys2Proof.Machine.execFillReservation s
  | .fillRow => Sys2Proof.Machine.execFillRow s
  | .matrixOpStart => Sys2Proof.Machine.execMatrixOpStart s
  | .matrixOpFinish => Sys2Proof.Machine.execMatrixOpFinish s
  | .accessAtHome => Sys2Proof.Machine.execAccessAtHome s
  | .rmwAtHome => Sys2Proof.Machine.execRmwAtHome s
  | .stashRecall => Sys2Proof.Machine.execStashRecall s
  | .loadComplete => Sys2Proof.Machine.execLoadComplete s
  | .storePerformed => Sys2Proof.Machine.execStorePerformed s
  | .deferredFaultArrival => Sys2Proof.Machine.execDeferredFaultArrival s
  | .streamReadAtHome => Sys2Proof.Machine.execStreamReadAtHome s
  | .streamStoreAtHome => Sys2Proof.Machine.execStreamStoreAtHome s
  | .streamOpAtHome => Sys2Proof.Machine.execStreamOpAtHome s
  | .streamStallTimeout => Sys2Proof.Machine.execStreamStallTimeout s
  | .aliasLoad vf offset n => Sys2Proof.Machine.execAliasLoad vf offset n s
  | .aliasStore vf offset n data => Sys2Proof.Machine.execAliasStore vf offset n data s
  | .crestWrite vf stream value => Sys2Proof.Machine.execCrestWrite vf stream value s
  | .toeWrite vf stream slot value => Sys2Proof.Machine.execToeWrite vf stream slot value s
  | .lzeroSdiscWrite vf stream => Sys2Proof.Machine.execLzeroSdiscWrite vf stream s
  | .caravanOpAtHome => Sys2Proof.Machine.execCaravanOpAtHome s
  | .waitaAtHome => Sys2Proof.Machine.execWaitaAtHome s
  | .runStart => Sys2Proof.Machine.execRunStart s
  | .runEnd => Sys2Proof.Machine.execRunEnd s
  | .faultPost => Sys2Proof.Machine.execFaultPost s
  | .faultQueueRetry => Sys2Proof.Machine.execFaultQueueRetry s
  | .grantRound => Sys2Proof.Machine.execGrantRound s
  | .rimPortSend => Sys2Proof.Machine.execRimPortSend s
  | .peerTokenArrival part side row value tag => Sys2Proof.Machine.execPeerTokenArrival part side row value tag s
  | .sliceEnd => Sys2Proof.Machine.execSliceEnd s
  | .maxRunLength => Sys2Proof.Machine.execMaxRunLength s
  | .frontArrival => Sys2Proof.Machine.execFrontArrival s
  | .tileAct => Sys2Proof.Machine.execTileAct s
  | .sweepComplete => Sys2Proof.Machine.execSweepComplete s
  | .lossDeclaration flit lost => Sys2Proof.Machine.execLossDeclaration flit lost s
  | .unreachableTimeout module => Sys2Proof.Machine.execUnreachableTimeout module s
  | .moveStart part va dst => Sys2Proof.Machine.execMoveStart part va dst s
  | .moveApplied => Sys2Proof.Machine.execMoveApplied s
  | .shootdownComplete => Sys2Proof.Machine.execShootdownComplete s
  | .invalidationComplete => Sys2Proof.Machine.execInvalidationComplete s
  | .instanceComplete => Sys2Proof.Machine.execInstanceComplete s
  | .nop => Sys2Proof.Machine.execNop s
  | .trap a => Sys2Proof.Machine.execTrap a s
  | .brk => Sys2Proof.Machine.execBrk s
  | .svc d a => Sys2Proof.Machine.execSvc d a s
  | .srd d n => Sys2Proof.Machine.execSrd d n s
  | .swr a n => Sys2Proof.Machine.execSwr a n s
  | .fence scope => Sys2Proof.Machine.execFence scope s
  | .frec d => Sys2Proof.Machine.execFrec d s
  | .keep => Sys2Proof.Machine.execKeep s
  | .add d a b => Sys2Proof.Machine.execAdd d a b s
  | .sub d a b => Sys2Proof.Machine.execSub d a b s
  | .and d a b => Sys2Proof.Machine.execAnd d a b s
  | .or d a b => Sys2Proof.Machine.execOr d a b s
  | .xor d a b => Sys2Proof.Machine.execXor d a b s
  | .andn d a b => Sys2Proof.Machine.execAndn d a b s
  | .shl d a b => Sys2Proof.Machine.execShl d a b s
  | .shr d a b => Sys2Proof.Machine.execShr d a b s
  | .sar d a b => Sys2Proof.Machine.execSar d a b s
  | .min d a b => Sys2Proof.Machine.execMin d a b s
  | .max d a b => Sys2Proof.Machine.execMax d a b s
  | .minu d a b => Sys2Proof.Machine.execMinu d a b s
  | .maxu d a b => Sys2Proof.Machine.execMaxu d a b s
  | .slt d a b => Sys2Proof.Machine.execSlt d a b s
  | .sltu d a b => Sys2Proof.Machine.execSltu d a b s
  | .seq d a b => Sys2Proof.Machine.execSeq d a b s
  | .clz d a => Sys2Proof.Machine.execClz d a s
  | .cntb d a => Sys2Proof.Machine.execCntb d a s
  | .sextb d a => Sys2Proof.Machine.execSextb d a s
  | .sexth d a => Sys2Proof.Machine.execSexth d a s
  | .sextw d a => Sys2Proof.Machine.execSextw d a s
  | .zextb d a => Sys2Proof.Machine.execZextb d a s
  | .zexth d a => Sys2Proof.Machine.execZexth d a s
  | .zextw d a => Sys2Proof.Machine.execZextw d a s
  | .mul d a b => Sys2Proof.Machine.execMul d a b s
  | .mulh d a b => Sys2Proof.Machine.execMulh d a b s
  | .mulhu d a b => Sys2Proof.Machine.execMulhu d a b s
  | .div d a b => Sys2Proof.Machine.execDiv d a b s
  | .divu d a b => Sys2Proof.Machine.execDivu d a b s
  | .rem d a b => Sys2Proof.Machine.execRem d a b s
  | .remu d a b => Sys2Proof.Machine.execRemu d a b s
  | .addi d a imm => Sys2Proof.Machine.execAddi d a imm s
  | .andi d a imm => Sys2Proof.Machine.execAndi d a imm s
  | .ori d a imm => Sys2Proof.Machine.execOri d a imm s
  | .xori d a imm => Sys2Proof.Machine.execXori d a imm s
  | .slti d a imm => Sys2Proof.Machine.execSlti d a imm s
  | .sltiu d a imm => Sys2Proof.Machine.execSltiu d a imm s
  | .seqi d a imm => Sys2Proof.Machine.execSeqi d a imm s
  | .shli d a n => Sys2Proof.Machine.execShli d a n s
  | .shri d a n => Sys2Proof.Machine.execShri d a n s
  | .sari d a n => Sys2Proof.Machine.execSari d a n s
  | .movw d pos imm => Sys2Proof.Machine.execMovw d pos imm s
  | .movk d pos imm => Sys2Proof.Machine.execMovk d pos imm s
  | .beq a b disp => Sys2Proof.Machine.execBeq a b disp s
  | .bne a b disp => Sys2Proof.Machine.execBne a b disp s
  | .blt a b disp => Sys2Proof.Machine.execBlt a b disp s
  | .bge a b disp => Sys2Proof.Machine.execBge a b disp s
  | .bltu a b disp => Sys2Proof.Machine.execBltu a b disp s
  | .bgeu a b disp => Sys2Proof.Machine.execBgeu a b disp s
  | .jmp disp => Sys2Proof.Machine.execJmp disp s
  | .call disp => Sys2Proof.Machine.execCall disp s
  | .jr a => Sys2Proof.Machine.execJr a s
  | .ld d base size signed hint off => Sys2Proof.Machine.execLd d base size signed hint off s
  | .st src base size hint off => Sys2Proof.Machine.execSt src base size hint off s
  | .ldAcq d base size scope signed => Sys2Proof.Machine.execLdAcq d base size scope signed s
  | .stRel src base size scope => Sys2Proof.Machine.execStRel src base size scope s
  | .ldsyn d base scope => Sys2Proof.Machine.execLdsyn d base scope s
  | .ldsynK d base scope => Sys2Proof.Machine.execLdsynK d base scope s
  | .aadd d a b scope order => Sys2Proof.Machine.execAadd d a b scope order s
  | .aand d a b scope order => Sys2Proof.Machine.execAand d a b scope order s
  | .aor d a b scope order => Sys2Proof.Machine.execAor d a b scope order s
  | .axor d a b scope order => Sys2Proof.Machine.execAxor d a b scope order s
  | .amin d a b scope order => Sys2Proof.Machine.execAmin d a b scope order s
  | .amax d a b scope order => Sys2Proof.Machine.execAmax d a b scope order s
  | .aminu d a b scope order => Sys2Proof.Machine.execAminu d a b scope order s
  | .amaxu d a b scope order => Sys2Proof.Machine.execAmaxu d a b scope order s
  | .aswp d a b scope order => Sys2Proof.Machine.execAswp d a b scope order s
  | .acas d a b scope order => Sys2Proof.Machine.execAcas d a b scope order s
  | .afadd d a b scope order => Sys2Proof.Machine.execAfadd d a b scope order s
  | .waita a b scope disp => Sys2Proof.Machine.execWaita a b scope disp s
  | .wait l st c t => Sys2Proof.Machine.execWait l st c t s
  | .spawn c f r => Sys2Proof.Machine.execSpawn c f r s
  | .jrec c f r => Sys2Proof.Machine.execJrec c f r s
  | .jdec d h => Sys2Proof.Machine.execJdec d h s
  | .yieldRun c f r => Sys2Proof.Machine.execYieldRun c f r s
  | .endRun => Sys2Proof.Machine.execEndRun s
  | .cnew d => Sys2Proof.Machine.execCnew d s
  | .cjoin d a => Sys2Proof.Machine.execCjoin d a s
  | .cleave d a => Sys2Proof.Machine.execCleave d a s
  | .cwait c a r => Sys2Proof.Machine.execCwait c a r s
  | .cfree d a => Sys2Proof.Machine.execCfree d a s
  | .qpost a b => Sys2Proof.Machine.execQpost a b s
  | .putt port a => Sys2Proof.Machine.execPutt port a s
  | .takt port a => Sys2Proof.Machine.execTakt port a s
  | .acrst ac a kind => Sys2Proof.Machine.execAcrst ac a kind s
  | .acrd ac a count => Sys2Proof.Machine.execAcrd ac a count s
  | .ctok line => Sys2Proof.Machine.execCtok line s
  | .ctwait line a => Sys2Proof.Machine.execCtwait line a s
  | .sin port a cls toAc => Sys2Proof.Machine.execSin port a cls toAc s
  | .sout port a cls => Sys2Proof.Machine.execSout port a cls s
  | .cpy x a cls nofe => Sys2Proof.Machine.execCpy x a cls nofe s
  | .red a cls op => Sys2Proof.Machine.execRed a cls op s
  | .gath x a cls nofe => Sys2Proof.Machine.execGath x a cls nofe s
  | .scat x a cls nofe => Sys2Proof.Machine.execScat x a cls nofe s
  | .pld x a cls => Sys2Proof.Machine.execPld x a cls s
  | .pldF x a b cls => Sys2Proof.Machine.execPldF x a b cls s
  | .pdr x a cls nofe => Sys2Proof.Machine.execPdr x a cls nofe s
  | .sopen a k crest => Sys2Proof.Machine.execSopen a k crest s
  | .sclose a => Sys2Proof.Machine.execSclose a s
  | .scommit a => Sys2Proof.Machine.execScommit a s
  | .srel a k => Sys2Proof.Machine.execSrel a k s
  | .srwd a k => Sys2Proof.Machine.execSrwd a k s
  | .sqry d a k m => Sys2Proof.Machine.execSqry d a k m s
  | .sgate a b k on => Sys2Proof.Machine.execSgate a b k on s
  | .oalloc d a die fc mir => Sys2Proof.Machine.execOalloc d a die fc mir s
  | .ofree d a => Sys2Proof.Machine.execOfree d a s
  | .retain a b n w => Sys2Proof.Machine.execRetain a b n w s
  | .unpin n => Sys2Proof.Machine.execUnpin n s
  | .cflush a b scope inv => Sys2Proof.Machine.execCflush a b scope inv s
  | .rcinv => Sys2Proof.Machine.execRcinv s
  | .rcinvRange a b => Sys2Proof.Machine.execRcinvRange a b s
  | .sNop => Sys2Proof.Machine.execSNop s
  | .sAdd d a b => Sys2Proof.Machine.execSAdd d a b s
  | .sSub d a b => Sys2Proof.Machine.execSSub d a b s
  | .sAnd d a b => Sys2Proof.Machine.execSAnd d a b s
  | .sOr d a b => Sys2Proof.Machine.execSOr d a b s
  | .sXor d a b => Sys2Proof.Machine.execSXor d a b s
  | .sShl d a b => Sys2Proof.Machine.execSShl d a b s
  | .sShr d a b => Sys2Proof.Machine.execSShr d a b s
  | .sSar d a b => Sys2Proof.Machine.execSSar d a b s
  | .sMul d a b => Sys2Proof.Machine.execSMul d a b s
  | .sMin d a b => Sys2Proof.Machine.execSMin d a b s
  | .sMax d a b => Sys2Proof.Machine.execSMax d a b s
  | .sAddi d a imm => Sys2Proof.Machine.execSAddi d a imm s
  | .movi d imm => Sys2Proof.Machine.execMovi d imm s
  | .mov d a => Sys2Proof.Machine.execMov d a s
  | .cmpeq d a b => Sys2Proof.Machine.execCmpeq d a b s
  | .cmplt d a b => Sys2Proof.Machine.execCmplt d a b s
  | .cmpltu d a b => Sys2Proof.Machine.execCmpltu d a b s
  | .qand d a b ca cb => Sys2Proof.Machine.execQand d a b ca cb s
  | .qor d a b ca cb => Sys2Proof.Machine.execQor d a b ca cb s
  | .takes d port => Sys2Proof.Machine.execTakes d port s
  | .peeks d port => Sys2Proof.Machine.execPeeks d port s
  | .puts port a => Sys2Proof.Machine.execPuts port a s
  | .putr port a b => Sys2Proof.Machine.execPutr port a b s
  | .cntr d chain level => Sys2Proof.Machine.execCntr d chain level s
  | .cadv chain level => Sys2Proof.Machine.execCadv chain level s
  | .loop a imm => Sys2Proof.Machine.execLoop a imm s
  | .brf imm => Sys2Proof.Machine.execBrf imm s
  | .fin => Sys2Proof.Machine.execFin s
  | .ldl d a imm => Sys2Proof.Machine.execLdl d a imm s
  | .stl a b imm => Sys2Proof.Machine.execStl a b imm s
  | .sAtom d a b op => Sys2Proof.Machine.execSAtom d a b op s
  | .setprec a => Sys2Proof.Machine.execSetprec a s
  | .getprec d sel => Sys2Proof.Machine.execGetprec d sel s
  | .limw a => Sys2Proof.Machine.execLimw a s
  | .limr d => Sys2Proof.Machine.execLimr d s
  | .vnop => Sys2Proof.Machine.execVnop s
  | .take d port m => Sys2Proof.Machine.execTake d port m s
  | .takeMark d port k m => Sys2Proof.Machine.execTakeMark d port k m s
  | .peek d port m => Sys2Proof.Machine.execPeek d port m s
  | .peekMark d port k m => Sys2Proof.Machine.execPeekMark d port k m s
  | .put port a m => Sys2Proof.Machine.execPut port a m s
  | .puth port a m empty => Sys2Proof.Machine.execPuth port a m empty s
  | .pute port a m => Sys2Proof.Machine.execPute port a m s
  | .drop port => Sys2Proof.Machine.execDrop port s
  | .vmov d a m => Sys2Proof.Machine.execVmov d a m s
  | .vbc d k m => Sys2Proof.Machine.execVbc d k m s
  | .vadd d a b m r => Sys2Proof.Machine.execVadd d a b m r s
  | .vsub d a b m r => Sys2Proof.Machine.execVsub d a b m r s
  | .vmul d a b m r => Sys2Proof.Machine.execVmul d a b m r s
  | .vfma d a b c m r => Sys2Proof.Machine.execVfma d a b c m r s
  | .vfms d a b c m r => Sys2Proof.Machine.execVfms d a b c m r s
  | .vmax d a b m r => Sys2Proof.Machine.execVmax d a b m r s
  | .vmin d a b m r => Sys2Proof.Machine.execVmin d a b m r s
  | .vabs d a m r => Sys2Proof.Machine.execVabs d a m r s
  | .vneg d a m r => Sys2Proof.Machine.execVneg d a m r s
  | .vcps d a b m r => Sys2Proof.Machine.execVcps d a b m r s
  | .vexp2 d a m r => Sys2Proof.Machine.execVexp2 d a m r s
  | .vlog2 d a m r => Sys2Proof.Machine.execVlog2 d a m r s
  | .vrcp d a m r => Sys2Proof.Machine.execVrcp d a m r s
  | .vrsq d a m r => Sys2Proof.Machine.execVrsq d a m r s
  | .vcvt d a f m r => Sys2Proof.Machine.execVcvt d a f m r s
  | .vsrnd d a b f m => Sys2Proof.Machine.execVsrnd d a b f m s
  | .vftoi d a m r => Sys2Proof.Machine.execVftoi d a m r s
  | .vitof d a m r => Sys2Proof.Machine.execVitof d a m r s
  | .viadd d a b m => Sys2Proof.Machine.execViadd d a b m s
  | .vimul d a b m => Sys2Proof.Machine.execVimul d a b m s
  | .vand d a b m => Sys2Proof.Machine.execVand d a b m s
  | .vor d a b m => Sys2Proof.Machine.execVor d a b m s
  | .vxor d a b m => Sys2Proof.Machine.execVxor d a b m s
  | .vcmp d a b m c => Sys2Proof.Machine.execVcmp d a b m c s
  | .vsel d a b m => Sys2Proof.Machine.execVsel d a b m s
  | .vred d a m op => Sys2Proof.Machine.execVred d a m op s
  | .vperm d a b m => Sys2Proof.Machine.execVperm d a b m s
  | .vrot d a k m => Sys2Proof.Machine.execVrot d a k m s
  | .vld d k m => Sys2Proof.Machine.execVld d k m s
  | .vst k b m => Sys2Proof.Machine.execVst k b m s
  | .vgath d k b m => Sys2Proof.Machine.execVgath d k b m s
  | .mma z a b aScr bScr => Sys2Proof.Machine.execMma z a b aScr bScr s
  | .mmas z a b port => Sys2Proof.Machine.execMmas z a b port s
  | .mz z => Sys2Proof.Machine.execMz z s
  | .mrd d z k m => Sys2Proof.Machine.execMrd d z k m s
  | .mrdStatus d z k m => Sys2Proof.Machine.execMrdStatus d z k m s
  | .manch z k => Sys2Proof.Machine.execManch z k s
  | .manchPreset z k => Sys2Proof.Machine.execManchPreset z k s
  | .pfill d a r m => Sys2Proof.Machine.execPfill d a r m s
  | .pfillPort d port r m => Sys2Proof.Machine.execPfillPort d port r m s
  | .pemit port p => Sys2Proof.Machine.execPemit port p s
  | .prel p => Sys2Proof.Machine.execPrel p s
  | .vmrg d a b => Sys2Proof.Machine.execVmrg d a b s
  | .drainTimeout => Sys2Proof.Machine.execDrainTimeout s
  | .cacheInstructionCompletion => Sys2Proof.Machine.execCacheInstructionCompletion s

end Sys2Proof.Machine
end

