-- ==== Sys2Proof/Machine/Issue.lean ====
section
/-!
DEFINITION. When a control core issues its next word (R100, R101, R180, R190, R363, R369, R396).
-/
namespace Sys2Proof.Machine

/-- The four registers an engine command captures (R316). -/
def quad (a : Reg) : List Nat := [a.val, a.val + 1, a.val + 2, a.val + 3]

/-- The general registers a K-word reads or writes. -/
def regsOf : Instr → List Nat
  | .trap a => [a.val]
  | .svc d a => [d.val, a.val]
  | .srd d _ => [d.val]
  | .swr a _ => [a.val]
  | .frec d => [d.val]
  | .add d a b => [d.val, a.val, b.val]
  | .sub d a b => [d.val, a.val, b.val]
  | .and d a b => [d.val, a.val, b.val]
  | .or d a b => [d.val, a.val, b.val]
  | .xor d a b => [d.val, a.val, b.val]
  | .andn d a b => [d.val, a.val, b.val]
  | .shl d a b => [d.val, a.val, b.val]
  | .shr d a b => [d.val, a.val, b.val]
  | .sar d a b => [d.val, a.val, b.val]
  | .min d a b => [d.val, a.val, b.val]
  | .max d a b => [d.val, a.val, b.val]
  | .minu d a b => [d.val, a.val, b.val]
  | .maxu d a b => [d.val, a.val, b.val]
  | .slt d a b => [d.val, a.val, b.val]
  | .sltu d a b => [d.val, a.val, b.val]
  | .seq d a b => [d.val, a.val, b.val]
  | .clz d a => [d.val, a.val]
  | .cntb d a => [d.val, a.val]
  | .sextb d a => [d.val, a.val]
  | .sexth d a => [d.val, a.val]
  | .sextw d a => [d.val, a.val]
  | .zextb d a => [d.val, a.val]
  | .zexth d a => [d.val, a.val]
  | .zextw d a => [d.val, a.val]
  | .mul d a b => [d.val, a.val, b.val]
  | .mulh d a b => [d.val, a.val, b.val]
  | .mulhu d a b => [d.val, a.val, b.val]
  | .div d a b => [d.val, a.val, b.val]
  | .divu d a b => [d.val, a.val, b.val]
  | .rem d a b => [d.val, a.val, b.val]
  | .remu d a b => [d.val, a.val, b.val]
  | .addi d a _ => [d.val, a.val]
  | .andi d a _ => [d.val, a.val]
  | .ori d a _ => [d.val, a.val]
  | .xori d a _ => [d.val, a.val]
  | .slti d a _ => [d.val, a.val]
  | .sltiu d a _ => [d.val, a.val]
  | .seqi d a _ => [d.val, a.val]
  | .shli d a _ => [d.val, a.val]
  | .shri d a _ => [d.val, a.val]
  | .sari d a _ => [d.val, a.val]
  | .movw d _ _ => [d.val]
  | .movk d _ _ => [d.val]
  | .beq a b _ => [a.val, b.val]
  | .bne a b _ => [a.val, b.val]
  | .blt a b _ => [a.val, b.val]
  | .bge a b _ => [a.val, b.val]
  | .bltu a b _ => [a.val, b.val]
  | .bgeu a b _ => [a.val, b.val]
  | .call _ => [30]
  | .jr a => [a.val]
  | .ld d base _ _ _ _ => [d.val, base.val]
  | .st src base _ _ _ => [src.val, base.val]
  | .ldAcq d base _ _ _ => [d.val, base.val]
  | .stRel src base _ _ => [src.val, base.val]
  | .ldsyn d base _ => [d.val, base.val]
  | .ldsynK d base _ => [d.val, base.val]
  | .aadd d a b _ _ => [d.val, a.val, b.val]
  | .aand d a b _ _ => [d.val, a.val, b.val]
  | .aor d a b _ _ => [d.val, a.val, b.val]
  | .axor d a b _ _ => [d.val, a.val, b.val]
  | .amin d a b _ _ => [d.val, a.val, b.val]
  | .amax d a b _ _ => [d.val, a.val, b.val]
  | .aminu d a b _ _ => [d.val, a.val, b.val]
  | .amaxu d a b _ _ => [d.val, a.val, b.val]
  | .aswp d a b _ _ => [d.val, a.val, b.val]
  | .acas d a b _ _ => [d.val, a.val, b.val]
  | .afadd d a b _ _ => [d.val, a.val, b.val]
  | .waita a b _ _ => [a.val, b.val, 31, 1]
  | .spawn c f r => [c.val, f.val, r.val]
  | .jrec c f r => [c.val, f.val, r.val]
  | .jdec d h => [d.val, h.val]
  | .yieldRun c f r => [c.val, f.val, r.val]
  | .cnew d => [d.val]
  | .cjoin d a => [d.val, a.val, 31]
  | .cleave d a => [d.val, a.val, 31]
  | .cwait c a r => [c.val, a.val, r.val, 31]
  | .cfree d a => [d.val, a.val]
  | .qpost a b => [a.val, b.val]
  | .putt _ a => [a.val]
  | .takt _ a => [a.val]
  | .acrst _ a _ => [a.val]
  | .acrd _ a _ => [a.val]
  | .ctwait _ a => [a.val]
  | .sin _ a _ _ => [] ++ quad a
  | .sout _ a _ => [] ++ quad a
  | .cpy x a _ _ => [x.val] ++ quad a
  | .red a _ _ => [] ++ quad a
  | .gath x a _ _ => [x.val] ++ quad a
  | .scat x a _ _ => [x.val] ++ quad a
  | .pld x a _ => [x.val] ++ quad a
  | .pldF x a b _ => [x.val, b.val] ++ quad a
  | .pdr x a _ _ => [x.val] ++ quad a
  | .sopen a _ _ => [a.val]
  | .sclose a => [a.val]
  | .scommit a => [a.val]
  | .srel a _ => [a.val]
  | .srwd a _ => [a.val]
  | .sqry d a _ _ => [d.val, a.val]
  | .sgate a b _ _ => [a.val, b.val]
  | .oalloc d a _ _ _ => [d.val, a.val]
  | .ofree d a => [d.val, a.val]
  | .retain a b _ _ => [a.val, b.val]
  | .cflush a b _ _ => [a.val, b.val]
  | .rcinvRange a b => [a.val, b.val]
  | _ => []

/-- Whether a K-word waits behind an acquire (R363): it accesses memory, counts in a class counter,
issues an engine command or ends the run. -/
def waitsAcquire : Instr → Bool
  | .trap .. => true
  | .ld .. => true
  | .st .. => true
  | .ldAcq .. => true
  | .stRel .. => true
  | .ldsyn .. => true
  | .ldsynK .. => true
  | .aadd .. => true
  | .aand .. => true
  | .aor .. => true
  | .axor .. => true
  | .amin .. => true
  | .amax .. => true
  | .aminu .. => true
  | .amaxu .. => true
  | .aswp .. => true
  | .acas .. => true
  | .afadd .. => true
  | .waita .. => true
  | .jrec .. => true
  | .jdec .. => true
  | .yieldRun .. => true
  | .endRun => true
  | .cnew .. => true
  | .cjoin .. => true
  | .cleave .. => true
  | .cwait .. => true
  | .cfree .. => true
  | .qpost .. => true
  | .sin .. => true
  | .sout .. => true
  | .cpy .. => true
  | .red .. => true
  | .gath .. => true
  | .scat .. => true
  | .pld .. => true
  | .pldF .. => true
  | .pdr .. => true
  | .sopen .. => true
  | .sclose .. => true
  | .scommit .. => true
  | .srel .. => true
  | .srwd .. => true
  | .sqry .. => true
  | .sgate .. => true
  | .oalloc .. => true
  | .ofree .. => true
  | .retain .. => true
  | .unpin .. => true
  | .cflush .. => true
  | .rcinv => true
  | .rcinvRange .. => true
  | _ => false

/-- What a control core does at its turn: something other than issuing, or the word it issues. -/
inductive Gate where
  | stay (s : State)
  | go (i : Instr)

/-- The next word of a core's run, if it may issue: a deferred fault traps first (R190), an unassigned
word traps with ILLEGAL (R100), and a word waits for the registers it names (R180) and behind the
run's acquires (R363). At a front a run beyond the maximum run length stops issuing (R396), and a core that holds a trap
continuation stalls until a record-pool entry frees (R176). -/
def gate (s : State) (n : Nat) : Gate :=
  match (s.core n).run with
  | none => .stay s
  | some r =>
    let stopped := match s.part (partOf r.rc.inst) with
      | some x => (match x.front with | some f => decide (f.mrl ≤ s.cyc - r.began) | none => false)
      | none => false
    if r.ending.isSome || stopped || !(s.core n).held.isEmpty then .stay s
    else match r.defer with
    | some f => .stay (s.setRun n (some { r with ending := some (.trap f) }))
    | none => match decodeK (s.codeWord r r.pc) with
      | .error _ => .stay (trap s n r cILLEGAL)
      | .ok i =>
        if r.locks.any (fun l => (regsOf i).contains l.1) || (waitsAcquire i && !r.hold.isEmpty) then .stay s
        else .go i

end Sys2Proof.Machine
end

