-- ==== Sys2Proof/Machine/Step.lean ====
section
/-!
DEFINITION. One step of the module: the next turn of the schedule moves a control core, a tile's
firing, or one of the machine's own steps (R43, R48, R161; DESIGN CHOICE, log entries 1 and 3).
-/
namespace Sys2Proof.Machine

/-- Whether an instruction is a word of a control core or a slot of a firing word; the others are the
machine's own steps. -/
def isWord (i : Instr) : Bool := (encodeK i).isSome || (encodeS i).isSome || (encodeV i).isSome

/-- An uncorrectable error strikes a sector of memory, or of a tile's SRAM (R269; DESIGN CHOICE, log entry
44). -/
def State.softError (s : State) (tile : Option (Nat × Nat)) (a : Nat) : State :=
  match tile with
  | none => { s with bad := struck s.bad a }
  | some (k, tk) => s.modTile k tk fun t => { t with bad := struck t.bad (a % 2 ^ 20) }

/-- Whether bytes lie in HBM or oasis of another module, which its own agents may store (R126, R266, R299). -/
def State.elsewhere (s : State) (ga n : Nat) : Bool :=
  let ok (a : Nat) : Bool := decide (a < 2 ^ 56) && decide (gaModule a ≠ s.boot.modnum) && decide (gaKind a ≤ 1)
  ok ga && ok (ga + n) && decide (gaModule ga = gaModule (ga + n)) && decide (gaKind ga = gaKind (ga + n))
/-- Another module's memory changes (R299, R335; DESIGN CHOICE, log entry 35): its monitors for records of this module
send their own tokens (R373). -/
def State.outside (s : State) (ga : Nat) (bytes : List Byte) : State :=
  if s.elsewhere ga bytes.length then s.setMem (memPuts s.mem ga bytes) else s

/-- What a turn does. A core that cannot issue and a tile with no firing stand still, and a step that
is none of the machine's own does not occur. -/
def runTurn (s : State) : TurnWhat → Out
  | .core n =>
    if n < 128 then
      match gate s n with
      | .stay s => .next s
      | .go i => exec i { s with sched := { s.sched with core := n } }
    else .fault .noSuchCore
  | .tile k tk =>
    let firing := match s.inst k with
      | some i => (match getT i.tiles tk with | some t => t.firing.isSome | none => false)
      | none => false
    if firing then stepTile { s with sched := { s.sched with tile := (k, tk) } } else .next s
  | .event i args =>
    if i.wf && !isWord i then exec i { s with sched := { s.sched with args := args } } else .next s
  | .softError tile a => .next (s.softError tile a)
  | .outside ga bytes => .next (s.outside ga bytes)

/-- The turn that moves next: the first that the state lists, or an open one (DESIGN CHOICE, log entry 1). -/
def State.turn (s : State) : Turn :=
  match s.sched.turns with
  | t :: _ => t
  | [] => Config.freeTurn s.sched.ticks

/-- The state in which that turn moves: its cycles have passed. -/
def State.advance (s : State) : State :=
  { s with cyc := (s.cyc + s.turn.dt) % 2 ^ 64
           sched := { s.sched with turns := s.sched.turns.tail, ticks := s.sched.ticks + 1, args := [] } }

/-- One step. -/
def step (s : State) : Host.Outcome State Fault Refusal := runTurn s.advance s.turn.what

/-- An instance whose code or whose first firing word is one word. -/
def probeInst (code store : Nat) : Inst :=
  { img := { ncode := 1, code := [code]
             frames := [(0, 2 ^ 246), (1 * 2 ^ 14, 2 * 2 ^ 240), (32 * 2 ^ 14, store)] }
    tiles := [(0, { woken := true, firing := some {} })] }

/-- The state with an instruction placed where the next step executes it: a partition of core 0 holding
one instance, with a run on core 0 at a K-word, or a firing at a firing word (DESIGN CHOICE, log entry 22). -/
def State.withFetchWord (s : State) (nbits w : Nat) : State :=
  let place (i : Inst) (t : TurnWhat) : State :=
    { s with parts := putT s.parts 0 { cores := 1 }, insts := putT s.insts 0 i
             cores := putT s.cores 0 { run := some {} }
             sched := { s.sched with turns := [⟨0, t⟩] } }
  match decodeK (w % 2 ^ min nbits 32) with
  | .ok _ => place (probeInst (w % 2 ^ min nbits 32) 0) (.core 0)
  | .error _ => place (probeInst 0 (w % 2 ^ min nbits 64)) (.tile 0 0)

end Sys2Proof.Machine
end

