-- ==== Sys2Proof/Safety.lean ====
section
/-!
DEFINITION. What a safe state is: memory in its canonical form, in HBM, oasis and host memory and in
the SRAM of every tile.
-/
namespace Sys2Proof.Machine

/-- Whether every tile of an instance has its SRAM in canonical form. -/
def Inst.wf (i : Inst) : Bool := i.tiles.all fun t => memWf t.2.sram
/-- Whether every memory of a state is in canonical form. -/
def State.wf (s : State) : Bool := memWf s.mem && s.insts.all fun i => i.2.wf

end Sys2Proof.Machine
end

