-- ==== Sys2Proof/Certificates/Slice0/Obligations.lean ====
section
/-!
DEFINITION. What is claimed of the model: one definition for each statement, and the words they share.
-/
open Sys2Proof Sys2Proof.Machine

namespace Sys2Proof.Claim

/-! ### Control-core words -/

/-- Core n is moving and executes run r. -/
def On (s : State) (n : Nat) (r : Run) : Prop := s.sched.core = n ∧ (s.core n).run = some r
/-- The state in which core n's run r has trapped precisely: it stops issuing, and its fault record waits for
the run to end (R45, R190). -/
def trapped (s : State) (n : Nat) (r : Run) (code : Nat) (addr : Word) (detail : Nat) : State :=
  s.setRun n (some { r with ending := some (.trap (runFault s n r code addr detail)) })
/-- The state in which core n's run, now r, has completed its word: it goes on at the next index, or, where that word is the last of
the code, it has had its effect and the run traps with ILLEGAL at that word (R101). Nothing else changes. -/
def after (s : State) (n : Nat) (r : Run) : State :=
  if r.pc + 1 < (s.image r).words then s.setRun n (some { r with pc := r.pc + 1 }) else trapped s n r 0x01 0 0
/-- The state in which core n's run r has issued operation q and gone on: q is pending under a new number,
it counts in its class (R193), its destination register is interlocked (R180), and an acquire holds the
words after it (R363). -/
def issued (s : State) (n : Nat) (r : Run) (q : Pend) : State :=
  let q := { q with id := s.sched.next }
  after { s with sched := { s.sched with next := s.sched.next + 1 }, pends := s.pends ++ [q] } n
    { r with
      ldc := r.ldc + (if q.cls = .ldc then 1 else 0), stc := r.stc + (if q.cls = .stc then 1 else 0)
      cpc := r.cpc + (if q.cls = .cpc then 1 else 0), pnc := r.pnc + (if q.cls = .pnc then 1 else 0)
      locks := r.locks ++ (if q.dst = 0 then [] else [(q.dst, q.id)])
      hold := r.hold ++ (if q.acq then [q.id] else []) }
/-- An operation of core n's run r with no fields of its own yet. -/
def opOf (s : State) (n : Nat) (r : Run) (cls : Cls) (act : Act) : Pend :=
  { id := 0, core := n, rid := r.rid, part := partOf r.rc.inst, inst := r.rc.inst, widx := r.pc
    word := s.codeWord r r.pc, cls := cls, act := act, fp := r.get 31, arg := r.get 1, die := n / 16, trapc := r.rc.trapc }

/-- What R194 asks of a control word and a frame pointer: reserved bits zero, a scope code, a code address
inside the code, and an aligned ordinary-space frame. -/
def goodRec (img : Image) (ctl fp : Word) : Prop :=
  fld ctl.toNat 47 21 = 0 ∧ bit ctl.toNat 16 = false ∧ fld ctl.toNat 20 18 ≤ 4 ∧ fld ctl.toNat 15 0 < img.words ∧
    fp.toNat < 2 ^ 57 ∧ fp.toNat % 8 = 0
/-- The record that a control word, a frame pointer and an argument describe for run r's instance, released
at .mod or wider (R194, R200). -/
def recOf (r : Run) (ctl fp arg : Word) (join : Nat) : Rec :=
  { arg := arg, fp := fp, inst := r.rc.inst, join := join, afirst := true, code := fld ctl.toNat 15 0
    ascope := if fld ctl.toNat 20 18 < 2 then .mod else (Scope.ofCode (fld ctl.toNat 20 18)).getD .sys }
/-- The state in which core n's run r has issued a word whose result v is known and arrives later (R193). -/
def issuedValue (s : State) (n : Nat) (r : Run) (d : Reg) (v : Word) : State :=
  issued s n r { opOf s n r .ldc (.value v) with dst := d.val, st := .done v }
/-- The command that an ENGINE word captures from registers a to a + 3 and its other operands (R316). -/
def cmdOf (s : State) (n : Nat) (r : Run) (op : Nat) (a : Reg) (port : Nat) (flag : Bool) (cls : Nat) (x desc : Option Word) : Cmd :=
  { id := s.sched.next, core := n, rid := r.rid, part := partOf r.rc.inst, key := keyOf r.rc.inst, num := r.rc.inst
    widx := r.pc, op := op, port := port, flag := flag, src := r.get a, dst := r.get (a + 1), shape := r.get (a + 2)
    ctl := r.get (a + 3), x := x, desc := desc, cls := cls, fp := r.get 31, arg := r.get 1, trapc := r.rc.trapc }

/-! ### Firing words -/

/-- The tile tk of instance k is moving and runs firing f; its tile stands at t. -/
def Runs (s : State) (k tk : Nat) (i : Inst) (t : Tile) (f : Firing) : Prop :=
  s.sched.tile = (k, tk) ∧ s.inst k = some i ∧ getT i.tiles tk = some t ∧ t.firing = some f
/-- The same, at a word none of whose operations has entered the tile's matrix issue point (R253). -/
def Fires (s : State) (k tk : Nat) (i : Inst) (t : Tile) (f : Firing) : Prop := Runs s k tk i t f ∧ f.ops = 0 ∧ f.seen = []
/-- The state in which the tile has become t' and its firing f goes on at index pc; the word counts (R164).
Nothing else changes. -/
def firedTo (s : State) (k tk : Nat) (i : Inst) (t' : Tile) (f : Firing) (pc : Nat) : State :=
  s.setInst k
    (i.setTile tk { t' with firing := some { f with pc := pc, words := f.words + 1, ops := 0, rows := 0, seen := [] } })
/-- The same at the next index. -/
def fired (s : State) (k tk : Nat) (i : Inst) (t' : Tile) (f : Firing) : State := firedTo s k tk i t' f (f.pc + 1)
/-- Reads q[r]: q0 reads true (R103). -/
def qOf (t : Tile) (r : QReg) : Bool := r.val = 0 || t.q[r]
/-- Reads m[r]: m0 reads all ones (R103). -/
def mOf (t : Tile) (r : MReg) (j : Nat) : Bool := r.val = 0 || (t.m[r]).getLsbD j
/-- Lane j of v[r]; a vector register that nothing has written holds +0. -/
def vOf (t : Tile) (r : VReg) (j : Fin 64) : FW := (getTD t.v r.val zeroLanes)[j]
/-- The tile with the lanes of v[d] that m[m] governs replaced. -/
def lanesTo (t : Tile) (d : VReg) (m : MReg) (g : Fin 64 → FW) : Tile :=
  { t with v := putT t.v d.val (Vector.ofFn fun j => if mOf t m j.val then g j else vOf t d j) }

/-! ### Service calls -/

/-- Word i of a call's block. -/
def argOf (c : Call) (i : Nat) : Nat := (c.words.getD i 0).toNat
/-- Call c heads the queue q that the turn names, in a running module whose rotation has come to that queue; its block has been read,
and it asks for call number n (R143, R145). -/
def Heads (s : State) (q : Nat) (c : Call) (n : Nat) : Prop :=
  s.arg 0 = q ∧ (∃ c0, headCall s q = some c0 ∧ openCall s c0 = some c) ∧ c.num = n
/-- The same for a call that begins now, with its reserved bits zero. -/
def Asks (s : State) (q : Nat) (c : Call) (n : Nat) : Prop :=
  Heads s q c n ∧ c.phase = 0 ∧ fld (c.words.getD 0 0).toNat 31 8 = 0
/-- The state in which queue q has had its turn: the rotation goes on to the next queue (R143). -/
def taken (s : State) (q : Nat) : State := { s with svcNext := (q + 1) % 13 }
/-- The state in which the call has begun and waits, in a phase, for what `work` names. -/
def begun (s : State) (q : Nat) (c : Call) (phase : Nat) (work : List Nat) : State :=
  { s with calls := putT s.calls q ({ c with phase := phase, work := work } :: (s.callList q).tail) }
/-- The call as its body reads it. -/
def svcOf (q : Nat) (c : Call) : Svc := { q := q, c := c }
/-- The calls that any caller but function 0 may make, with their numbers (R145). -/
def anyCalls : List (Instr × Nat) :=
  [(.map, 0x00), (.unmap, 0x01), (.prot, 0x02), (.query, 0x03), (.inval, 0x04), (.aliasWin, 0x06), (.sync, 0x07), (.sdef, 0x09), (.sundef, 0x0A)] ++
  [(.sattach, 0x0B), (.sdetach, 0x0C), (.sctlpg, 0x0D), (.sstall, 0x0E), (.sstat, 0x0F), (.oqstat, 0x11), (.olost, 0x12), (.opromote, 0x13)] ++
  [(.bind, 0x14), (.unbind, 0x15), (.bquery, 0x16), (.preload, 0x18), (.evict, 0x19), (.fqset, 0x20), (.fresume, 0x21), (.fabort, 0x22)] ++
  [(.fquery, 0x23), (.fmask, 0x24), (.tsync, 0x25), (.cntsel, 0x26), (.cntrd, 0x27), (.cntclr, 0x28), (.mrecord, 0x29), (.mlog, 0x2A)] ++
  [(.quote, 0x2B), (.biasget, 0x2D), (.biasdev, 0x2E), (.biashost, 0x2F)]
/-- The calls for function 0, with their numbers (R145). -/
def hostCalls : List (Instr × Nat) :=
  [(.setroot, 0x05), (.stable, 0x08), (.oquota, 0x10), (.btimeo, 0x17), (.pdef, 0x1A), (.ptear, 0x1B), (.presize, 0x1C)] ++
  [(.vfassign, 0x1D), (.vftear, 0x1E), (.pslice, 0x1F)]

/-- A flit comes over the Llynren link l, which has started and whose key has not carried 2^32 flits yet (R38). -/
def Comes (s : State) (f : LlFlit) (l : LLink) : Prop := getT s.links f.link = some l ∧ l.key.isSome = true ∧ l.count < 2 ^ 32
/-- The flit's tag verifies, under the link's key or under the one before a re-key that the peer has not acknowledged (R38). -/
def Sound (f : LlFlit) (l : LLink) : Prop := f.tagOk = true ∧ (f.old = false ∨ l.oldKey ≠ none)
/-- The state in which the flit has come: it counts under the link's key, and the peer may have acknowledged a re-key, which is open (log
entry 35). -/
def came (s : State) (f : LlFlit) (l : LLink) : State :=
  let old := if f.old = true ∨ Config.freeNat s.sched.free % 2 = 0 then l.oldKey else none
  { s with
    sched := { s.sched with free := s.sched.free + 1 }
    links := putT s.links f.link { l with count := l.count + 1, oldKey := old } }
/-- The state in which a flit has failed its tag: it is dropped and counted, and the link is retrained (R38). -/
def spoiled (s : State) (f : LlFlit) (l : LLink) : State :=
  { s with links := putT s.links f.link { l with bad := l.bad + 1, retrained := l.retrained + 1 } }

/-! ### A-tile patterns and commands -/

/-- The turn names pattern j of A-tile tk of instance k, and says with c whether a store pattern performs an issued store: its image, its
tile, and the format f of the pattern; the tile is not gated and has not acted (R17, R311). -/
def OnPattern (s : State) (k tk j c : Nat) (i : Inst) (t : Tile) (f : Fmt) : Prop :=
  s.sched.args = [k, tk, j, c] ∧ s.inst k = some i ∧ getT i.tiles tk = some t ∧ i.img.kind tk = 2 ∧ j ≤ 1 ∧
    patV (i.img.pat tk j) = true ∧ fmtOf (patFmt (i.img.pat tk j)) = some f ∧ t.acted = false ∧ t.woken = true
/-- The pattern holds base b and may perform a step: its chain runs, its domain lets it issue, and no full eddy queue stalls it
(R311, R315, R333). -/
def Steps (i : Inst) (tk j : Nat) (t : Tile) (b : Word) : Prop :=
  let w := i.img.pat tk j
  let p := t.pat j
  p.base = some b ∧ p.frozen = none ∧ p.stuck = none ∧ p.accs.length < 256 ∧ (getTD t.chains (patChain w) {}).running = true ∧
    (patDom w = 0 ∨ getTD t.nextTag (patDom w) 0 = p.tag)
/-- Pattern j of the tile in state u stands at p, on tile t'. -/
def PatternIs (u : State) (k tk j : Nat) (t' : Tile) (p : Pat) : Prop :=
  (∃ i, u.inst k = some i ∧ getT i.tiles tk = some t') ∧ t'.pat j = p
/-- A range of a partition's ordinary space in one page of this module's HBM, not a stash page, that no move or bias flip touches,
with its global address: n bytes at va may be read (or written) (R326); no byte of memory is in error (R269). -/
def Plain (s : State) (x : Part) (va n ga : Nat) (wr : Bool) : Prop :=
  ∃ q, translate x va (!wr) wr = .ok (ga, q) ∧ n ≤ q.va + q.size - va ∧ 0 < n ∧ va < 2 ^ 57 ∧ gaKind ga = 0 ∧
    gaModule ga = s.boot.modnum ∧ gaLegal ga = true ∧ gaKind q.ga = 0 ∧ gaModule q.ga = s.boot.modnum ∧ q.attr ≠ 1 ∧
      s.shut ga n = false ∧ s.moves = [] ∧ s.bad = []
/-- The turn names command c, the module's only command; its A-tile t, which is not gated, has accepted it, diverts nothing and has not acted,
and no operation of a run is pending (R318, R322). -/
def Moves (s : State) (c : Cmd) (i : Inst) (t : Tile) (x : Part) : Prop :=
  s.arg 0 = c.id ∧ s.cmds = [c] ∧ s.pends = [] ∧ s.inst c.key = some i ∧ i.num = c.num ∧ getT i.tiles c.pos = some t ∧ t.acted = false ∧
    t.woken = true ∧ t.eddy = [] ∧ c.back = [] ∧ c.acc = true ∧ c.st = .issued ∧ s.part c.part = some x ∧ atStream s c.part c.id = false
/-- The address of element e of b bits, a whole number of bytes, from a base, modulo 2^64 (R312, R318). -/
def elemVa (base : Word) (e : Int) (b : Nat) : Nat := (((base.toNat : Int) + e * b / 8) % 2 ^ 64).toNat

/-- The turn names operation q, the only one pending, on its way to memory of this module's HBM that is neither forwarded nor flipping; no
engine command and no saved run holds it back (R191, R322), a stash page names a stash bank, and no byte of memory is in error (R269). -/
def AtHome (s : State) (q : Pend) : Prop :=
  s.arg 0 = q.id ∧ s.pends = [q] ∧ s.cmds = [] ∧ q.st = .issued ∧ q.va.toNat < 2 ^ 57 ∧ gaKind q.ga = 0 ∧ gaModule q.ga = s.boot.modnum ∧ gaLegal q.ga = true ∧ s.moves = [] ∧
    s.shut q.ga 8 = false ∧ runSaved s q = false ∧ stashBad s q.part q.page = false ∧ s.bad = []
/-- The turn names operation q, the only one pending, of the run r that core q.core executes. -/
def Returns (s : State) (q : Pend) (r : Run) : Prop :=
  s.arg 0 = q.id ∧ s.pends = [q] ∧ (s.core q.core).run = some r ∧ r.rid = q.rid
/-- The run r once operation q has left its counter, its interlock and its acquire (R180, R193, R363). -/
def left (r : Run) (q : Pend) : Run :=
  { r with
    ldc := r.ldc - (if q.cls = .ldc then 1 else 0), stc := r.stc - (if q.cls = .stc then 1 else 0)
    cpc := r.cpc - (if q.cls = .cpc then 1 else 0), pnc := r.pnc - (if q.cls = .pnc then 1 else 0)
    locks := r.locks.filter (fun l => decide (l.2 ≠ q.id)), hold := r.hold.filter (fun h => decide (h ≠ q.id)) }

end Sys2Proof.Claim
open Sys2Proof.Claim

/-- R103: g0 reads 0 and discards writes; any other general register reads what was written to it, and a
write leaves the others alone. -/
def Sys2Proof.Claim.GeneralRegistersReadBackAndG0DiscardsWrites : Prop :=
  ∀ (r : Run) (i j : Reg) (v : Word),
    r.get 0 = 0 ∧ r.set 0 v = r ∧ (i ≠ 0 → (r.set i v).get i = v) ∧ (j ≠ i → (r.set i v).get j = r.get j)

/-- R181: the two-operand words write g[d] as the rule says and go on at the next word; no other register,
no memory and nothing else of the machine changes. -/
def Sys2Proof.Claim.TwoOperandAluWordsComplete : Prop :=
  ∀ (s : State) (n : Nat) (r : Run) (d a b : Reg), On s n r →
    let x := r.get a
    let y := r.get b
    let goes (v : Word) : Out := .next (after s n (r.set d v))
    exec (.add d a b) s = goes (x + y) ∧ exec (.sub d a b) s = goes (x - y) ∧
    exec (.and d a b) s = goes (x &&& y) ∧ exec (.or d a b) s = goes (x ||| y) ∧ exec (.xor d a b) s = goes (x ^^^ y) ∧
    exec (.andn d a b) s = goes (x &&& ~~~y) ∧
    exec (.shl d a b) s = goes (x <<< (y.toNat % 64)) ∧ exec (.shr d a b) s = goes (x >>> (y.toNat % 64)) ∧
    exec (.sar d a b) s = goes (x.sshiftRight (y.toNat % 64)) ∧
    exec (.min d a b) s = goes (if x.toInt < y.toInt then x else y) ∧ exec (.max d a b) s = goes (if x.toInt < y.toInt then y else x) ∧
    exec (.minu d a b) s = goes (if x.toNat < y.toNat then x else y) ∧ exec (.maxu d a b) s = goes (if x.toNat < y.toNat then y else x) ∧
    exec (.slt d a b) s = goes (if x.toInt < y.toInt then 1 else 0) ∧ exec (.sltu d a b) s = goes (if x.toNat < y.toNat then 1 else 0) ∧
    exec (.seq d a b) s = goes (if x = y then 1 else 0)

/-- R181: the one-operand words: leading zeros, ones, and the extensions of a byte, half or word. -/
def Sys2Proof.Claim.OneOperandAluWordsComplete : Prop :=
  ∀ (s : State) (n : Nat) (r : Run) (d a : Reg), On s n r →
    let x := r.get a
    let goes (v : Word) : Out := .next (after s n (r.set d v))
    (∃ k, exec (.clz d a) s = goes k ∧ (x = 0 → k = 64) ∧ (x ≠ 0 → k.toNat ≤ 63 ∧ 2 ^ (63 - k.toNat) ≤ x.toNat ∧ x.toNat < 2 ^ (64 - k.toNat))) ∧
    (∃ k, exec (.cntb d a) s = goes k ∧ k.toNat = ((List.range 64).filter fun i => x.getLsbD i).length) ∧
    exec (.sextb d a) s = goes (BitVec.ofInt 64 (x.setWidth 8).toInt) ∧ exec (.sexth d a) s = goes (BitVec.ofInt 64 (x.setWidth 16).toInt) ∧
    exec (.sextw d a) s = goes (BitVec.ofInt 64 (x.setWidth 32).toInt) ∧
    exec (.zextb d a) s = goes (x &&& 0xFF) ∧ exec (.zexth d a) s = goes (x &&& 0xFFFF) ∧ exec (.zextw d a) s = goes (x &&& 0xFFFFFFFF)

/-- R182: products and quotients. A zero divisor gives all ones as the quotient and the dividend as the
remainder, and never traps; the quotient is rounded toward zero. -/
def Sys2Proof.Claim.MultiplyAndDivideWordsComplete : Prop :=
  ∀ (s : State) (n : Nat) (r : Run) (d a b : Reg), On s n r →
    let x := r.get a
    let y := r.get b
    let goes (v : Word) : Out := .next (after s n (r.set d v))
    exec (.mul d a b) s = goes (x * y) ∧
    exec (.mulh d a b) s = goes (BitVec.ofInt 64 ((x.toInt * y.toInt) / 2 ^ 64)) ∧
    exec (.mulhu d a b) s = goes (BitVec.ofNat 64 (x.toNat * y.toNat / 2 ^ 64)) ∧
    exec (.div d a b) s = goes (if y = 0 then BitVec.allOnes 64 else BitVec.ofInt 64 (x.toInt.tdiv y.toInt)) ∧
    exec (.divu d a b) s = goes (if y = 0 then BitVec.allOnes 64 else BitVec.ofNat 64 (x.toNat / y.toNat)) ∧
    exec (.rem d a b) s = goes (if y = 0 then x else BitVec.ofInt 64 (x.toInt.tmod y.toInt)) ∧
    exec (.remu d a b) s = goes (if y = 0 then x else BitVec.ofNat 64 (x.toNat % y.toNat))

/-- R183 to R185: immediates are sign-extended by ADDI and the comparisons and zero-extended by the logical
words; MOVW writes the immediate at its position with zeros elsewhere, and MOVK replaces only those 16
bits. -/
def Sys2Proof.Claim.ImmediateWordsComplete : Prop :=
  ∀ (s : State) (n : Nat) (r : Run) (d a : Reg) (m : BitVec 16) (k : Fin 64) (p : Fin 4), On s n r →
    let x := r.get a
    let sm : Word := BitVec.ofInt 64 m.toInt
    let zm : Word := BitVec.ofNat 64 m.toNat
    let goes (v : Word) : Out := .next (after s n (r.set d v))
    exec (.addi d a m) s = goes (x + sm) ∧ exec (.andi d a m) s = goes (x &&& zm) ∧ exec (.ori d a m) s = goes (x ||| zm) ∧
    exec (.xori d a m) s = goes (x ^^^ zm) ∧
    exec (.slti d a m) s = goes (if x.toInt < m.toInt then 1 else 0) ∧ exec (.sltiu d a m) s = goes (if x.toNat < sm.toNat then 1 else 0) ∧
    exec (.seqi d a m) s = goes (if x = sm then 1 else 0) ∧
    exec (.shli d a k) s = goes (x <<< k.val) ∧ exec (.shri d a k) s = goes (x >>> k.val) ∧ exec (.sari d a k) s = goes (x.sshiftRight k.val) ∧
    exec (.movw d p m) s = goes (BitVec.ofNat 64 (m.toNat * 2 ^ (16 * p.val))) ∧
    exec (.movk d p m) s = goes ((r.get d &&& ~~~((0xFFFF : Word) <<< (16 * p.val))) ||| BitVec.ofNat 64 (m.toNat * 2 ^ (16 * p.val)))

/-- R103, R181 to R185: the general registers, and every arithmetic word of a control core: each writes its one register and goes on at the next word.
exec answers a next state, under conditions on the state and the operands alone, for each of: add, sub, and, or, xor, andn, shl, shr, sar,
min, max, minu, maxu, slt, sltu, seq, clz, cntb, sextb, sexth, sextw, zextb, zexth, zextw, mul, mulh, mulhu, div, divu, rem, remu, addi,
andi, ori, xori, slti, sltiu, seqi, shli, shri, sari, movw, movk. -/
def Obligations.ControlArithmeticWordsComplete : Prop :=
  GeneralRegistersReadBackAndG0DiscardsWrites ∧ TwoOperandAluWordsComplete ∧ OneOperandAluWordsComplete ∧ MultiplyAndDivideWordsComplete ∧ ImmediateWordsComplete

/-- R101, R186: a branch whose condition holds goes to the word that its displacement names, counted from the
next word, or traps with ILLEGAL where that lies outside the code; otherwise it goes on at the next word. None writes a register. -/
def Sys2Proof.Claim.BranchesGoToTheirTargetOrOn : Prop :=
  ∀ (s : State) (n : Nat) (r : Run) (a b : Reg) (disp : BitVec 16), On s n r →
    let x := r.get a
    let y := r.get b
    let t : Int := (r.pc : Int) + 1 + disp.toInt
    let goes (c : Bool) : Out := .next (if c = false then after s n r
      else if 0 ≤ t ∧ t < (s.image r).words then s.setRun n (some { r with pc := t.toNat }) else trapped s n r 0x01 0 0)
    exec (.beq a b disp) s = goes (decide (x = y)) ∧ exec (.bne a b disp) s = goes (decide (x ≠ y)) ∧
    exec (.blt a b disp) s = goes (decide (x.toInt < y.toInt)) ∧ exec (.bge a b disp) s = goes (decide (y.toInt ≤ x.toInt)) ∧
    exec (.bltu a b disp) s = goes (decide (x.toNat < y.toNat)) ∧ exec (.bgeu a b disp) s = goes (decide (y.toNat ≤ x.toNat))

/-- R187: JMP and JR go to their targets; CALL also writes the index of the next word to g30. -/
def Sys2Proof.Claim.JumpsAndCallsGoToTheirTargets : Prop :=
  ∀ (s : State) (n : Nat) (r : Run) (a : Reg) (disp : BitVec 26), On s n r →
    let t : Int := (r.pc : Int) + 1 + disp.toInt
    (0 ≤ t → t < (s.image r).words →
      exec (.jmp disp) s = .next (s.setRun n (some { r with pc := t.toNat })) ∧
      exec (.call disp) s = .next (s.setRun n (some { r.set 30 (BitVec.ofNat 64 (r.pc + 1)) with pc := t.toNat }))) ∧
    ((r.get a).toNat < (s.image r).words → exec (.jr a) s = .next (s.setRun n (some { r with pc := (r.get a).toNat })))

/-- R101: a taken branch, jump or call whose target lies outside the code has no effect but the trap: the
run stops issuing with an ILLEGAL fault record, at the branch's own index; g30 keeps its value. A word that is last in the code
has its effect and the run then traps at that word, as `after` says for every word of these statements. -/
def Sys2Proof.Claim.LeavingTheCodeTrapsWithIllegal : Prop :=
  ∀ (s : State) (n : Nat) (r : Run) (d a b : Reg) (disp : BitVec 16) (far : BitVec 26), On s n r →
    let bad (t : Int) : Prop := t < 0 ∨ (s.image r).words ≤ t
    let trapped (r : Run) : Out := .next (s.setRun n (some { r with ending := some (.trap (runFault s n r 0x01 0 0)) }))
    let x := r.get a
    let y := r.get b
    (bad ((r.pc : Int) + 1 + disp.toInt) →
      (x = y → exec (.beq a b disp) s = trapped r) ∧ (x ≠ y → exec (.bne a b disp) s = trapped r) ∧
      (x.toInt < y.toInt → exec (.blt a b disp) s = trapped r) ∧ (y.toInt ≤ x.toInt → exec (.bge a b disp) s = trapped r) ∧
      (x.toNat < y.toNat → exec (.bltu a b disp) s = trapped r) ∧ (y.toNat ≤ x.toNat → exec (.bgeu a b disp) s = trapped r)) ∧
    (bad ((r.pc : Int) + 1 + far.toInt) → exec (.jmp far) s = trapped r ∧ exec (.call far) s = trapped r) ∧
    (bad (r.get a).toNat → exec (.jr a) s = trapped r) ∧
    ((s.image r).words ≤ r.pc + 1 → exec (.add d a b) s = trapped (r.set d (x + y)) ∧ exec .nop s = trapped r)

/-- R101, R186, R187: branches, jumps and calls go where they say, and trap where that is outside the code.
exec answers a next state, under conditions on the state and the operands alone, for each of: beq, bne, blt, bge, bltu, bgeu, jmp, call, jr. -/
def Obligations.ControlFlowWordsComplete : Prop :=
  BranchesGoToTheirTargetOrOn ∧ JumpsAndCallsGoToTheirTargets ∧ LeavingTheCodeTrapsWithIllegal

/-- R188, R326: what the address of an access comes to. A misaligned address and one that is neither stream
nor ordinary space are refused before translation; a missing page gives PAGE with the level of the missing
entry, and a page without the permission gives ACCESS with the global address; a mapped address gives the page's
global address plus the offset. -/
def Sys2Proof.Claim.AddressesAreCheckedThenTranslated : Prop :=
  ∀ (s : State) (r : Run) (x : Part) (va : Word) (n : Nat) (rd wr : Bool),
    s.part (partOf r.rc.inst) = some x → va.toNat < 2 ^ 63 → 0 < n →
    (va.toNat % n ≠ 0 → accessAddr s r va n rd wr = .error (0x02, 0)) ∧
    (va.toNat % n = 0 → 2 ^ 57 ≤ va.toNat → accessAddr s r va n rd wr = .error (0x03, 0)) ∧
    (va.toNat % n = 0 → va.toNat < 2 ^ 57 →
      (∀ q ∈ x.pages, ¬(q.va ≤ va.toNat ∧ va.toNat < q.va + q.size)) →
      let empty (k : Nat) : Prop := ∀ q ∈ x.pages, q.va / 2 ^ k ≠ va.toNat / 2 ^ k
      accessAddr s r va n rd wr = .error (0x04, if empty 48 then 4 else if empty 39 then 3 else if empty 30 then 2 else if empty 21 then 1 else 0)) ∧
    (∀ q l₁ l₂, x.pages = l₁ ++ q :: l₂ → (∀ p ∈ l₁, ¬(p.va ≤ va.toNat ∧ va.toNat < p.va + p.size)) →
      q.va ≤ va.toNat → va.toNat < q.va + q.size → va.toNat % n = 0 → va.toNat < 2 ^ 57 →
      accessAddr s r va n rd wr =
        if (rd = true → q.r = true) ∧ (wr = true → q.w = true) then .ok (q.ga + (va.toNat - q.va), some q) else .error (0x03, q.ga + (va.toNat - q.va)))

/-- R188, R193, R293, R363, R365: an address that passes its checks lets the load issue, while LDC is below 63: the
load is pending with its width, its extension and its destination, and nothing is read yet. LD.ACQ, the
synchronising loads and loads of stream space (R293) are acquires; so is the first load of a run whose record asks for
it (R44). -/
def Sys2Proof.Claim.LoadsIssue : Prop :=
  ∀ (s : State) (n : Nat) (r : Run) (d base : Reg) (size : Size) (signed : Bool) (hint : Hint) (off : BitVec 11) (sc : Scope)
    (ga : Nat) (pg : Option Page), On s n r → r.ldc < 63 →
    let go (va : Word) (acq : Bool) (act : Act) (hint : Hint) : Out :=
      .next (issued (looked s n r pg) n { r with first := none }
        { opOf (looked s n r pg) n r .ldc act with va := va, ga := ga, dst := d.val, acq := acq || r.first.isSome, page := pg, hint := hint })
    let va := r.get base + BitVec.ofInt 64 (off.toInt * size.bytes)
    (accessAddr s r va size.bytes true false = .ok (ga, pg) →
      exec (.ld d base size signed hint off) s = go va (decide (2 ^ 63 ≤ va.toNat)) (.load size.bytes signed (r.first.isNone && fabricPage s pg)) hint) ∧
    (accessAddr s r (r.get base) size.bytes true false = .ok (ga, pg) →
      exec (.ldAcq d base size sc signed) s = go (r.get base) true (.load size.bytes signed false) .normal) ∧
    (accessAddr s r (r.get base) 8 true false = .ok (ga, pg) → pg.isSome → (gaKind ga = 0 ∨ gaKind ga = 2) → wrongBank s r ga = false →
      exec (.ldsyn d base sc) s = go (r.get base) true (.sync false) .normal ∧
      exec (.ldsynK d base sc) s = go (r.get base) true (.sync true) .normal)

/-- R189, R193, R364: a store issues while STC is below 63, with the low bytes of its register; ST.REL issues
once the run's earlier loads and stores have completed. No register changes and nothing is written yet. -/
def Sys2Proof.Claim.StoresIssue : Prop :=
  ∀ (s : State) (n : Nat) (r : Run) (src base : Reg) (size : Size) (hint : Hint) (off : BitVec 11) (sc : Scope)
    (ga : Nat) (pg : Option Page), On s n r →
    let go (va : Word) (hint : Hint) : Out :=
      .next (issued (looked s n r pg) n r
        { opOf (looked s n r pg) n r .stc (.store size.bytes (r.get src)) with va := va, ga := ga, page := pg, hint := hint })
    let va := r.get base + BitVec.ofInt 64 (off.toInt * size.bytes)
    (accessAddr s r va size.bytes false true = .ok (ga, pg) → r.stc < 63 → exec (.st src base size hint off) s = go va hint) ∧
    (accessAddr s r (r.get base) size.bytes false true = .ok (ga, pg) → r.ldc = 0 → r.stc = 0 →
      exec (.stRel src base size sc) s = go (r.get base) .normal)

/-- R367, R368: a read-modify-write of an aligned word of ordinary space that may be read and written issues
with its operand and its expected value; a release waits for the run's earlier loads and stores, and an
acquire holds what follows. -/
def Sys2Proof.Claim.AtomicsIssue : Prop :=
  ∀ (s : State) (n : Nat) (r : Run) (d a b : Reg) (sc : Scope) (o : Order) (ga : Nat) (q : Page), On s n r → r.ldc < 63 →
    accessAddr s r (r.get a) 8 true true = .ok (ga, some q) → gaKind ga ≠ 3 → wrongBank s r ga = false →
    (o = .rel ∨ o = .acqRel → r.ldc = 0 ∧ r.stc = 0) →
    let go (op : AtomOp) : Out :=
      .next (issued (looked s n r (some q)) n { r with first := none }
        { opOf (looked s n r (some q)) n r .ldc (.rmw op (r.get b) (r.get d)) with
          va := r.get a, ga := ga, dst := d.val, page := some q
          acq := decide (o = .acq) || decide (o = .acqRel) || r.first.isSome })
    exec (.aadd d a b sc o) s = go .add ∧ exec (.aand d a b sc o) s = go .and ∧ exec (.aor d a b sc o) s = go .or ∧
    exec (.axor d a b sc o) s = go .xor ∧ exec (.amin d a b sc o) s = go .min ∧ exec (.amax d a b sc o) s = go .max ∧
    exec (.aminu d a b sc o) s = go .minu ∧ exec (.amaxu d a b sc o) s = go .maxu ∧ exec (.aswp d a b sc o) s = go .swp ∧
    exec (.acas d a b sc o) s = go .cas ∧ exec (.afadd d a b sc o) s = go .fadd

/-- R188, R189, R193, R363 to R365, R367, R368: loads, stores, synchronising accesses and read-modify-writes issue.
exec answers a next state, under conditions on the state and the operands alone, for each of: ld, ldAcq, ldsyn, ldsynK, st, stRel, aadd,
aand, aor, axor, amin, amax, aminu, amaxu, aswp, acas, afadd. -/
def Obligations.MemoryWordsIssue : Prop :=
  LoadsIssue ∧ StoresIssue ∧ AtomicsIssue

/-- R190, R365, R368: a memory word whose address is refused traps precisely with that fault, its address and
its detail; synchronising loads and read-modify-writes of stream space trap with ACCESS, and so do those that the memory they
reach does not serve, after their translation: outside HBM and tile SRAM, on a device, or in a stash or stream-window bank. -/
def Sys2Proof.Claim.RefusedAddressesTrapPrecisely : Prop :=
  ∀ (s : State) (n : Nat) (r : Run) (d base b : Reg) (size : Size) (signed : Bool) (hint : Hint) (off : BitVec 11) (sc : Scope)
    (o : Order) (c detail ga : Nat) (q : Page), On s n r →
    let va := r.get base + BitVec.ofInt 64 (off.toInt * size.bytes)
    let bad (va : Word) : Out := .next (trapped (missed s n r va c) n r c va detail)
    (accessAddr s r va size.bytes true false = .error (c, detail) → exec (.ld d base size signed hint off) s = bad va) ∧
    (accessAddr s r va size.bytes false true = .error (c, detail) → exec (.st d base size hint off) s = bad va) ∧
    (accessAddr s r (r.get base) size.bytes true false = .error (c, detail) → exec (.ldAcq d base size sc signed) s = bad (r.get base)) ∧
    (accessAddr s r (r.get base) size.bytes false true = .error (c, detail) → exec (.stRel d base size sc) s = bad (r.get base)) ∧
    ((r.get base).toNat % 8 ≠ 0 → exec (.ldsyn d base sc) s = .next (trapped s n r 0x02 (r.get base) 0) ∧
      exec (.aadd d base b sc o) s = .next (trapped s n r 0x02 (r.get base) 0)) ∧
    ((r.get base).toNat % 8 = 0 → 2 ^ 63 ≤ (r.get base).toNat → exec (.ldsynK d base sc) s = .next (trapped s n r 0x03 (r.get base) 0) ∧
      exec (.acas d base b sc o) s = .next (trapped s n r 0x03 (r.get base) 0)) ∧
    (let refused : Out := .next (trapped (looked s n r (some q)) n r 0x03 (r.get base) ga)
     (accessAddr s r (r.get base) 8 true false = .ok (ga, some q) → (gaKind ga ≠ 0 ∧ gaKind ga ≠ 2) ∨ wrongBank s r ga = true →
       exec (.ldsyn d base sc) s = refused ∧ exec (.ldsynK d base sc) s = refused) ∧
     (accessAddr s r (r.get base) 8 true true = .ok (ga, some q) → gaKind ga = 3 ∨ wrongBank s r ga = true → exec (.aadd d base b sc o) s = refused))

/-- R188, R190, R326, R365, R368: what an address comes to, and the traps of the memory words whose address is refused. -/
def Obligations.AddressesAreCheckedOrTrap : Prop :=
  AddressesAreCheckedThenTranslated ∧ RefusedAddressesTrapPrecisely

/-- R192, R208, R211 to R213, R366: the words that only wait or move a special register. NOP goes on; FENCE
goes on once the run's loads and stores have completed, and WAIT once its four counters are within its
limits; SRD reads a special register; SWR writes the 32 weight bits of SPACW; FREC returns the fault record of a
trap continuation, else 0; KEEP marks the instance to stay resident. -/
def Sys2Proof.Claim.SystemWordsComplete : Prop :=
  ∀ (s : State) (n : Nat) (r : Run) (x : Part) (i : Inst) (d a : Reg) (sc : Scope) (l st c t : Fin 64), On s n r →
    s.part (partOf r.rc.inst) = some x → s.inst (keyOf r.rc.inst) = some i →
    let goes (v : Word) : Out := .next (after s n (r.set d v))
    exec .nop s = .next (after s n r) ∧
    (r.ldc = 0 → r.stc = 0 → exec (.fence sc) s = .next (after s n r)) ∧
    (r.ldc ≤ l.val → r.stc ≤ st.val → r.cpc ≤ c.val → r.pnc ≤ t.val → exec (.wait l st c t) s = .next (after s n r)) ∧
    exec (.srd d 0) s = goes (BitVec.ofNat 64 n) ∧ exec (.srd d 1) s = goes (BitVec.ofNat 64 r.rc.inst) ∧
    exec (.srd d 2) s = goes (BitVec.ofNat 64 s.cyc) ∧ exec (.srd d 3) s = goes (BitVec.ofNat 64 (s.cyc - r.began)) ∧
    exec (.srd d 4) s = goes (BitVec.ofNat 64 r.rc.code) ∧ exec (.srd d 5) s = goes (BitVec.ofNat 64 x.spacw) ∧
    exec (.swr a 5) s = .next (after (s.setPart (partOf r.rc.inst) { x with spacw := (r.get a).toNat % 2 ^ 32 }) n r) ∧
    exec (.frec d) s = goes (if r.rc.trapc then r.rc.frec else 0) ∧
    exec .keep s = .next (after (s.setInst (keyOf r.rc.inst) { i with keep := true }) n r)

/-- R102, R192, R366: FENCE and WAIT change nothing while they wait, and a special register that does not
exist or may not be written traps with ILLEGAL. -/
def Sys2Proof.Claim.SystemWordsWaitOrTrap : Prop :=
  ∀ (s : State) (n : Nat) (r : Run) (d : Reg) (k : Fin 32) (sc : Scope) (l st c t : Fin 64), On s n r →
    (0 < r.ldc ∨ 0 < r.stc → exec (.fence sc) s = .next s) ∧
    (l.val < r.ldc ∨ st.val < r.stc ∨ c.val < r.cpc ∨ t.val < r.pnc → exec (.wait l st c t) s = .next s) ∧
    (5 < k.val → exec (.srd d k) s = .next (trapped s n r 0x01 0 0)) ∧
    (k.val ≠ 5 → exec (.swr d k) s = .next (trapped s n r 0x01 0 0))

/-- R192, R208, R211 to R213, R366: the system words, and where they wait or trap.
exec answers a next state, under conditions on the state and the operands alone, for each of: nop, srd, swr, fence, frec, keep, wait. -/
def Obligations.SystemWordsCompleteWaitOrTrap : Prop :=
  SystemWordsComplete ∧ SystemWordsWaitOrTrap

/-- R209, R210, R143: TRAP ends the run through a record with code 0 and the register's value; BRK saves the
run whole, withdraws its reads that wait at their homes, posts a record that is not FROZEN and frees the core; SVC answers SVC_ARG for a block that cannot
be reached, SVC_BUSY when 64 calls are pending, and otherwise queues the call and answers SVC_OK. That the run BRK saves keeps its length (began), so that cycles off
its core do not count, is the model's choice (log entry 48).
exec answers a next state, under conditions on the state and the operands alone, for each of: trap, brk, svc. -/
def Obligations.TrapBreakAndServiceCallWordsComplete : Prop :=
  ∀ (s : State) (n : Nat) (r : Run) (x : Part) (d a : Reg), On s n r → s.part (partOf r.rc.inst) = some x →
    let p := partOf r.rc.inst
    let va := (r.get a).toNat
    exec (.trap a) s = .next (trapped s n r 0x00 (r.get a) 0) ∧
    ((∀ w ∈ x.streams, gaModule w.2.fbase = s.boot.modnum) → ∃ t y, exec .brk s = .next t ∧ (t.core n).run = none ∧ t.mem = s.mem ∧ t.insts = s.insts ∧
      (∀ m, m ≠ n → t.core m = s.core m) ∧ t.part p = some y ∧ y.saved = x.saved ++ [{ core := n, run := { r with began := s.cyc - r.began, qread := none }, brk := some n }] ∧
      y.posts = x.posts ++ [{ fr := { runFault s n r 0x00 0 0 with frozen := false } }] ∧
      t.pends = s.pends.map fun q => if q.rid = r.rid ∧ q.withdraws = true ∧ q.st = .waiting then { q with st := .issued } else q) ∧
    (r.stc = 0 →
      (reachable s p va 64 true true = none → exec (.svc d a) s = .next (after s n (r.set d 1))) ∧
      (∀ ga, reachable s p va 64 true true = some ga →
        (64 ≤ (s.callList p).length → exec (.svc d a) s = .next (after s n (r.set d 2))) ∧
        ((s.callList p).length < 64 → exec (.svc d a) s =
          .next (after { s with calls := putT s.calls p (s.callList p ++ [{ part := p, occ := occOf r.rc.inst, va := va }]) } n (r.set d 0)))))

/-- R198, R199, R203, R372: the words that end a run make their checks and mark how the run ends; it issues
nothing more, and what its ending word does waits for its loads and stores.
exec answers a next state, under conditions on the state and the operands alone, for each of: waita, yieldRun, endRun, cwait. -/
def Obligations.RunEndingWordsMarkTheRun : Prop :=
  ∀ (s : State) (n : Nat) (r : Run) (a b c : Reg) (sc : Scope) (disp : BitVec 13) (ga : Nat) (q : Page), On s n r →
    let ends (s : State) (e : Ending) : Out := .next (s.setRun n (some { r with ending := some e }))
    exec .endRun s = ends s .endRun ∧
    (goodRec (s.image r) (r.get a) (r.get b) → fld (r.get a).toNat 63 48 = 0 →
      exec (.yieldRun a b c) s = ends s (.yieldRun (recOf r (r.get a) (r.get b) (r.get c) 0))) ∧
    (goodRec (s.image r) (r.get a) (r.get 31) → fld (r.get a).toNat 63 48 = 0 →
      exec (.cwait a b c) s = ends s (.cwait (r.get b) (recOf r (r.get a) (r.get 31) (r.get c) 0))) ∧
    (let code : Int := (r.pc : Int) + 1 + disp.toInt
     0 ≤ code → code < (s.image r).words → accessAddr s r (r.get a) 8 true false = .ok (ga, some q) → gaKind ga ≠ 3 →
      wrongBank s r ga = false →
      exec (.waita a b sc disp) s = ends (looked s n r (some q)) (.waita (partOf r.rc.inst) ga (r.get a) (r.get b)
        { arg := r.get 1, fp := r.get 31, inst := r.rc.inst, ascope := sc, afirst := true, code := code.toNat } (some q)))

/-- R195 to R197, R200: SPAWN pushes its record at the bottom of the core's deque, where 128 records spill
first if it is full; JREC parks its record in the entry of the pool that `poolPut` finds free and answers a handle of the entry's
generation and index; JDEC answers the count it leaves, makes the record runnable at 0, and answers all ones
for a handle that names none. All three wait for the run's earlier loads and stores. -/
def Sys2Proof.Claim.RecordWordsComplete : Prop :=
  ∀ (s : State) (n : Nat) (r : Run) (x : Part) (a b c : Reg), On s n r → s.part (partOf r.rc.inst) = some x →
    r.ldc = 0 → r.stc = 0 →
    let p := partOf r.rc.inst
    let occ := occOf r.rc.inst
    let d := (s.core n).deque occ
    let join := fld (r.get a).toNat 63 48
    let rec_ := recOf r (r.get a) (r.get b) (r.get c) join
    let pushed := s.setCore n ((s.core n).setDeque occ
      (if d.hw.length < 256 then { d with hw := d.hw ++ [rec_] } else { spill := d.spill ++ d.hw.take 128, hw := d.hw.drop 128 ++ [rec_] }))
    (goodRec (s.image r) (r.get a) (r.get b) → (256 ≤ d.hw.length → d.spill.length + 128 ≤ 65536) → join = 0 →
      exec (.spawn a b c) s = .next (after pushed n r) ∧
      exec (.jrec a b c) s = .next (issuedValue pushed n r a 0xFFFFFFFFFFFFFFFE)) ∧
    (goodRec (s.image r) (r.get a) (r.get b) → 0 < join →
      (x.poolFree = true → let e := poolPut s p rec_
        exec (.jrec a b c) s = .next (issuedValue e.2.2 n r a (BitVec.ofNat 64 (e.2.1 * 2 ^ 16 + e.1)))) ∧
      (x.poolFree = false → exec (.jrec a b c) s = .next (issuedValue s n r a (BitVec.allOnes 64)))) ∧
    (∀ (e : PoolEntry) (rc : Rec) (h k : Nat), (r.get b).toNat = h * 2 ^ 16 + k → h < 2 ^ 16 → k < 2 ^ 16 → getT x.pool k = some e →
      e.gen = h → e.rc = some rc → occOf rc.inst = x.cur →
      (rc.join = 1 → exec (.jdec a b) s = .next (issuedValue (runnable (s.setPart p
          { x with pool := putT x.pool k { gen := (h + 1) % 65536, rc := none } }) p (some n) { rc with join := 0 }) n r a 0)) ∧
      (1 < rc.join → exec (.jdec a b) s = .next (issuedValue (s.setPart p
          { x with pool := putT x.pool k { gen := h, rc := some { rc with join := rc.join - 1 } } }) n r a (BitVec.ofNat 64 (rc.join - 1))))) ∧
    (2 ^ 32 ≤ (r.get b).toNat → exec (.jdec a b) s = .next (issuedValue s n r a (BitVec.allOnes 64)))

/-- R174, R196: whichever entry the pool gives a record to, it was free; the entry holds the record under its generation, and nothing
else of the machine changes but the free value drawn (log entry 2). -/
def Sys2Proof.Claim.ParkedRecordsTakeFreePoolEntries : Prop :=
  ∀ (s : State) (p : Nat) (x : Part) (rc : Rec), s.part p = some x → x.poolFree = true →
    let e := poolPut s p rc
    e.1 < 65536 ∧ (getTD x.pool e.1 {}).rc = none ∧ e.2.1 = (getTD x.pool e.1 {}).gen ∧
      e.2.2 = { s with sched := { s.sched with free := s.sched.free + 1 } }.setPart p { x with pool := putT x.pool e.1 { gen := e.2.1, rc := some rc } }

/-- R174, R195 to R197, R200: the record words, and where a parked record goes.
exec answers a next state, under conditions on the state and the operands alone, for each of: spawn, jrec, jdec. -/
def Obligations.RecordAndPoolWordsComplete : Prop :=
  RecordWordsComplete ∧ ParkedRecordsTakeFreePoolEntries

/-- R201, R202: the caravan words issue as operations in LDC; the caravan's home answers later. -/
def Sys2Proof.Claim.CaravanWordsIssue : Prop :=
  ∀ (s : State) (n : Nat) (r : Run) (d a : Reg), On s n r → r.ldc < 63 →
    let go (act : Act) : Out := .next (issued s n r { opOf s n r .ldc act with dst := d.val })
    exec (.cnew d) s = go .cnew ∧ exec (.cjoin d a) s = go (.cjoin (r.get a)) ∧ exec (.cleave d a) s = go (.cleave (r.get a)) ∧
    exec (.cfree d a) s = go (.cfree (r.get a))

/-- R141: QPOST of a packet in this module's HBM reads it at its home once the run's earlier accesses are performed; the packet
joins the VF's child queue with the poster as its parent, and the poster gains a child. The caches and the TLB take part in the
read; memory and every register stay as they are. -/
def Sys2Proof.Claim.PostingAChildPacketCompletes : Prop :=
  ∀ (s : State) (n : Nat) (r : Run) (a b : Reg) (v : Vf) (ga m : Nat) (q : Page), On s n r →
    (r.get a).toNat % 64 = 0 → getT s.vfs (r.get b).toNat = some v → v.part = partOf r.rc.inst →
    accessAddr s r (r.get a) 64 true false = .ok (ga, some q) → q.attr ≠ 1 → gaKind ga = 0 → gaModule ga = s.boot.modnum → gaLegal ga = true → s.shut ga 64 = false →
    r.ldc = 0 → r.stc = 0 → r.cpc < 63 → v.kids.length < 256 → homeRead s (partOf r.rc.inst) ga 64 = .ok m →
    let packet := { mkPacket (wordsN 8 m) (r.get b).toNat true with parent := r.rc.inst }
    let u := looked (touch s (some n) (partOf r.rc.inst) (r.get a).toNat ga false false .normal (some q)) n r (some q)
    u.mem = s.mem ∧ u.vfs = s.vfs ∧ u.cores = s.cores ∧ ∀ i, u.inst (keyOf r.rc.inst) = some i →
      exec (.qpost a b) s = .next (after ({ u with vfs := putT u.vfs (r.get b).toNat { v with kids := v.kids ++ [packet] } }.setInst
        (keyOf r.rc.inst) { i with kids := i.kids + 1 }) n { r with qread := none })

/-- R141, R201, R202: the caravan words and QPOST.
exec answers a next state, under conditions on the state and the operands alone, for each of: cnew, cjoin, cleave, cfree, qpost. -/
def Obligations.CaravanAndPostingWordsComplete : Prop :=
  CaravanWordsIssue ∧ PostingAChildPacketCompletes

/-- R205 to R207: a port with room takes the register, a port with a value gives its oldest, an accumulator
takes its new value, kind and a count of 0, and reads back its value or count; CTOK sends one token to each
listening tile and to the line count once the run's loads and stores have completed; CTWAIT takes its number
from the line count in its turn, and goes on at once where that is 0. -/
def Sys2Proof.Claim.PortAndControlLineWordsComplete : Prop :=
  ∀ (s : State) (n : Nat) (r : Run) (i : Inst) (port : Fin 16) (ac line : Fin 8) (a : Reg) (kind : AcKind), On s n r →
    s.inst (keyOf r.rc.inst) = some i →
    let occ := occOf r.rc.inst
    let f := getTD (s.core n).ports occ {}
    let ports (f : PortFile) : State := s.setCore n { s.core n with ports := putT (s.core n).ports occ f }
    ((getTD f.vs port.val []).length < 16 →
      exec (.putt port a) s = .next (after (ports { f with vs := putT f.vs port.val (getTD f.vs port.val [] ++ [r.get a]) }) n r)) ∧
    (∀ t q, getTD f.vk port.val [] = t :: q →
      exec (.takt port a) s = .next (after (ports { f with vk := putT f.vk port.val q }) n (r.set a t))) ∧
    exec (.acrst ac a kind) s = .next (after (ports { f with ac := putT f.ac ac.val { v := r.get a, n := 0, kind := kind } }) n r) ∧
    exec (.acrd ac a false) s = .next (after s n (r.set a (getTD f.ac ac.val {}).v)) ∧
    exec (.acrd ac a true) s = .next (after s n (r.set a (BitVec.ofNat 64 (getTD f.ac ac.val {}).n))) ∧
    (r.ldc = 0 → r.stc = 0 → exec (.ctok line) s = .next (after (s.setInst (keyOf r.rc.inst) { i with
      lineMsgs := i.lineMsgs ++ (lineTiles i line.val).map (fun t => (line.val, some t)) ++ [(line.val, none)] }) n r)) ∧
    (r.get a = 0 → exec (.ctwait line a) s = .next (after s n r)) ∧
    (0 < (r.get a).toNat → (r.get a).toNat ≤ 65535 → (r.get a).toNat ≤ getTD i.lines line.val 0 → r.queued = false →
      (∀ c ∈ i.ctreqs, c.line ≠ line.val ∧ c.rid ≠ r.rid) →
      exec (.ctwait line a) s = .next (after (s.setInst (keyOf r.rc.inst) { i with
        lines := putT i.lines line.val (getTD i.lines line.val 0 - (r.get a).toNat) }) n r))

/-- R206, R207: a full sink port traps with CHANNEL unless an outstanding command of the instance will drain
it; an empty source port likewise; and CTWAIT above 65,535 traps with CHANNEL. -/
def Sys2Proof.Claim.PortWordsTrapOnChannel : Prop :=
  ∀ (s : State) (n : Nat) (r : Run) (port : Fin 16) (line : Fin 8) (a : Reg), On s n r →
    let f := getTD (s.core n).ports (occOf r.rc.inst) {}
    (16 ≤ (getTD f.vs port.val []).length → namesPort s n r false port.val = false →
      exec (.putt port a) s = .next (trapped s n r 0x0B 0 port.val)) ∧
    (16 ≤ (getTD f.vs port.val []).length → namesPort s n r false port.val = true → exec (.putt port a) s = .next s) ∧
    (getTD f.vk port.val [] = [] → namesPort s n r true port.val = false →
      exec (.takt port a) s = .next (trapped s n r 0x0B 0 port.val)) ∧
    (getTD f.vk port.val [] = [] → namesPort s n r true port.val = true → exec (.takt port a) s = .next s) ∧
    (65535 < (r.get a).toNat → exec (.ctwait line a) s = .next (trapped s n r 0x0B 0 line.val))

/-- R205 to R207: the port words, and where they wait or trap.
exec answers a next state, under conditions on the state and the operands alone, for each of: putt, takt, acrst, acrd, ctok, ctwait. -/
def Obligations.PortAndControlLineWordsCompleteOrTrap : Prop :=
  PortAndControlLineWordsComplete ∧ PortWordsTrapOnChannel

/-- R280 to R283: the cache words issue as operations in CPC with the range they were given, if it is no
longer than 2^40 bytes and lies in ordinary space; otherwise they trap with ACCESS. -/
def Sys2Proof.Claim.CacheWordsIssueOrTrap : Prop :=
  ∀ (s : State) (n : Nat) (r : Run) (a b : Reg) (k : Fin 8) (w : Fin 9) (sc : Scope) (inv : Bool),
    let base := (r.get a).toNat
    let len := (r.get b).toNat
    let go (f base len w : Nat) (sc : Scope) (inv : Bool) : Out :=
      .next (issued s n r { opOf s n r .cpc (.cache f base len w sc inv) with va := BitVec.ofNat 64 base })
    (On s n r → r.cpc < 63 →
      exec (.unpin k) s = go 1 0 0 k.val .mod false ∧ exec .rcinv s = go 3 0 0 0 .mod false ∧
      (len ≤ 2 ^ 40 → (len = 0 → base + len ≤ 2 ^ 64) → (0 < len → base + len ≤ 2 ^ 57) →
        exec (.retain a b k w) s = go 0 base len (w.val * 8 + k.val) .mod false ∧
        exec (.cflush a b sc inv) s = go 2 base len 0 sc inv ∧ exec (.rcinvRange a b) s = go 4 base len 0 .mod false)) ∧
    (On s n r → 2 ^ 40 < len ∨ 2 ^ 64 < base + len ∨ (0 < len ∧ 2 ^ 57 < base + len) →
      exec (.retain a b k w) s = .next (trapped s n r 0x03 (r.get a) 0) ∧
      exec (.cflush a b sc inv) s = .next (trapped s n r 0x03 (r.get a) 0) ∧
      exec (.rcinvRange a b) s = .next (trapped s n r 0x03 (r.get a) 0))

/-- R302: a STREAM word issues if its register holds a stream address of a defined stream; SCOMMIT and SREL
wait for the run's earlier loads and stores first. -/
def Sys2Proof.Claim.StreamWordsIssue : Prop :=
  ∀ (s : State) (n : Nat) (r : Run) (d a b : Reg) (k : Fin 8) (m : Fin 7) (crest : Bool), On s n r →
    2 ^ 63 ≤ (r.get a).toNat → (s.stream (partOf r.rc.inst) (streamNo (r.get a).toNat)).isSome → r.cpc < 63 → r.ldc < 63 →
    let go (f k : Nat) (cls : Cls) (d : Nat) (arg : Word) (flag : Bool) : Out :=
      .next (issued s n r { opOf s n r cls (.stream f k arg flag) with va := r.get a, dst := d })
    exec (.sopen a k crest) s = go 0 k.val .cpc 0 (r.get a) crest ∧ exec (.sclose a) s = go 1 0 .cpc 0 (r.get a) false ∧
    (r.ldc = 0 → r.stc = 0 → exec (.scommit a) s = go 2 0 .cpc 0 (r.get a) false ∧ exec (.srel a k) s = go 3 k.val .cpc 0 (r.get a) false) ∧
    exec (.srwd a k) s = go 4 k.val .cpc 0 (r.get a) false ∧
    exec (.sqry d a k m) s = go 5 k.val .ldc d.val (BitVec.ofNat 64 m.val) false ∧
    exec (.sgate a b k true) s = go 6 k.val .cpc 0 (r.get b) true ∧ exec (.sgate a b k false) s = go 6 k.val .cpc 0 0 false

/-- R280 to R283, R302: the cache words and the STREAM words.
exec answers a next state, under conditions on the state and the operands alone, for each of: retain, unpin, cflush, rcinv, rcinvRange,
sopen, sclose, scommit, srel, srwd, sqry, sgate. -/
def Obligations.CacheAndStreamWordsIssue : Prop :=
  CacheWordsIssueOrTrap ∧ StreamWordsIssue

/-- R316, R321: an ENGINE word whose first register is a multiple of 4 from 4 to 28, whose control words are
legal and whose A-tile belongs to the instance captures its registers into a command and goes on; the
command counts in CPC, or in PNC for PLD and PDR.
exec answers a next state, under conditions on the state and the operands alone, for each of: sin, sout, cpy, red, gath, scat, pld, pldF,
pdr. -/
def Obligations.EngineWordsCaptureTheirCommand : Prop :=
  ∀ (s : State) (n : Nat) (r : Run) (i : Inst) (a x b : Reg) (port : Fin 16) (op : Fin 9) (cls : Fin 4) (flag : Bool) (side row : Nat),
    On s n r → s.inst (keyOf r.rc.inst) = some i → a.val ≠ 0 → a.val % 4 = 0 → r.cpc < 63 → r.pnc < 63 →
    let go (c : Cmd) (r' : Run) (e : Out) : Prop := c.legal = true → c.where_ i = some (side, row) →
      e = .next (after { s with sched := { s.sched with next := s.sched.next + 1 }, cmds := s.cmds ++ [{ c with pos := tkey row (0x40 + side) }] } n r')
    let c (op port : Nat) (flag : Bool) (x desc : Option Word) : Cmd := cmdOf s n r op a port flag cls.val x desc
    let cp : Run := { r with cpc := r.cpc + 1 }
    let pn : Run := { r with pnc := r.pnc + 1 }
    go (c 0 port.val flag none none) cp (exec (.sin port a cls flag) s) ∧
    go (c 1 port.val false none none) cp (exec (.sout port a cls) s) ∧
    go (c 2 0 flag (some (r.get x)) none) cp (exec (.cpy x a cls flag) s) ∧
    go (c 3 op.val false none none) cp (exec (.red a cls op) s) ∧
    go (c 4 0 flag (some (r.get x)) none) cp (exec (.gath x a cls flag) s) ∧
    go (c 5 0 flag (some (r.get x)) none) cp (exec (.scat x a cls flag) s) ∧
    go (c 6 0 false (some (r.get x)) none) pn (exec (.pld x a cls) s) ∧
    go (c 6 0 false (some (r.get x)) (some (r.get b))) pn (exec (.pldF x a b cls) s) ∧
    go (c 7 0 flag (some (r.get x)) none) pn (exec (.pdr x a cls flag) s)

/-- R343, R345: OALLOC of a size that is no size answers SVC_RANGE. One that names a lost die, or for which no run of the oasis window
is free or the page-table pages hold no mapping, answers SVC_STATE; one beyond the quota, or for which no mirror module
qualifies, OASIS_QUOTA. Any other takes granules of its die, from a start that is drawn, maps them at the lowest free run of the window, zeroes them, tells
the module of the mirror, and answers their address once that is so; no other byte of memory changes. Under `any` the die is the unlost one with the
most free quota, the lowest on a tie. Which granules a die gives and which modules qualify are free values (log entry 2). -/
def Sys2Proof.Claim.OasisAllocationCompletes : Prop :=
  ∀ (s : State) (n : Nat) (r : Run) (x : Part) (d a : Reg) (die : Fin 5) (fc mir : Bool) (k va : Nat), On s n r → r.ldc < 63 →
    s.part (partOf r.rc.inst) = some x →
    let p := partOf r.rc.inst
    let size := (r.get a).toNat
    let room (j : Nat) : Nat := s.oquota p j - s.oused p j
    let answers (code : Nat) : Out := .next (issuedValue s n r d (BitVec.ofNat 64 (0xFFFFFFFFFFFF0000 + code)))
    let go : Out := exec (.oalloc d a die fc mir) s
    (size = 0 ∨ 2 ^ 36 < size → go = answers 5) ∧
    (die.val = 4 → (∀ j < 4, s.dieLost j = true) → 0 < size → size ≤ 2 ^ 36 → go = answers 6) ∧
    ((die.val < 4 → k = die.val) → (die.val = 4 → k < 4 ∧ s.dieLost k = false ∧ (∀ j < 4, s.dieLost j = false → room j ≤ room k) ∧
        ∀ j < k, s.dieLost j = false → room j < room k) →
      0 < size → size ≤ 2 ^ 36 →
      let m : Option Nat := if mir then (pickMirror s).1 else none
      let w : State := if mir then (pickMirror s).2 else s
      let g := (size + 2 ^ 21 - 1) / 2 ^ 21
      let gas := freeGranules s k (Config.freeNat w.sched.free % 32768) g
      let pages : List Page := (List.range g).map fun i =>
        { va := va + i * 2 ^ 21, size := 2 ^ 21, ga := gas.getD i 0, attr := if fc then 2 else 0, r := true, w := true }
      (windowRun x (g * 2 ^ 21) = none → go = answers 6) ∧
      (windowRun x (g * 2 ^ 21) = some va →
        (s.dieLost k = true ∨ x.canMap va (g * 2 ^ 21) pages = false → go = answers 6) ∧
        (s.dieLost k = false → x.canMap va (g * 2 ^ 21) pages = true →
          (s.oquota p k < s.oused p k + g ∨ (mir = true ∧ m = none) → go = answers 8) ∧
          (s.oused p k + g ≤ s.oquota p k → (mir = true → m ≠ none) →
            let u : State := { w with
              sched := { w.sched with free := w.sched.free + 1 }
              parts := putT s.parts p { x with pages := x.pages ++ pages }
              oasis := { s.oasis with allocs := s.oasis.allocs ++ [{ part := p, die := k, gas := gas, va := va, copies := s.boot.modnum :: m.toList }] } }
            let v : State := match m with
              | none => u
              | some m => u.sendLater m k p (memTag m k) (.mirror gas true)
            go = .next (issuedValue { v with
              mem := zeroGranules gas s.mem, bad := s.bad.filter fun b => !gas.contains (granuleOf b) } n r d (BitVec.ofNat 64 va))))))

/-- R342, R343, R345: the granules that an allocation takes are as many as it asks for, as long as its die has them, all different, granules of that
die of this module, and no other allocation's; once zeroed, every byte of theirs is unlisted, so reads as 0, and every other byte is as before.
A module that takes a mirror is another one of the pod. -/
def Sys2Proof.Claim.AllocatedGranulesAreFree : Prop :=
  ∀ (s : State) (die start n : Nat),
    let gas := freeGranules s die start n
    let grain (j : Nat) : Nat := s.boot.modnum * 2 ^ 50 + 2 ^ 46 + die * 2 ^ 36 + j * 2 ^ 21
    gas.Nodup ∧ (∀ g ∈ gas, (∃ j < 32768, g = grain j) ∧ ∀ a ∈ s.oasis.allocs, g ∉ a.gas) ∧ gas.length ≤ n ∧
    (n ≤ ((List.range 32768).filter fun j => !s.oasis.allocs.any fun a => a.gas.contains (grain j)).length → gas.length = n) ∧
    (∀ c, c ∈ zeroGranules gas s.mem ↔ c ∈ s.mem ∧ granuleOf c.1 ∉ gas) ∧
    (∀ m, (pickMirror s).1 = some m → m ∈ s.pod ∧ m ≠ s.boot.modnum) ∧
    (pickMirror s).2 = { s with sched := { s.sched with free := s.sched.free + 1 } }

/-- R331, R346: OFREE of an address that is no allocation's answers SVC_RANGE, one that a defined stream uses SVC_STATE. Any other removes every
mapping of the allocation at once, remembers their ranges for the invalidation, asks every other module of the pod within reach to unmap its granules, and
answers 0 when that is complete; no byte of memory changes (what INVALIDATION_COMPLETE then does: `AccessesArePerformedAndComplete`). -/
def Sys2Proof.Claim.OasisFreeCompletes : Prop :=
  ∀ (s : State) (n : Nat) (r : Run) (x : Part) (d a : Reg) (al : OAlloc), On s n r → r.ldc < 63 → s.part (partOf r.rc.inst) = some x →
    let p := partOf r.rc.inst
    let va := (r.get a).toNat
    let overlaps (g lo n : Nat) : Bool := decide (g < lo + n) && decide (lo < g + 2 ^ 21)
    let cut (q : Page) : Bool := al.gas.any fun g => overlaps g q.ga q.size
    let used : Prop := ∃ w ∈ x.streams, w.2.bk = 2 ∧ ∃ g ∈ al.gas, overlaps g w.2.fbase (w.2.w * 2 ^ w.2.f) = true
    (s.allocAt p va = none → exec (.ofree d a) s = .next (issuedValue s n r d 0xFFFFFFFFFFFF0005)) ∧
    (s.allocAt p va = some al → used → exec (.ofree d a) s = .next (issuedValue s n r d 0xFFFFFFFFFFFF0006)) ∧
    (s.allocAt p va = some al → ¬used →
      let others := s.pod.filter fun m => decide (m ≠ s.boot.modnum) && !s.moduleLost m
      let u : State := others.foldl (fun u m => al.gas.foldl (fun u g => u.sendLater m al.die p (memTag m al.die) (.unmap g (2 ^ 21))) u)
        { s with parts := putT s.parts p { x with pages := x.pages.filter fun q => !cut q } }
      let marked : List OAlloc := updFirst (fun b => decide (b.part = p) && decide (b.va = va) && !b.freeing)
        (fun b => { b with freeing := true, cut := (x.pages.filter cut).map fun q => (q.va, q.size) }) s.oasis.allocs
      exec (.ofree d a) s = .next (issued { u with oasis := { s.oasis with allocs := marked } } n r
        { opOf u n r .ldc (.value 0) with dst := d.val, va := BitVec.ofNat 64 va, ga := al.gas.length * 2 ^ 21, st := .waiting }))

/-- R345, R346: OALLOC and OFREE.
exec answers a next state, under conditions on the state and the operands alone, for each of: oalloc, ofree. -/
def Obligations.OasisWordsComplete : Prop :=
  OasisAllocationCompletes ∧ AllocatedGranulesAreFree ∧ OasisFreeCompletes

/-- R218: the scalar arithmetic words write s[d] from the registers as they stood before the word; the firing
goes on at the next word. -/
def Sys2Proof.Claim.ScalarArithmeticWordsComplete : Prop :=
  ∀ (s : State) (k tk : Nat) (i : Inst) (t : Tile) (f : Firing) (d a b : SReg) (imm : BitVec 10), Fires s k tk i t f →
    let x := t.s[a]
    let y := t.s[b]
    let n := y.toNat % 64
    let goes (v : Word) : Out := .next (fired s k tk i { t with s := t.s.set d v } f)
    exec .sNop s = .next (fired s k tk i t f) ∧
    exec (.sAdd d a b) s = goes (x + y) ∧ exec (.sSub d a b) s = goes (x - y) ∧ exec (.sAnd d a b) s = goes (x &&& y) ∧
    exec (.sOr d a b) s = goes (x ||| y) ∧ exec (.sXor d a b) s = goes (x ^^^ y) ∧ exec (.sShl d a b) s = goes (x <<< n) ∧
    exec (.sShr d a b) s = goes (x >>> n) ∧ exec (.sSar d a b) s = goes (x.sshiftRight n) ∧ exec (.sMul d a b) s = goes (x * y) ∧
    exec (.sMin d a b) s = goes (if y.toInt < x.toInt then y else x) ∧ exec (.sMax d a b) s = goes (if x.toInt < y.toInt then y else x) ∧
    exec (.sAddi d a imm) s = goes (x + BitVec.ofInt 64 imm.toInt) ∧ exec (.movi d imm) s = goes (BitVec.ofInt 64 imm.toInt) ∧
    exec (.mov d a) s = goes x

/-- R219: comparisons and combinations of predicates write q[d], which is not q0. -/
def Sys2Proof.Claim.PredicateWordsComplete : Prop :=
  ∀ (s : State) (k tk : Nat) (i : Inst) (t : Tile) (f : Firing) (d p q : QReg) (a b : SReg) (ca cb : Bool), Fires s k tk i t f → d.val ≠ 0 →
    let x := t.s[a]
    let y := t.s[b]
    let goes (v : Bool) : Out := .next (fired s k tk i { t with q := t.q.set d v } f)
    exec (.cmpeq d a b) s = goes (decide (x = y)) ∧ exec (.cmplt d a b) s = goes (decide (x.toInt < y.toInt)) ∧
    exec (.cmpltu d a b) s = goes (decide (x.toNat < y.toNat)) ∧
    exec (.qand d p q ca cb) s = goes ((qOf t p ^^ ca) && (qOf t q ^^ cb)) ∧
    exec (.qor d p q ca cb) s = goes ((qOf t p ^^ ca) || (qOf t q ^^ cb))

/-- R164, R222: LOOP counts its register down and goes back while it is not 0, BRF always goes, both inside the
program of the slot; FIN ends the firing, and the slot is the one that fired last. -/
def Sys2Proof.Claim.FiringControlWordsComplete : Prop :=
  ∀ (s : State) (k tk : Nat) (i : Inst) (t : Tile) (f : Firing) (a : SReg) (imm : BitVec 10), Fires s k tk i t f →
    let e := i.img.slotEntry tk f.slot
    let n := i.img.slotLen tk f.slot
    let target : Int := (f.pc : Int) + 1 + imm.toInt
    let x := t.s[a] - 1
    let t' : Tile := { t with s := t.s.set a x }
    ((e : Int) ≤ target → target < (e : Int) + n →
      exec (.brf imm) s = .next (firedTo s k tk i t f target.toNat) ∧
      (x ≠ 0 → exec (.loop a imm) s = .next (firedTo s k tk i t' f target.toNat))) ∧
    (x = 0 → exec (.loop a imm) s = .next (fired s k tk i t' f)) ∧
    exec .fin s = .next (s.setInst k
      (i.setTile tk { t with firing := none, lastSlot := some f.slot }))

/-- R160, R220, R227: a word that takes a token of an input of its slot, below the port's RATE, consumes the
oldest one, counts it, and sends one request upstream; a peek leaves it; DROP discards it. TAKE and PEEK write
the lanes that the mask governs, and the .m forms also the burst mark. -/
def Sys2Proof.Claim.TakingWordsComplete : Prop :=
  ∀ (s : State) (k tk : Nat) (i : Inst) (t : Tile) (f : Firing) (d : SReg) (z : VReg) (m : MReg) (port : Fin 8) (wide : Fin 4) (p : Nat)
    (x : Tok) (q : List Tok), Fires s k tk i t f → t.acted = false → getTD t.fifo p [] = x :: q →
    let e := i.img.ep tk p
    let ch := epCh e
    epV e = true → epSlot e = f.slot → i.img.unitPort tk p = false → getTD f.taken p 0 < epRate e →
    let f' : Firing := { f with taken := putT f.taken p (getTD f.taken p 0 + 1) }
    let l := getTD i.links ch {}
    let took (t' : Tile) : Out := .next (fired s k tk { i with links := putT i.links ch { l with req := l.req + 1 } } { t' with fifo := putT t.fifo p q } f')
    let saw (t' : Tile) : Out := .next (fired s k tk i t' f)
    let v := lanesTo t z m fun j => x.lanes[j]
    (p = 8 + port.val → exec (.takes d port) s = took { t with s := t.s.set d x.word } ∧ exec (.peeks d port) s = saw { t with s := t.s.set d x.word }) ∧
    (p = wide.val →
      exec (.take z wide m) s = took v ∧ exec (.takeMark z wide d m) s = took { v with s := t.s.set d (BitVec.ofNat 64 x.mark) } ∧
      exec (.peek z wide m) s = saw v ∧ exec (.peekMark z wide d m) s = saw { v with s := t.s.set d (BitVec.ofNat 64 x.mark) } ∧
      exec (.drop wide) s = took t)

/-- R160, R220, R227: a word that puts a token on an output of its slot, below the port's RATE and against
demand, takes one from the demand and sends the token with its tag or its burst mark; lanes that the mask does
not govern are +0. -/
def Sys2Proof.Claim.PuttingWordsComplete : Prop :=
  ∀ (s : State) (k tk : Nat) (i : Inst) (t : Tile) (f : Firing) (a b : SReg) (z : VReg) (m : MReg) (port : Fin 8) (wide : Fin 4) (p : Nat),
    Fires s k tk i t f → 0 < getTD t.demand p 0 →
    let e := i.img.ep tk p
    let ch := epCh e
    epV e = true → epSlot e = f.slot → i.img.unitPort tk p = false → (epRate e = 0 ∨ getTD f.puts p 0 < epRate e) →
    let f' : Firing := { f with puts := putT f.puts p (getTD f.puts p 0 + 1) }
    let l := getTD i.links ch {}
    let sent (x : Tok) : Out := .next (fired s k tk { i with links := putT i.links ch { l with fwd := l.fwd ++ [.tok x] } }
      { t with demand := putT t.demand p (getTD t.demand p 0 - 1) } f')
    let v : Lanes := Vector.ofFn fun j => if mOf t m j.val then vOf t z j else 0
    (p = 16 + port.val → exec (.puts port a) s = sent (.narrow t.s[a] 0) ∧
      exec (.putr port a b) s = sent (.narrow t.s[a] ((t.s[b]).toNat % 4096))) ∧
    (p = 4 + wide.val → exec (.put wide z m) s = sent (.wide v 0) ∧ exec (.puth wide z m false) s = sent (.wide v 1) ∧
      exec (.puth wide z m true) s = sent (.wide v 3) ∧ exec (.pute wide z m) s = sent (.wide v 2))

/-- R160: a port word beyond its port's RATE, or of a port that is not its slot's, freezes the tile with
CHANNEL and the port number; one without a token or without demand waits and changes nothing. -/
def Sys2Proof.Claim.PortRulesOfFirings : Prop :=
  ∀ (s : State) (k tk : Nat) (i : Inst) (t : Tile) (f : Firing) (d a : SReg) (port : Fin 8) (x : Part), Fires s k tk i t f →
    s.part (k / 8) = some x → bit x.fmask 0x0B = false →
    let frozen (p : Nat) (e : Out) : Prop := ∃ u t', e = .next u ∧ (∃ j, u.inst k = some j ∧ getT j.tiles tk = some t') ∧
      t'.firing = none ∧ ∃ fr, t'.frozen = some fr ∧ fr.code = 0x0B ∧ fr.detail = p ∧ fr.frozen = true
    let own (p : Nat) : Prop := epV (i.img.ep tk p) = true ∧ epSlot (i.img.ep tk p) = f.slot ∧ i.img.unitPort tk p = false
    (¬own (8 + port.val) → frozen (8 + port.val) (exec (.takes d port) s)) ∧
    (epRate (i.img.ep tk (8 + port.val)) ≤ getTD f.taken (8 + port.val) 0 → frozen (8 + port.val) (exec (.takes d port) s)) ∧
    (own (8 + port.val) → getTD f.taken (8 + port.val) 0 < epRate (i.img.ep tk (8 + port.val)) → getTD t.fifo (8 + port.val) [] = [] →
      exec (.takes d port) s = .next s) ∧
    (¬own (16 + port.val) → frozen (16 + port.val) (exec (.puts port a) s)) ∧
    (own (16 + port.val) → epRate (i.img.ep tk (16 + port.val)) = 0 → getTD t.demand (16 + port.val) 0 = 0 →
      i.fbActed (epCh (i.img.ep tk (16 + port.val))) = none → exec (.puts port a) s = .next s)

/-- R160, R220, R227: words that take and put tokens, and where they wait or freeze their tile.
exec answers a next state, under conditions on the state and the operands alone, for each of: takes, peeks, take, takeMark, peek, peekMark,
drop, puts, putr, put, puth, pute. -/
def Obligations.TilePortWordsCompleteWaitOrFreeze : Prop :=
  TakingWordsComplete ∧ PuttingWordsComplete ∧ PortRulesOfFirings

/-- R167, R221, R225, R242: CNTR reads a chain's index times its stride; CADV steps the chain, which carries
outward; LIMW and LIMR move the tile's limit; GETPREC reads PREC, the cursor and the panel table. -/
def Sys2Proof.Claim.CounterLimitAndStatusWordsComplete : Prop :=
  ∀ (s : State) (k tk : Nat) (i : Inst) (t : Tile) (f : Firing) (d a : SReg) (c : Fin 4) (lv : Fin 6), Fires s k tk i t f →
    let goes (v : Word) : Out := .next (fired s k tk i { t with s := t.s.set d v } f)
    let ch := getTD t.chains c.val {}
    exec (.cntr d c lv) s = goes (BitVec.ofInt 64 ((ch.idx.getD lv.val 0 : Nat) * i.img.stride tk c.val lv.val)) ∧
    (ch.running = true → lv.val < i.img.nlev tk c.val → (ch.full (i.img.nlev tk c.val)).getD lv.val 0 + 1 < i.img.count tk c.val lv.val →
      exec (.cadv c lv) s = .next (fired s k tk i { t with chains := putT t.chains c.val { ch with
        idx := ((ch.full (i.img.nlev tk c.val)).mapIdx fun j n => if j < lv.val then 0 else n).set lv.val ((ch.full (i.img.nlev tk c.val)).getD lv.val 0 + 1) } } f)) ∧
    (ch.running = false → exec (.cadv c lv) s = .next (fired s k tk i { t with chains := putT t.chains c.val ch } f)) ∧
    exec (.limw a) s = .next (fired s k tk i { t with limit := (t.s[a]).toNat % 2 ^ 32 } f) ∧
    exec (.limr d) s = goes (BitVec.ofNat 64 t.limit) ∧
    exec (.getprec d 0) s = goes (BitVec.ofNat 64 t.prec) ∧ exec (.getprec d 1) s = goes (BitVec.ofNat 64 t.cursor.word) ∧
    exec (.getprec d 2) s = goes (BitVec.ofNat 64 t.panelTable)

/-- R164, R167, R218, R219, R221, R222, R225, R242: the scalar slot beside its ports and its memory.
exec answers a next state, under conditions on the state and the operands alone, for each of: sNop, sAdd, sSub, sAnd, sOr, sXor, sShl, sShr,
sSar, sMul, sMin, sMax, sAddi, movi, mov, cmpeq, cmplt, cmpltu, qand, qor, loop, brf, fin, cntr, cadv, getprec, limw, limr. -/
def Obligations.ScalarSlotWordsComplete : Prop :=
  ScalarArithmeticWordsComplete ∧ PredicateWordsComplete ∧ FiringControlWordsComplete ∧ CounterLimitAndStatusWordsComplete

/-- R223, R224: LDL reads the aligned SRAM word at its address; STL and ATOM write it, wake a monitor on it,
and leave every other byte of the tile's SRAM as it was. ATOM also writes the old value to s[d]. A misaligned
address freezes the tile with ALIGN, and so, with ACCESS, does a load of a word of an SRAM sector in error (R269; that any word of the sector faults is the model's choice, log entry 44). -/
def Sys2Proof.Claim.ScalarSramWordsComplete : Prop :=
  ∀ (s : State) (k tk : Nat) (i : Inst) (t : Tile) (f : Firing) (x : Part) (d a b : SReg) (imm : BitVec 10) (op : AtomOp) (at_ : Nat),
    Fires s k tk i t f → s.mons = [] → memWf t.sram = true → s.part (k / 8) = some x → bit x.fmask 0x02 = false → t.bad = [] →
    let ok : Prop := at_ % 8 = 0 ∧ at_ < 2 ^ 20 ∧ (i.img.bankUse tk (at_ / 2 ^ 16) = 0 ∨ i.img.bankUse tk (at_ / 2 ^ 16) = 3)
    let old := memRead t.sram at_ 8
    let wrote (t' : Tile) (v : Word) (e : Out) : Prop := ∃ m, e = .next (fired s k tk i { t' with sram := m } f) ∧
      memGets m at_ 8 = toBytes 8 v.toNat ∧ (∀ c, (c < at_ ∨ at_ + 8 ≤ c) → memGet m c = memGet t.sram c) ∧ memWf m = true
    (at_ = (t.s[a] + BitVec.ofInt 64 (imm.toInt * 8)).toNat →
      (ok → exec (.ldl d a imm) s = .next (fired s k tk i { t with s := t.s.set d (BitVec.ofNat 64 old) } f) ∧
        wrote t t.s[b] (exec (.stl a b imm) s)) ∧
      (at_ % 8 ≠ 0 → ∃ u j t' fr, exec (.stl a b imm) s = .next u ∧ u.inst k = some j ∧ getT j.tiles tk = some t' ∧
        t'.sram = t.sram ∧ t'.frozen = some fr ∧ fr.code = 0x02) ∧
      (∀ b l, ok → b ∈ l → b / 128 = at_ / 128 → bit x.fmask 0x03 = false →
        ∃ u j t' fr, exec (.ldl d a imm) (s.setInst k (i.setTile tk { t with bad := l })) = .next u ∧ u.inst k = some j ∧ getT j.tiles tk = some t' ∧
          t'.s = t.s ∧ t'.frozen = some fr ∧ fr.code = 0x03)) ∧
    (at_ = (t.s[a]).toNat → ok →
      (∀ v, atomNew op (BitVec.ofNat 64 old) t.s[b] t.s[d] = some v →
        wrote { t with s := t.s.set d (BitVec.ofNat 64 old) } v (exec (.sAtom d a b op) s)) ∧
      (atomNew op (BitVec.ofNat 64 old) t.s[b] t.s[d] = none →
        exec (.sAtom d a b op) s = .next (fired s k tk i { t with s := t.s.set d (BitVec.ofNat 64 old) } f)))

/-- R368: what each read-modify-write makes of the old value, its operand and its expected value. A
compare-and-swap that finds another value writes nothing. AFADD adds in the low half and keeps the high one. -/
def Sys2Proof.Claim.ReadModifyWriteValues : Prop :=
  ∀ (m b d : Word),
    atomNew .add m b d = some (m + b) ∧ atomNew .and m b d = some (m &&& b) ∧ atomNew .or m b d = some (m ||| b) ∧
    atomNew .xor m b d = some (m ^^^ b) ∧ atomNew .min m b d = some (if m.toInt < b.toInt then m else b) ∧
    atomNew .max m b d = some (if m.toInt < b.toInt then b else m) ∧ atomNew .minu m b d = some (if m.toNat < b.toNat then m else b) ∧
    atomNew .maxu m b d = some (if m.toNat < b.toNat then b else m) ∧ atomNew .swp m b d = some b ∧
    atomNew .cas m b d = (if m = d then some b else none) ∧
    ∃ v, atomNew .fadd m b d = some v ∧ (f32Add m.toNat b.toNat < 2 ^ 32 → v.toNat / 2 ^ 32 = m.toNat / 2 ^ 32 ∧ v.toNat % 2 ^ 32 = f32Add m.toNat b.toNat)

/-- R223, R224, R368: the scalar slot on its SRAM, and the values of read-modify-writes.
exec answers a next state, under conditions on the state and the operands alone, for each of: ldl, stl, sAtom. -/
def Obligations.ScalarMemoryWordsComplete : Prop :=
  ScalarSramWordsComplete ∧ ReadModifyWriteValues

/-- R229 to R236: a lane word writes the governed lanes of v[d] and leaves the others; each lane is the rule's
function of the lanes of its operands as they stood before the word. -/
def Sys2Proof.Claim.VectorLaneWordsComplete : Prop :=
  ∀ (s : State) (k tk : Nat) (i : Inst) (t : Tile) (f : Firing) (d a b c : VReg) (m : MReg) (r : Rnd) (fm : Fin 32) (g : SReg),
    Fires s k tk i t f →
    let x (j : Fin 64) : FW := vOf t a j
    let y (j : Fin 64) : FW := vOf t b j
    let z (j : Fin 64) : FW := vOf t c j
    let goes (h : Fin 64 → FW) : Out := .next (fired s k tk i (lanesTo t d m h) f)
    exec .vnop s = .next (fired s k tk i t f) ∧
    exec (.vmov d a m) s = goes x ∧ exec (.vbc d g m) s = goes (fun _ => BitVec.ofNat 48 (t.s[g]).toNat) ∧
    exec (.vadd d a b m r) s = goes (fun j => fwAdd r (x j) (y j)) ∧ exec (.vsub d a b m r) s = goes (fun j => fwSub r (x j) (y j)) ∧
    exec (.vmul d a b m r) s = goes (fun j => fwMul r (x j) (y j)) ∧
    exec (.vfma d a b c m r) s = goes (fun j => fwFma r false (x j) (y j) (z j)) ∧
    exec (.vfms d a b c m r) s = goes (fun j => fwFma r true (x j) (y j) (z j)) ∧
    exec (.vmax d a b m r) s = goes (fun j => fwMax (x j) (y j)) ∧ exec (.vmin d a b m r) s = goes (fun j => fwMin (x j) (y j)) ∧
    exec (.vabs d a m r) s = goes (fun j => fwAbs (x j)) ∧ exec (.vneg d a m r) s = goes (fun j => fwNeg (x j)) ∧
    exec (.vcps d a b m r) s = goes (fun j => fwCps (x j) (y j)) ∧
    exec (.vexp2 d a m r) s = goes (fun j => fwExp2 r (x j)) ∧ exec (.vlog2 d a m r) s = goes (fun j => fwLog2 r (x j)) ∧
    exec (.vrcp d a m r) s = goes (fun j => fwRcp r (x j)) ∧ exec (.vrsq d a m r) s = goes (fun j => fwRsq r (x j)) ∧
    exec (.vcvt d a fm m r) s = goes (fun j => roundTrip fm.val (.det r) (x j)) ∧
    exec (.vsrnd d a b fm m) s = goes (fun j => roundTrip fm.val (.sr ((y j).toNat % 2 ^ 32)) (x j)) ∧
    exec (.vftoi d a m r) s = goes (fun j => fwToInt r (x j)) ∧ exec (.vitof d a m r) s = goes (fun j => intToFW r (x j)) ∧
    exec (.viadd d a b m) s = goes (fun j => x j + y j) ∧ exec (.vimul d a b m) s = goes (fun j => x j * y j) ∧
    exec (.vand d a b m) s = goes (fun j => x j &&& y j) ∧ exec (.vor d a b m) s = goes (fun j => x j ||| y j) ∧
    exec (.vxor d a b m) s = goes (fun j => x j ^^^ y j) ∧
    exec (.vperm d a b m) s = goes (fun j => x (Fin.ofNat 64 (y j).toNat)) ∧
    exec (.vrot d a g m) s = goes (fun j => x (Fin.ofNat 64 (j.val + (t.s[g]).toNat)))

/-- R234, R235, R349: VSEL picks each lane of one operand or the other; VCMP sets a mask's bits where the mask
governs and the condition holds; VRED leaves the reduction of the governed lanes in every lane; VMRG writes the
merge of two pairs to a pair. -/
def Sys2Proof.Claim.VectorSelectCompareReduceMergeComplete : Prop :=
  ∀ (s : State) (k tk : Nat) (i : Inst) (t : Tile) (f : Firing) (d a b : VReg) (m : MReg) (dm : MReg) (c : Fin 7) (op : Fin 6)
    (pd pa pb : Fin 16), Fires s k tk i t f → dm.val ≠ 0 →
    exec (.vsel d a b m) s = .next (fired s k tk i { t with v := putT t.v d.val (Vector.ofFn fun j => if mOf t m j.val then vOf t a j else vOf t b j) } f) ∧
    (∃ w : Word, exec (.vcmp dm a b m c) s = .next (fired s k tk i { t with m := t.m.set dm w } f) ∧
      ∀ j : Fin 64, w.getLsbD j.val = (mOf t m j.val && laneCond c.val (vOf t a j) (vOf t b j))) ∧
    (∃ w, exec (.vred d a m op) s = .next (fired s k tk i { t with v := putT t.v d.val (Vector.replicate 64 w) } f) ∧
      w = redTree (redOp op.val).1 ((List.range 64).map fun j => if h : j < 64 then (if mOf t m j then vOf t a ⟨j, h⟩ else (redOp op.val).2) else 0)) ∧
    (let v (n : Nat) : Lanes := getTD t.v n zeroLanes
     let o := mergeTriple (v (2 * pa.val)) (v (2 * pa.val + 1)) (v (2 * pb.val)) (v (2 * pb.val + 1))
     exec (.vmrg pd pa pb) s = .next (fired s k tk i { t with v := putT (putT t.v (2 * pd.val) o.1) (2 * pd.val + 1) o.2 } f))

/-- R228 to R236, R349: the vector slot on its registers.
exec answers a next state, under conditions on the state and the operands alone, for each of: vnop, vmov, vbc, vadd, vsub, vmul, vfma, vfms,
vmax, vmin, vabs, vneg, vcps, vexp2, vlog2, vrcp, vrsq, vcvt, vsrnd, vftoi, vitof, viadd, vimul, vand, vor, vxor, vperm, vrot, vcmp, vsel,
vred, vmrg. -/
def Obligations.VectorRegisterWordsComplete : Prop :=
  VectorLaneWordsComplete ∧ VectorSelectCompareReduceMergeComplete

/-- R237: VLD and VGATH read the SRAM word of each governed lane, and VST writes them in lane order, leaving
every other byte; every address is checked first, and a bad one of a governed lane freezes the tile and has no
other effect.
exec answers a next state, under conditions on the state and the operands alone, for each of: vld, vst, vgath. -/
def Obligations.VectorSramWordsComplete : Prop :=
  ∀ (s : State) (k tk : Nat) (i : Inst) (t : Tile) (f : Firing) (d b : VReg) (m : MReg) (g : SReg),
    Fires s k tk i t f → s.mons = [] → memWf t.sram = true → t.bad = [] →
    let ok (a : Nat) : Prop := a % 8 = 0 ∧ a < 2 ^ 20 ∧ i.img.bankUse tk (a / 2 ^ 16) % 3 = 0
    let row (j : Nat) : Nat := ((t.s[g]).toNat + 8 * j) % 2 ^ 64
    let gath (j : Fin 64) : Nat := ((t.s[g]).toNat + 8 * (vOf t b j).toNat) % 2 ^ 64
    ((∀ j < 64, mOf t m j = true → ok (row j)) →
      exec (.vld d g m) s = .next (fired s k tk i (lanesTo t d m fun j => BitVec.ofNat 48 (memRead t.sram (row j.val) 8)) f) ∧
      ∃ mem, exec (.vst g b m) s = .next (fired s k tk i { t with sram := mem } f) ∧ memWf mem = true ∧
        (∀ j : Fin 64, mOf t m j.val = true → memGets mem (row j.val) 8 = toBytes 8 (vOf t b j).toNat) ∧
        ∀ c, (∀ j < 64, mOf t m j = true → c < row j ∨ row j + 8 ≤ c) → memGet mem c = memGet t.sram c) ∧
    ((∀ j : Fin 64, mOf t m j.val = true → ok (gath j)) →
      exec (.vgath d g b m) s = .next (fired s k tk i (lanesTo t d m fun j => BitVec.ofNat 48 (memRead t.sram (gath j) 8)) f)) ∧
    (∀ x, s.part (k / 8) = some x → bit x.fmask 0x02 = false → (∀ j < 64, row j % 8 ≠ 0) → mOf t m 0 = true →
      ∃ u j t' fr, exec (.vst g b m) s = .next u ∧ u.inst k = some j ∧ getT j.tiles tk = some t' ∧ t'.sram = t.sram ∧ t'.v = t.v ∧
        t'.frozen = some fr ∧ fr.code = 0x02)

/-- R215, R242, R252 to R254, R256 to R260: a matrix word whose operands pass their checks first enters its operation into the tile's issue
point, once, behind the follow-ons that a freeze has held back, and the firing waits while the array has it to do; once the array is done with it, the operation leaves the issue point, takes its
effect in the tile, and the firing goes on. -/
def Sys2Proof.Claim.MatrixWordsEnterTheIssuePointThenGoOn : Prop :=
  ∀ (s : State) (k tk : Nat) (i : Inst) (t : Tile) (f : Firing) (z : Fin 4) (a b : Fin 8) (aScr bScr : Bool) (d : VReg) (g : SReg) (m : MReg) (l : List MEntry) (sum : Option (Tab Cell)),
    Runs s k tk i t f →
    let opd (scr : Bool) (n : Nat) : MOpd := if scr then .scratch (t.s.toList.getD (2 * n) 0) (t.s.toList.getD (2 * n + 1) 0) else .panel n
    let legal (o : MOpd) : Prop := View.scratchBad ⟨k, tk, i, t, f, s.boot.modnum⟩ o = none
    let mask : Word := if m.val = 0 then BitVec.allOnes 64 else t.m[m]
    let word (x : Instr) (o : MOp) : Prop :=
      (f.ops = 0 → t.ahead ≠ 0 → exec x s = .next s) ∧
      (f.ops = 0 → t.ahead = 0 → f.seen = [] → exec x s = .next (s.setInst k (i.setTile tk { t with
        mq := t.mq ++ [{ op := o }], firing := some { f with ops := 1, seen := [t.prec, t.cursor.word, t.panelTable] } }))) ∧
      (f.ops = 1 → (∃ e ∈ t.mq, e.firing = true ∧ e.ended = false) → exec x s = .next s) ∧
      (f.ops = 1 → t.mq = { op := o, started := true, ended := true, sum := sum } :: l → (∀ e ∈ l, e.firing = false) →
        exec x s = .next (fired s k tk i (o.finish sum { t with mq := l }) f))
    (legal (opd aScr a.val) → legal (opd bScr b.val) → word (.mma z a b aScr bScr) (.mma z.val (opd aScr a.val) (opd bScr b.val))) ∧
    word (.mz z) (.mz z.val) ∧
    word (.mrd d z g m) (.mrd d.val z.val ((t.s[g]).toNat % 64) mask false) ∧ word (.mrdStatus d z g m) (.mrd d.val z.val ((t.s[g]).toNat % 64) mask true) ∧
    word (.manch z g) (.manch z.val t.s[g] false) ∧ word (.manchPreset z g) (.manch z.val t.s[g] true) ∧
    (precLegal (t.s[g]).toNat = true → word (.setprec g) (.setprec t.s[g]))

/-- R257: MMAS takes its list of coordinates from a narrow token of its slot: legal coordinates enter the issue
point; once the array is done with the operation, it takes its effect, the token is consumed and the firing goes on. -/
def Sys2Proof.Claim.SparseMatrixWordCompletes : Prop :=
  ∀ (s : State) (k tk : Nat) (i : Inst) (t : Tile) (f : Firing) (z : Fin 4) (a b : Fin 8) (port : Fin 32) (x : Tok) (q : List Tok) (l : List MEntry) (sum : Option (Tab Cell)),
    Runs s k tk i t f → t.acted = false → 8 ≤ port.val → port.val < 16 → getTD t.fifo port.val [] = x :: q →
    let e := i.img.ep tk port.val
    let ch := epCh e
    let o : MOp := .mmas z.val a.val b.val x.word
    epV e = true → epSlot e = f.slot → i.img.unitPort tk port.val = false → getTD f.taken port.val 0 < epRate e →
    (sparse t.cursor (toBytes 8 x.word.toNat)).isSome →
    (f.ops = 0 → t.ahead = 0 → f.seen = [] → exec (.mmas z a b port) s = .next (s.setInst k (i.setTile tk
      { t with mq := t.mq ++ [{ op := o }], firing := some { f with ops := 1, seen := [t.prec, t.cursor.word, t.panelTable] } }))) ∧
    (f.ops = 1 → t.mq = { op := o, started := true, ended := true, sum := sum } :: l → (∀ e ∈ l, e.firing = false) →
      let t' : Tile := { t with mq := l }
      exec (.mmas z a b port) s = .next (fired s k tk
        { i with links := putT i.links ch { getTD i.links ch {} with req := (getTD i.links ch {}).req + 1 } }
        { o.finish sum t' with fifo := putT t.fifo port.val q } { f with taken := putT f.taken port.val (getTD f.taken port.val 0 + 1) }))

/-- R242, R252, R253, R257: the words that enter an operation at the matrix issue point.
exec answers a next state, under conditions on the state and the operands alone, for each of: setprec, mma, mz, mrd, mrdStatus, manch,
manchPreset, mmas. -/
def Obligations.MatrixWordsEnterAndComplete : Prop :=
  MatrixWordsEnterTheIssuePointThenGoOn ∧ SparseMatrixWordCompletes

/-- R249, R261 to R263: PFILL writes the governed lanes of a row of a slot that no engine fills and no operation
reads, and the slot counts the rows filled since its fill began; PREL empties a slot; PEMIT of a READY slot sends its rows one by one against demand, the last with the
burst's end mark, and the slot drains meanwhile. -/
def Sys2Proof.Claim.PanelWordsComplete : Prop :=
  ∀ (s : State) (k tk : Nat) (i : Inst) (t : Tile) (f : Firing) (p : Fin 8) (a : VReg) (g : SReg) (m : MReg) (port : Fin 32) (row : Lanes),
    Runs s k tk i t f → f.ops = 0 →
    (f.seen = [] → (t.panel p.val).st ≠ .fillE → (t.panel p.val).st ≠ .draining →
      exec (.pfill p a g m) s = .next (fired s k tk i (t.setPanel p.val ((t.panel p.val).fillRow ((t.s[g]).toNat % 64) (getTD t.v a.val zeroLanes)
        (if m.val = 0 then BitVec.allOnes 64 else t.m[m]))) f) ∧
      exec (.prel p) s = .next (fired s k tk i (t.setPanel p.val { t.panel p.val with st := .empty, cnt := 0 }) f)) ∧
    (let e := i.img.ep tk port.val
     let ch := epCh e
     let l := getTD i.links ch {}
     let sent (t' : Tile) : Tile := { t' with demand := putT t.demand port.val (getTD t.demand port.val 0 - 1) }
     let seen : List Nat := if f.seen = [] then [t.prec, t.cursor.word, t.panelTable] else f.seen
     4 ≤ port.val → port.val < 8 → epV e = true → epSlot e = f.slot → i.img.unitPort tk port.val = false → epRate e = 0 → 0 < getTD t.demand port.val 0 →
      row = getTD (t.panel p.val).rows f.rows zeroLanes → (f.rows = 0 → (t.panel p.val).st = .ready) →
      (f.rows < 63 → exec (.pemit port p) s = .next (s.setInst k { i.setTile tk
        { sent (t.setPanel p.val { t.panel p.val with st := .draining }) with firing := some { f with rows := f.rows + 1, seen := seen } } with
        links := putT i.links ch { l with fwd := l.fwd ++ [.tok (.wide row 0)] } })) ∧
      (f.rows = 63 → exec (.pemit port p) s = .next (fired s k tk
        { i with links := putT i.links ch { l with fwd := l.fwd ++ [.tok (.wide row 2)] } }
        (sent (t.setPanel p.val { t.panel p.val with st := .ready })) f)))

/-- R249, R261: what filling a row leaves in a slot: the governed lanes of that row are the source's and every other lane of every row is as
before; the row counts among those written since the slot began to fill, and once all 64 have been the slot is READY. -/
def Sys2Proof.Claim.FillingARowCountsIt : Prop :=
  ∀ (p : Panel) (row : Nat) (src : Lanes) (mask : Word), row < 64 →
    let q := p.fillRow row src mask
    (∀ r (j : Fin 64), (getTD q.rows r zeroLanes)[j] = if r = row ∧ mask.getLsbD j.val = true then src[j] else (getTD p.rows r zeroLanes)[j]) ∧
    (∀ r, q.cnt.testBit r = (decide (r = row) || (decide (p.st = .fillF) && p.cnt.testBit r))) ∧
    q.st = if q.cnt = 2 ^ 64 - 1 then .ready else .fillF

/-- R261: PFILL from a port fills from the oldest wide token of the port and consumes it. -/
def Sys2Proof.Claim.PanelFillFromAPortCompletes : Prop :=
  ∀ (s : State) (k tk : Nat) (i : Inst) (t : Tile) (f : Firing) (n : Fin 8) (g : SReg) (m : MReg) (port : Fin 32) (x : Tok) (q : List Tok),
    Fires s k tk i t f → t.acted = false → port.val < 4 → getTD t.fifo port.val [] = x :: q →
    let e := i.img.ep tk port.val
    let ch := epCh e
    epV e = true → epSlot e = f.slot → i.img.unitPort tk port.val = false → getTD f.taken port.val 0 < epRate e →
    (t.panel n.val).st ≠ .fillE → (t.panel n.val).st ≠ .draining →
    exec (.pfillPort n port g m) s = .next (fired s k tk
      { i with links := putT i.links ch { getTD i.links ch {} with req := (getTD i.links ch {}).req + 1 } }
      { t.setPanel n.val ((t.panel n.val).fillRow ((t.s[g]).toNat % 64) x.lanes (if m.val = 0 then BitVec.allOnes 64 else t.m[m])) with
        fifo := putT t.fifo port.val q } { f with taken := putT f.taken port.val (getTD f.taken port.val 0 + 1) })

/-- R249, R261 to R263: PFILL, PEMIT and PREL.
exec answers a next state, under conditions on the state and the operands alone, for each of: pfill, pemit, prel, pfillPort. -/
def Obligations.PanelSlotWordsComplete : Prop :=
  PanelWordsComplete ∧ FillingARowCountsIt ∧ PanelFillFromAPortCompletes

/-- R143, R145: a call whose reserved bits are not zero is answered SVC_RANGE, a call for function 0 from any
other caller and a call from a partition through function 0 are answered SVC_PERM, and an unassigned number is
answered SVC_NOCALL, each with no other effect. The turn that a call which begins gives to the next queue is the model's (log entry 52).
exec answers a next state, under conditions on the state and the operands alone, for each of: unassignedCall. -/
def Obligations.ServiceCallsAreCheckedFirst : Prop :=
  ∀ (s : State) (q : Nat) (c : Call) (n : Nat), Heads s q c n →
    let rsv := fld (c.words.getD 0 0).toNat 31 8
    let u := if c.phase = 0 then taken s q else s
    (rsv ≠ 0 → ∀ i : Instr, (i, n) ∈ anyCalls ++ hostCalls ∨ (0x30 ≤ n ∧ i = .unassignedCall) → exec i s = .next (respond u q c [] 5 0)) ∧
    (rsv = 0 → c.host = true → ∀ i : Instr, (i, n) ∈ anyCalls → exec i s = .next (respond u q c [] 3 0)) ∧
    (rsv = 0 → c.host = false → ∀ i : Instr, (i, n) ∈ hostCalls → exec i s = .next (respond u q c [] 3 0)) ∧
    (rsv = 0 → 0x30 ≤ n → exec .unassignedCall s = .next (respond u q c [] 4 0))

/-- R326, R330, R331: MAP adds the pages of its range (it waits while a page move still holds one of their frames, the model's choice,
log entry 51), UNMAP and PROT change the pages of a range that cuts none
and begin its invalidation (the pages change at the execution of the call, the model's choice, log entry 13), QUERY reads an entry (0 and 0xFF
where none is mapped, the model's reading, log entry 14), INVAL begins an invalidation, SYNC is done, SETROOT sets the
table pages of an empty space; an invalidation is complete once no access translated in its range is still to be
performed, and drops the range from every TLB. The turn that a call which begins gives to the next queue is the model's (log entry 52).
exec answers a next state, under conditions on the state and the operands alone, for each of: map, unmap, prot, query, inval, setroot, sync,
invalidationComplete. -/
def Obligations.MemoryMapCallsComplete : Prop :=
  (∀ (s : State) (q : Nat) (c : Call) (x : Part) (n : Nat), Asks s q c n → c.host = false → s.part c.part = some x →
    let w := argOf c
    let u := taken s q
    let done (t : State) (res : List (Nat × Nat)) : Out := .next (respond t q c res 0 0)
    let size := pageSize (w 4)
    let attr := fld (w 4) 6 4
    let page (i : Nat) : Page :=
      { va := w 1 + i * size, size := size, ga := w 2 + i * size, attr := attr, sbank := if attr = 1 then fld (w 4) 10 7 else 0
        sy := if attr = 1 then fld (w 4) 17 11 else 0, sx := if attr = 1 then fld (w 4) 23 18 else 0, r := bit (w 4) 2, w := bit (w 4) 3 }
    let l := (List.range (w 3 / size)).map page
    let z := u.setPart c.part { x with pages := x.pages ++ l }
    (n = 0x00 → w 1 % size = 0 → w 2 % size = 0 → w 3 % size = 0 → w 3 ≤ 2 ^ 40 → w 1 + w 3 ≤ 2 ^ 57 → w 2 + w 3 ≤ 2 ^ 56 → attr < 4 →
      (0x00F1000000000000 ≤ w 1 ∨ w 1 + w 3 ≤ 0x00F0000000000000) →
      (attr = 1 → size ≤ 2 ^ 16 ∧ gaKind (w 2) = 0 ∧ gaModule (w 2) = s.boot.modnum ∧ (fld (w 4) 23 18 + fld (w 4) 17 11) % 2 = 1 ∧
        x.inRect (fld (w 4) 23 18) (fld (w 4) 17 11) = true) →
      (∀ p ∈ l, frameOkNow s c.part x size p.ga = true) →
      (∀ p ∈ x.pages, p.hits (w 1) (w 3) = false) → tablePages (x.pages ++ l) ≤ x.tpages →
      (s.inMove (w 2) (w 3) = false → exec .map s = done (retryEddy z c.part) []) ∧
      (s.inMove (w 2) (w 3) = true → exec .map s = .next (begun u q c 1 []))) ∧
    (w 1 % 4096 = 0 → w 2 % 4096 = 0 → (∀ p ∈ x.pages, p.hits (w 1) (w 2) = true → p.inside (w 1) (w 2) = true) →
      (n = 0x01 → exec .unmap s = .next (begun
        ((stashBack u c.part x (w 1) (w 2)).setPart c.part { x with pages := x.pages.filter fun p => !p.hits (w 1) (w 2) }) q c 1 [w 1, w 2])) ∧
      (n = 0x02 → exec .prot s = .next (begun (retryEddy (u.setPart c.part
        { x with pages := x.pages.map fun (p : Page) => if p.hits (w 1) (w 2) then { p with r := bit (w 3) 0, w := bit (w 3) 1 } else p }) c.part) q c 1 [w 1, w 2]))) ∧
    (n = 0x03 → ∀ p, findPage x.pages (w 1) = some p → exec .query s = done u [(2, p.entry (w 1)), (3, p.level)]) ∧
    (n = 0x03 → findPage x.pages (w 1) = none → exec .query s = done u [(2, 0), (3, 0xFF)]) ∧
    (n = 0x04 → exec .inval s = .next (begun u q c 1 (if w 2 = 0 then [0, 2 ^ 57] else [w 1, w 2]))) ∧
    (n = 0x07 → exec .sync s = done u [])) ∧
  (∀ (s : State) (q : Nat) (c : Call) (x : Part), Asks s q c 0x05 → c.host = true → argOf c 1 ≤ 11 → s.part (argOf c 1) = some x →
    0 < argOf c 2 → argOf c 2 ≤ 65536 → x.pages = [] →
    exec .setroot s = .next (respond ((taken s q).setPart (argOf c 1) { x with tpages := argOf c 2 }) q c [] 0 0)) ∧
  (∀ (s : State) (q lo n : Nat) (c : Call) (l : List Call), s.arg 0 = q → q ≠ 13 → s.callList q = c :: l → c.phase = 1 →
    (c.num = 0x01 ∨ c.num = 0x02 ∨ c.num = 0x04) → c.work = [lo, n] → inFlight s c.part lo n = false →
    exec .invalidationComplete s = .next (respond (tlbDrop s c.part lo (lo + n)) q c [] 0 0))

/-- R126, R128, R129, R178, R325: the counter calls select, read and clear counter slots; TSYNC reads SCYC and
the host's time; BIASGET reads bias; BIASDEV and BIASHOST flip, page by page, the pages that are not yet in
their bias, and each flip is done, with its page in the new bias and the accesses it held free to go on, once the accesses that issued
before it have been performed. The turn that a call which begins gives to the next queue is the model's (log entry 52).
exec answers a next state, under conditions on the state and the operands alone, for each of: tsync, cntsel, cntrd, cntclr, biasget,
biasdev, biashost, biasFlipDone. -/
def Obligations.CounterAndBiasCallsComplete : Prop :=
  (∀ (s : State) (q : Nat) (c : Call) (x : Part) (n : Nat), Asks s q c n → c.host = false → s.part c.part = some x →
    let w := argOf c
    let u := taken s q
    let done (t : State) (res : List (Nat × Nat)) : Out := .next (respond t q c res 0 0)
    let flip (host : Bool) (l : List Nat) : Out :=
      match l.filter fun g => s.hostBias (g * 4096) != host with
      | [] => done u []
      | g :: r => .next (begun { u with bias := putT s.bias g (!host, s.sched.next) } q c 1 (g :: r))
    (n = 0x26 → w 1 ≤ 15 → w 2 ≤ 0x17 →
      let now := if 8 ≤ w 2 ∧ w 2 < 16 then (getTD x.retain (w 2 - 8) {}).ovf else 0
      exec .cntsel s = done (u.setPart c.part { x with counters := putT x.counters (w 1) (w 2, now) }) []) ∧
    (n = 0x27 → ∀ t, (svcOf q c).write u (w 1) ((List.range 16).flatMap fun i => toBytes 8 (counterValue s c.part x (getTD x.counters i (0, 0)))) = some t →
      exec .cntrd s = done t []) ∧
    (n = 0x28 → exec .cntclr s = done (u.setPart c.part (((List.range 16).filter fun i => bit (w 1) i).foldl clearCounter x)) []) ∧
    (n = 0x25 → (svcOf q c).only [(1, 1), (2, 2 ^ 64 - 1), (3, 2 ^ 64 - 1)] = true →
      let port := if c.vf.isSome then c.hport else w 1 % 2
      (Config.ptmOn port s.cyc = true → exec .tsync s = done u [(2, s.cyc), (3, Config.ptmTime port s.cyc)]) ∧
      (Config.ptmOn port s.cyc = false → exec .tsync s = .next (respond u q c [] 6 0))) ∧
    (w 1 % 4096 = 0 → 0 < w 2 → w 2 ≤ 512 → ∀ l, biasFrames s x (w 1) (w 2) = some l →
      (n = 0x2D → ∀ t, (svcOf q c).write u (w 3) (toBytes 64 (l.foldr (fun g a => b2n (!s.hostBias (g * 4096)) + 2 * a) 0)) = some t →
        exec .biasget s = done t []) ∧
      (n = 0x2E → exec .biasdev s = flip false l) ∧ (n = 0x2F → exec .biashost s = flip true l))) ∧
  (∀ (s : State) (q g : Nat) (c : Call) (l : List Call), s.arg 0 = g → s.calls = [(q, c :: l)] → c.phase = 1 → c.work = [g] → flipWaits s g = false →
    let on (t : State) : State := (t.parts.map (·.1)).foldl wakeStreams (flushCompls t t.compls)
    (c.num = 0x2E → exec .biasFlipDone s =
      .next (respond (on { (joinHalves s (g * 4096) (g * 4096 + 4096)) with bias := delT s.bias g }) q c [] 0 0)) ∧
    (c.num = 0x2F → exec .biasFlipDone s =
      .next (respond (on { (dropCopies s (g * 4096) (g * 4096 + 4096)) with bias := putT s.bias g (true, 0) }) q c [] 0 0))) ∧
  (∀ (s : State) (q g : Nat) (c : Call) (l : List Call), s.arg 0 = g → s.calls = [(q, c :: l)] → c.phase = 1 → c.work = [g] → flipWaits s g = true →
    (c.num = 0x2E ∨ c.num = 0x2F) → exec .biasFlipDone s = .next s)

/-- R286 to R301, R405: STABLE places a table, SDEF defines a stream over one contiguous range, SUNDEF removes one
without slots or waiting accesses, or one that has lost its frames, with its windows in every VF (the model's choice, log entry 26), SATTACH and SDETACH attach and detach a reader slot of a host, SCTLPG and
ALIAS find or map a window, SSTALL sets the stall time, and SSTAT writes the descriptor. Of a stream that lives on another module, SDETACH and
SSTALL leave for its home (log entry 35). The turn that a call which begins gives to the next queue is the model's (log entry 52).
exec answers a next state, under conditions on the state and the operands alone, for each of: aliasWin, stable, sdef, sundef, sattach,
sdetach, sctlpg, sstall, sstat. -/
def Obligations.StreamCallsComplete : Prop :=
  (∀ (s : State) (q : Nat) (c : Call) (x : Part), Asks s q c 0x08 → c.host = true → argOf c 1 ≤ 11 → s.part (argOf c 1) = some x →
    let b := argOf c 2
    (svcOf q c).only [(1, 2 ^ 64 - 1), (2, 2 ^ 64 - 1), (3, 2 ^ 64 - 1)] = true → x.streams = [] →
    b < 2 ^ 56 → gaKind b = 0 → gaModule b = s.boot.modnum → b % 2 ^ 22 = 0 → gaLegal b = true → x.mapsSlice (fld b 39 30) = true →
    0 < argOf c 3 → argOf c 3 ≤ 32768 → (∀ p ∈ x.pages, b + 2 ^ 22 ≤ p.ga ∨ p.ga + p.size ≤ b) →
    s.inMove b (2 ^ 22) = false → (∀ y, s.resizing (argOf c 1) = some y → y.mapsSlice (fld b 39 30) = true) →
    exec .stable s = .next (respond ((taken s q).setPart (argOf c 1) { x with stable := some (b, argOf c 3) }) q c [] 0 0)) ∧
  (∀ (s : State) (q : Nat) (c : Call) (x : Part) (b count n : Nat), Asks s q c n → c.host = false → s.part c.part = some x →
    x.stable = some (b, count) → argOf c 1 < count →
    let w := argOf c
    let u := taken s q
    let m := w 1
    let clear (k : Nat) : Prop := ∀ i, k < i → i < 8 → w i = 0
    let done (t : State) (res : List (Nat × Nat)) : Out := .next (respond t q c res 0 0)
    (n = 0x09 → clear 5 → getT x.streams m = none →
      let bk := fld (w 2) 62 61
      let f := fld (w 2) 60 56
      let sc := w 2 % 8
      let owner := if bk = 0 then (if c.vf.isNone then c.occ else w 4) else 0
      let bytes := (fld (w 2) 55 40 + 1) * 2 ^ f
      w 2 = bk * 2 ^ 61 + f * 2 ^ 56 + fld (w 2) 55 40 * 2 ^ 40 + sc → bk ≠ 3 → 2 ≤ f → f ≤ 21 → 2 ≤ sc → sc ≤ 4 →
      w 5 < 2 ^ 48 → w 4 ≤ 255 → (bk = 0 → w 4 ≤ if c.vf.isNone then 0 else 7) →
      (bk = 0 → (s.inst (c.part * 8 + owner)).isSome = true) →
      ∀ ga, contiguous x (bytes / 4096 + 2) (w 3) bytes = some ga →
        backingOk s c.part x bk sc (if bk = 0 then owner else w 4) ga bytes (s.inst (c.part * 8 + owner)) = true →
        exec .sdef s = done (u.setStream c.part m
          { bk := bk, f := f, wm1 := fld (w 2) 55 40, sc := sc, hsel := if bk = 0 then owner else w 4, fbase := ga, stoe := w 5, crest := w 5
            slots := (List.range 8).map fun k => (k, { toe := w 5 }), moved := s.cyc }) []) ∧
    (∀ z, getT x.streams m = some z → (s.remoteStream z = false ∨ streamDown s c.part z ≠ none) →
      (n = 0x0A → clear 1 → ((z.waits = [] ∧ z.held = [] ∧ ∀ k ∈ z.slots, k.2.att = false) ∨ (z.bk = 2 ∧ streamDown s c.part z = some 0x08) ∨
          (z.bk = 0 ∧ z.lost = true)) →
        exec .sundef s = done (dropWindows (u.setPart c.part { x with streams := delT x.streams m }) c.part m) []) ∧
      (n = 0x0B → clear 5 → w 2 ≤ 7 → w 4 ≤ 1 → w 5 ≤ 15 →
        (∃ v, getT s.vfs (w 3) = some v ∧ v.part = c.part) → z.sc = 4 → (z.slot (w 2)).att = false → hostSlot z.slots (w 3) = none →
        let y : Slot := { att := true, host := true, gen := bit (w 5) 3, gsel := w 5 % 8, own := w 3
                          toe := if bit (w 4) 0 then z.crest else z.stoe }
        exec .sattach s = done (wakeStream (u.setStream c.part m
          (z.after ({ z with slots := putT z.slots (w 2) y }).settle s.cyc)) c.part m) []) ∧
      (n = 0x0C → clear 2 → w 2 ≤ 7 →
        exec .sdetach s = done (wakeStream (u.setStream c.part m (z.after (z.detach (w 2)) s.cyc)) c.part m) []) ∧
      (n = 0x0E → clear 2 → (w 2 = 0 ∨ (10 ≤ w 2 ∧ w 2 ≤ 40)) → exec .sstall s = done (u.setStream c.part m { z with stalle := w 2 }) []) ∧
      (n = 0x0F → clear 2 → ∀ t, (svcOf q c).write u (w 2) (toBytes 128 z.encode) = some t → exec .sstat s = done t [])) ∧
    (∀ z, getT x.streams m = some z →
      (clear 4 → (∃ v, getT s.vfs (w 2) = some v ∧ v.part = c.part) →
        (n = 0x06 → z.sc = 4 → exec .aliasWin s =
          done (mapWindow u (w 2) m (aliasSize z) false).2 [(3, (mapWindow u (w 2) m (aliasSize z) false).1), (4, aliasSize z)]) ∧
        (n = 0x0D → w 4 = 0 → exec .sctlpg s =
          done (mapWindow u (w 2) m 4096 true).2 [(3, (mapWindow u (w 2) m 4096 true).1)]))) ∧
    (∀ z l, getT x.streams m = some z → s.remoteStream z = true → streamDown s c.part z = none → noKey s c.part z.fbase = false →
      s.linkOn (gaModule z.fbase) (planeOf z.fbase) = some l →
      let asks (act : LlStream) : Out := done ({ u with sched := { s.sched with free := s.sched.free + 1 } }.sendOn l
        (.token c.part (s.flowKey c.part l.1) (memTag (gaModule z.fbase) (planeOf z.fbase)) (.stream m 0 0 act))) []
      (n = 0x0C → clear 2 → w 2 ≤ 7 → exec .sdetach s = asks (.detach (w 2))) ∧
      (n = 0x0E → clear 2 → (w 2 = 0 ∨ (10 ≤ w 2 ∧ w 2 ≤ 40)) → exec .sstall s = asks (.stall (w 2)))))

/-- R342, R344, R347: OQUOTA sets a quota within the die's granules, OQSTAT and OLOST report, OPROMOTE swaps the
copies of a mirrored allocation and tells the mirror's module; with no access, command or pattern store under way, a loss that this module declares, or that the module at the other
end of a link declares under the link key, marks the die, drops its copies and its lines in
every fabric cache; a declaration of another module's loss by any other does nothing; and a module that cannot be reached loses its four dies. The turn that a call which begins gives to the next queue is the model's (log entry 52).
exec answers a next state, under conditions on the state and the operands alone, for each of: oquota, oqstat, olost, opromote,
lossDeclaration, unreachableTimeout. -/
def Obligations.OasisCallsAndLossesComplete : Prop :=
  (∀ (s : State) (q : Nat) (c : Call) (x : Part) (n : Nat), Asks s q c n →
    let w := argOf c
    let u := taken s q
    let done (t : State) (res : List (Nat × Nat)) : Out := .next (respond t q c res 0 0)
    (n = 0x10 → c.host = true → (∀ i, 3 < i → i < 8 → w i = 0) → w 1 ≤ 11 → s.part (w 1) = some x → w 2 ≤ 3 → s.oused (w 1) (w 2) ≤ w 3 →
      ((List.range 12).filter fun k => decide (k ≠ w 1)).foldl (fun a k => a + s.oquota k (w 2)) 0 + w 3 ≤ 32768 →
      exec .oquota s = done { u with oasis := { s.oasis with quota := putT s.oasis.quota (w 1 * 4 + w 2) (w 3) } } []) ∧
    (c.host = false →
      (n = 0x11 → (∀ i, 4 < i → i < 8 → w i = 0) → w 1 ≤ 3 → exec .oqstat s =
        done u [(2, s.oquota c.part (w 1)), (3, s.oused c.part (w 1)), (4, b2n (s.oasis.lost.contains (s.boot.modnum, w 1)))]) ∧
      (n = 0x12 → (∀ i, 2 < i → i < 8 → w i = 0) → ∀ l t, (svcOf q c).pieces u (w 1) 1024 false true = some l →
        writeBytes u c.part l (s.oasis.lost.flatMap fun e => toBytes 8 (e.1 * 2 ^ 8 + e.2)) = some t →
        exec .olost s = done t [(2, s.oasis.lost.length)]) ∧
      (n = 0x13 → (∀ i, 1 < i → i < 8 → w i = 0) → ∀ a, s.allocAt c.part (w 1) = some a → a.copies.length = 2 →
        let told := (a.copies.filter fun m => decide (m ≠ s.boot.modnum)).foldl (fun t m => t.sendLater m a.die c.part (memTag m a.die) (.swap a.gas)) u
        exec .opromote s = done (told.setAlloc c.part (w 1) fun a => { a with copies := a.copies.reverse }) []))) ∧
  (∀ (s : State) (f : LlFlit) (d : PodDie), s.pends = [] → s.cmds = [] → s.patStores = [] → (d.module, d.die) ∉ s.oasis.lost →
    let loses (s : State) : Prop := ∃ t, exec (.lossDeclaration f d) s = .next t ∧ t.oasis = { s.oasis with
        lost := s.oasis.lost ++ [(d.module, d.die)]
        allocs := s.oasis.allocs.map fun (a : OAlloc) => if a.die = d.die then { a with copies := a.copies.filter fun k => decide (k ≠ d.module) } else a } ∧
      ∀ k, ∀ y ∈ t.fab k, oasisLost t y.ga = false
    (d.module = s.boot.modnum → loses s) ∧
    (∀ l, d.module ≠ s.boot.modnum → Comes s f l → l.peer = some d.module →
      (Sound f l → loses s) ∧ (¬Sound f l → exec (.lossDeclaration f d) s = .next (spoiled s f l)))) ∧
  (∀ (s : State) (f : LlFlit) (d : PodDie), (d.module = s.boot.modnum → (d.module, d.die) ∈ s.oasis.lost) →
    (d.module ≠ s.boot.modnum → ∀ l, getT s.links f.link = some l → l.key = none ∨ 2 ^ 32 ≤ l.count ∨ l.peer ≠ some d.module) →
    exec (.lossDeclaration f d) s = .next s) ∧
  (∀ (s : State) (m : Nat), ∃ t, exec (.unreachableTimeout m) s = .next t ∧
    (s.pends = [] → s.cmds = [] → s.insts = [] → ∀ d, d < 4 → (m, d) ∈ t.oasis.lost) ∧
    ∀ p x, t.part p = some x → x.definer = some m → x.podWait = false)

/-- R137 to R140, R158, R407: BIND enters an image that passes every check and replaces the one before (a length that does not match
the header answers SVC_RANGE with detail 1, the model's choice, log entry 49), UNBIND
removes one, BQUERY reports, BTIMEO sets the parking time, PRELOAD begins to load an
instance once its slot is ready, EVICT unloads the idle instances it names. The turn that a call which begins gives to the next queue is the model's (log entry 52).
exec answers a next state, under conditions on the state and the operands alone, for each of: bind, unbind, bquery, btimeo, preload, evict. -/
def Obligations.BindingCallsComplete : Prop :=
  ∀ (s : State) (q : Nat) (c : Call) (n : Nat) (x : Vf), Asks s q c n → getT s.vfs (argOf c 1) = some x →
    let w := argOf c
    let u := taken s q
    let clear (k : Nat) : Prop := ∀ i, k < i → i < 8 → w i = 0
    let done (t : State) (res : List (Nat × Nat)) : Out := .next (respond t q c res 0 0)
    (n = 0x17 → c.host = true → clear 2 → 1000 ≤ w 2 → w 2 < 2 ^ 32 →
      exec .btimeo s = done { u with vfs := putT s.vfs (w 1) { x with timeout := w 2 } } []) ∧
    (c.host = false → x.part = c.part → w 1 < 64 →
      (n = 0x14 → clear 4 → 0 < w 2 → w 2 < 2 ^ 32 → w 3 % 64 = 0 → ∀ z bs y, s.part c.part = some y → (svcOf q c).read u (w 3) (w 4) = some (z, bs) →
        80 ≤ w 4 → w 4 = headerLength bs → imageFails (parseImage bs) = none → fitsNow s c.part y (parseImage bs).image = true →
        ((getT x.table (w 2)).isSome = true ∨ x.table.length < 1024) → boundBytes s c.part + w 4 ≤ Config.imageRoom y.csl →
        exec .bind s = done (bindCommit z (w 1) (w 2) x (parseImage bs).image) []) ∧
      (n = 0x14 → clear 4 → 0 < w 2 → w 2 < 2 ^ 32 → w 3 % 64 = 0 → ∀ z bs y k, s.part c.part = some y → (svcOf q c).read u (w 3) (w 4) = some (z, bs) →
        80 ≤ w 4 → w 4 = headerLength bs → imageFails (parseImage bs) = some k → exec .bind s = .next (respond u q c [] 7 k)) ∧
      (n = 0x14 → clear 4 → 0 < w 2 → w 2 < 2 ^ 32 → w 3 % 64 = 0 → ∀ z bs y, s.part c.part = some y → (svcOf q c).read u (w 3) (w 4) = some (z, bs) →
        (w 4 < 80 ∨ w 4 ≠ headerLength bs) → exec .bind s = .next (respond u q c [] 5 1)) ∧
      (n = 0x15 → clear 2 → (getT x.table (w 2)).isSome = true →
        exec .unbind s = done (unloadIdle { u with vfs := putT s.vfs (w 1) { x with table := delT x.table (w 2) } } (w 1) (w 2)) []) ∧
      (n = 0x16 → w 7 = 0 →
        let mine := s.insts.filter fun e => decide (e.2.vf = w 1) && decide (e.2.cfg = w 2)
        let cur (e : Nat × Inst) : Bool := match getT x.table (w 2) with | some b => decide (e.2.bindId = b.id) | none => false
        let k := (mine.filter cur).length
        exec .bquery s = done u
          [(3, if (getT x.table (w 2)).isNone then 0 else if k = 0 then 1 else 2), (4, k),
            (5, (x.park.filter fun q => decide (q.cfg = w 2)).length), (6, b2n (mine.any fun e => !cur e && decide (e.2.phase ≠ .idle)))]) ∧
      (n = 0x18 → clear 2 → w 2 < 2 ^ 32 → ∀ b y t k, getT x.table (w 2) = some b → place u c.part b = .ready t k → t.part c.part = some y →
        exec .preload s = .next (begun (loadInst t c.part k y b { vf := w 1, cfg := w 2 } true) q c 2 [c.part * 8 + k])) ∧
      (n = 0x19 → clear 3 → w 2 < 2 ^ 32 →
        let l := s.insts.filter fun e => decide (e.2.vf = w 1) && (decide (w 2 = 0) || decide (e.2.cfg = w 2)) && decide (e.2.phase = .idle)
        exec .evict s = done ((l.map (·.1)).foldl unload u) [(3, l.length)]))

/-- R125, R387, R388: VFASSIGN gives a VF and its ports to a partition, VFTEAR stops everything the VF brought and
waits for its drain, DRAIN_TIMEOUT ends the drain, and PSLICE sets a slot's slice and the maximum run length. The turn that a call which begins gives to the next queue is the model's (log entry 52). -/
def Sys2Proof.Claim.VirtualFunctionAndSliceCallsAreServed : Prop :=
  (∀ (s : State) (q : Nat) (c : Call) (n : Nat), Asks s q c n → c.host = true →
    let w := argOf c
    let u := taken s q
    let clear (k : Nat) : Prop := ∀ i, k < i → i < 8 → w i = 0
    let done (t : State) (res : List (Nat × Nat)) : Out := .next (respond t q c res 0 0)
    (n = 0x1D → clear 4 → w 1 < 64 → w 2 < 16 → w 3 ≤ 1 → w 4 ≤ 3 → (s.part (w 2)).isSome = true → getT s.vfs (w 1) = none →
      ∃ ports, exec .vfassign s = done
          { u with vfs := putT s.vfs (w 1) { part := w 2, hport := w 3, nports := w 4 + 1 }, ports := ports } [] ∧
        (∀ i, i ≤ w 4 → getT ports (4 * w 1 + i) = some {}) ∧ (∀ i, w 4 < i → i < 4 → getT ports (4 * w 1 + i) = none) ∧
        ∀ p, p / 4 ≠ w 1 → getT ports p = getT s.ports p) ∧
    (n = 0x1E → w 1 < 64 → (w 2 = 0 ∨ (1000 ≤ w 2 ∧ w 2 < 2 ^ 32)) → (getT s.vfs (w 1)).isSome = true →
      exec .vftear s = .next (begun (vfClose u (w 1) (if w 2 = 0 then 100000 else w 2)) q c 1 [w 1])) ∧
    (n = 0x1F → ∀ x, clear 5 → w 1 ≤ 11 → s.part (w 1) = some x → w 2 < 8 → w 2 < x.occs →
      let mode := w 3 / 2 ^ 63
      let len := w 3 % 2 ^ 63
      (if mode = 0 then 10000 else 2 ^ 20) ≤ len → (w 4 = 0 ∨ (mode ≠ 0 ∧ 10000 ≤ w 4)) → (w 5 = 0 ∨ (4096 ≤ w 5 ∧ w 5 ≤ 2 ^ 24)) →
      exec .pslice s = done (u.setPart (w 1)
        { x with slicing := putT x.slicing (w 2) { mode := mode, len := len, cap := w 4 }, mrl := if w 5 = 0 then x.mrl else w 5 }) [])) ∧
  (∀ (s : State) (n t : Nat) (v : Vf), s.arg 0 = n → getT s.vfs n = some v → v.closing = some t → t ≤ s.cyc →
    let u := vfEnd s n v
    ((u.callList 12 = [] → exec .drainTimeout s = .next u) ∧
      ∀ c l, u.callList 12 = c :: l → c.num = 0x1E → c.phase = 1 → c.work.head? = some n → exec .drainTimeout s = .next (respond u 12 c [] 0 0)))

/-- R51, R125, R138, R294, R387: closing a VF empties its ports, its parking, its queue of children and its windows, completes its packets with status 5, and
stops its instances, whose stores on their way go on and whose completions the VF owes; at the end of the drain what they had on their way ends, the records owed are written with status 2 (one
that waits for a child's is written behind it, the model's reading, log entry 46), and the VF, its ports and its stream slots are gone. -/
def Sys2Proof.Claim.VirtualFunctionsCloseAndEnd : Prop :=
  (∀ (s : State) (n timeout : Nat) (v : Vf) (x : Part), getT s.vfs n = some v → s.part v.part = some x → (∀ e ∈ s.insts, e.2.vf ≠ n) →
    v.park = [] → v.kids = [] → (∀ q ∈ x.queue, q.vf ≠ n) → (∀ i, i < 4 → (s.port (4 * n + i)).full = []) →
    (∀ e ∈ s.vfs, ∀ q ∈ e.2.park, q.bind = none) →
    let t := vfClose s n timeout
    getT t.vfs n = some { v with windows := [], closing := some (s.cyc + timeout) } ∧ (∀ m, m ≠ n → getT t.vfs m = getT s.vfs m) ∧
    (∀ p y, getT s.ports p = some y → getT t.ports p = some (if p / 4 = n then { y with toks := [], full := [] } else y)) ∧
    t.insts = s.insts ∧ t.mem = s.mem ∧ t.pends = s.pends ∧ t.compls = s.compls) ∧
  (∀ (s : State) (n timeout : Nat) (v : Vf) (x : Part) (q : Packet), getT s.vfs n = some v → s.part v.part = some x → (∀ e ∈ s.insts, e.2.vf ≠ n) →
    v.park = [] → v.kids = [] → (x.queue.filter fun q => decide (q.vf = n)) = [q] → q.child = false → cgaOk q.cga = true →
    (∀ i, i < 4 → (s.port (4 * n + i)).full = []) → (∀ e ∈ s.vfs, ∀ q ∈ e.2.park, q.bind = none) → s.shut q.cga 16 = true →
    (vfClose s n timeout).compls = s.compls ++ [(q.cga, toBytes 8 q.cval.toNat ++ toBytes 8 (0xFFFFFFFF * 2 ^ 32 + 5))]) ∧
  (∀ (s : State) (n timeout : Nat) (v : Vf) (x : Part), getT s.vfs n = some v → s.part v.part = some x →
    let arrived := (List.range 4).flatMap fun i => (s.port (4 * n + i)).full.map fun w => mkPacket w n false
    ∃ t, getT t.vfs n = some { v with park := [], kids := [], windows := [], closing := some (s.cyc + timeout) } ∧
      (∀ m, m ≠ n → getT t.vfs m = getT s.vfs m) ∧ t.insts = s.insts ∧ t.mem = s.mem ∧ t.pends = s.pends ∧
      (∃ y, t.part v.part = some y ∧ y.queue = x.queue.filter fun q => decide (q.vf ≠ n)) ∧
      let u := (arrived ++ v.kids ++ v.park ++ x.queue.filter fun q => decide (q.vf = n)).foldl (fun s q => packetEnds s q 5 0) t
      let r := ((u.insts.filter fun e => decide (e.2.vf = n)).map (·.1)).foldl (stopInst 97) (u, [])
      ∀ w, getT (unpark r.1 v.part).vfs n = some w → vfClose s n timeout =
        { unpark r.1 v.part with vfs := putT (unpark r.1 v.part).vfs n { w with stopped := w.stopped ++ r.2 } }) ∧
  (∀ (s : State) (a : List Owed) (k : Nat) (i : Inst), s.inst k = some i → (∀ e ∈ s.insts, e.2.parent ≠ some i.num) →
    (∀ x ∈ s.parts, ∀ q ∈ x.2.queue, q.child = true → q.parent ≠ i.num) →
    (∀ v ∈ s.vfs, ∀ q ∈ v.2.kids ++ v.2.park, q.child = true → q.parent ≠ i.num) → (∀ v ∈ s.vfs, ∀ q ∈ v.2.park, q.bind = none) →
    let u := unload (purge s k i.num) k
    let t := { u with pends := u.pends ++ s.pends.filter fun q => decide (q.inst = i.num) && q.act.writes && q.st.open_ && !isStream q.va }
    stopInst 97 (s, a) k =
      (t, if i.phase = .idle then a else a ++ [{ num := i.num, cga := i.cga, cval := i.cval, parent := i.parent }])) ∧
  (∀ (s : State) (n : Nat) (v : Vf) (x : Part), v.kids = [] → v.stopped = [] → s.part v.part = some x →
    ∃ t, vfEnd s n v = wakeStreams t v.part ∧ getT t.vfs n = none ∧ (∀ m, m ≠ n → getT t.vfs m = getT s.vfs m) ∧
      (∀ p, getT t.ports p = if p / 4 = n then none else getT s.ports p) ∧ t.insts = s.insts ∧ t.mem = s.mem ∧ t.pends = s.pends ∧
      ∃ y, t.part v.part = some y ∧ y.streams = mapT (fun _ z => detachVf n z) x.streams ∧ y.queue = x.queue) ∧
  (∀ (s : State) (n : Nat) (v : Vf), v.kids = [] →
    let u := v.stopped.foldl abortRecord
      { s with pends := s.pends.filter fun q => !v.stopped.any fun e => decide (e.num = q.inst)
               vfs := putT s.vfs n { v with stopped := [] } }
    ∃ t, vfEnd s n v = wakeStreams t v.part ∧ t.mem = u.mem ∧ t.pends = u.pends ∧ t.compls = u.compls ∧ t.insts = u.insts ∧ t.vfs = delT u.vfs n) ∧
  (∀ (s : State) (e : Owed),
    ((∀ v ∈ s.vfs, ∀ o ∈ v.2.stopped, o.parent ≠ some e.num) →
      abortRecord s e = childGone (complRecord s e.cga e.cval 2 e.detail e.num) e.parent) ∧
    (∀ n v, (s.vfs.find? fun v => v.2.stopped.any fun o => decide (o.parent = some e.num)) = some (n, v) →
      abortRecord s e = { s with vfs := putT s.vfs n { v with stopped := v.stopped ++ [e] } }))

/-- R51, R125, R138, R294, R387, R388: VFASSIGN, VFTEAR, PSLICE, and what closing a VF and the end of its drain do.
exec answers a next state, under conditions on the state and the operands alone, for each of: vfassign, vftear, pslice, drainTimeout. -/
def Obligations.VirtualFunctionAndSliceCallsComplete : Prop :=
  VirtualFunctionAndSliceCallsAreServed ∧ VirtualFunctionsCloseAndEnd

/-- R35, R37, R38, R146 to R154, R375: PDEF defines a partition, with a key of its own or, where another module of the pod has defined it first, which is
open (log entry 2), asking that module for the pod partition key; PRESIZE moves pages, saves its occupants and then
resizes it, in the phases that log entry 15 deduces, and waits where a resident instance or a queued packet would lose its place; PTEAR closes its VFs, with a drain of 100,000 cycles (log entry 15), and then dissolves it; a call for a partition that has not begun is refused (log entry 42).
Under the link key the defining module sends the pod key inside
the session with a module that asks for it and may have it, and refuses it to any other; the key's or the refusal's arrival in the session in which it was asked for completes a PDEF or lets waiting accesses go on;
a flit whose tag fails is dropped and retrains its link. A page move starts, is applied and ends. The turn that a call which begins gives to the next queue is the model's (log entry 52).
exec answers a next state, under conditions on the state and the operands alone, for each of: podKeyRequest, podKeyArrival, pdef, ptear,
presize, moveStart, moveApplied, shootdownComplete. -/
def Obligations.PartitionCallsKeysAndMovesComplete : Prop :=
  (∀ (s z : State) (q : Nat) (c : Call) (p : Nat) (bs : List Byte), c.host = true → argOf c 1 % 16 = p → p ≤ 11 →
    (svcOf q c).only [(1, 0xF7F70F), (2, 2 ^ 32 - 1), (3, 2 ^ 64 - 1), (4, 2 ^ 64 - 1), (5, 2 ^ 64 - 1), (6, 7), (7, 2 ^ 64 - 1)] = true →
    (svcOf q c).read (taken s q) (argOf c 3) 128 = some (z, bs) →
    let u := taken s q
    (Asks s q c 0x1A → s.part p = none →
      let y := ({} : Part).sized c.words (ofBytes bs)
      sizeOk s p y = true →
      let k := Config.drbg z.drbg
      let draw := Config.freeNat z.sched.free
      let first : Option Nat := if draw % 2 = 0 then none else s.others[draw / 2 % s.others.length]?
      let made : Part := { y with key := k, podKey := if first.isSome then none else some k, definer := first, sliceAt := z.cyc }
      let w : State := { (({ z with sched := { z.sched with free := z.sched.free + 1 }, drbg := z.drbg + 1 }.setPart p made).setRim p made) with
        full := emptySlices y.slices s.boot.modnum s.full }
      (first = none → exec .pdef s = .next (respond w q c [(7, y.csl)] 0 0)) ∧
        ∀ m, first = some m → exec .pdef s = .next (begun (askPodKey w p m) q c 1 [p])) ∧
    (Asks s q c 0x1C → ∀ x, s.part p = some x →
      let y := x.sized c.words (ofBytes bs)
      sizeOk s p y = true → keptTable x y = true → (∀ f ∈ s.vfs, f.2.part = p → ∀ b ∈ f.2.table, fits y b.2.img = true) →
      (∀ e ∈ s.insts, e.1 / 8 = p → e.1 % 8 < y.occs ∧ fits y e.2.img = true) →
      (∀ pk ∈ x.queue, ∀ b, pk.bind = some b → fits y b.img = true) →
      exec .presize s = .next (begun z q c 1 ((wordsN 16 (ofBytes bs)).map fun w => w.toNat)))) ∧
  (∀ (s : State) (q : Nat) (c : Call) (x : Part), c.host = true → fld (c.words.getD 0 0).toNat 31 8 = 0 →
    (Heads s q c 0x1C → argOf c 1 % 16 ≤ 11 → s.part (argOf c 1 % 16) = some x → x.front = none →
      (c.phase = 1 → keptPages s (argOf c 1 % 16) x (x.sized c.words (ofWords (c.work.map fun n => BitVec.ofNat 64 n))) = true →
        exec .presize s = .next (begun (s.setPart (argOf c 1 % 16)
          { x with front := some { dst := x.cur, mrl := x.mrl, presize := some ((c.work.map fun n => BitVec.ofNat 64 n) ++ c.words) } }) q c 2 c.work)) ∧
      (c.phase = 2 → exec .presize s = .next (respond s q c [(7, x.csl)] 0 0))) ∧
    (Heads s q c 0x1B → argOf c 1 ≤ 11 → s.part (argOf c 1) = some x →
      let vfs := (s.vfs.filter fun f => decide (f.2.part = argOf c 1)).map (·.1)
      (c.phase = 0 → (∀ i, 1 < i → i < 8 → argOf c i = 0) →
        exec .ptear s = .next (begun (vfs.foldl (fun s n => vfClose s n 100000) (taken s q)) q c 1 [argOf c 1])) ∧
      (c.phase = 1 → vfs = [] →
        exec .ptear s = .next (respond (dissolve (((s.insts.filter fun e => decide (e.1 / 8 = argOf c 1)).map (·.1)).foldl
          (fun s k => abort s k 0) s) (argOf c 1) x) q c [] 0 0)))) ∧
  (∀ (s : State) (p m e : Nat) (l : Nat × LLink) (x : Part), s.part p = some x → s.linkWhere m (fun _ => true) = some l → getT s.peers m = some e →
    askPodKey s p m = (s.tell l (.podAsk p e (s.boot.mr.take 5))).setPart p { x with podAsked := true }) ∧
  (∀ (s : State) (p : Nat) (x : Part), let t := dissolve s p x
    t.part p = none ∧ (∀ n, bit x.cores n = true → t.core n = {}) ∧ (∀ o ∈ t.pends, o.part ≠ p) ∧ (∀ y ∈ t.oasis.allocs, y.part ≠ p) ∧
    ∀ y, y ∈ t.mem ↔ y ∈ s.mem ∧ ¬(gaKind y.1 = 0 ∧ gaModule y.1 = s.boot.modnum ∧ bit x.slices (fld y.1 39 30) = true)) ∧
  (∀ (s : State) (f : LlFlit) (ask : PodSay) (mrs : List Nat) (x : Part) (l : LLink) (m e : Nat), Comes s f l → s.part ask.part = some x →
    l.peer = some m → getT s.peers m = some e →
    let w := came s f l
    let send (o : LlMsg) : Out := .next (w.tell (f.link, getTD w.links f.link {}) o)
    (¬Sound f l → exec (.podKeyRequest f ask mrs) s = .next (spoiled s f l)) ∧
    (Sound f l → ask.secret ≠ e → exec (.podKeyRequest f ask mrs) s = .next w) ∧
    (Sound f l → ask.secret = e →
      let may : Prop := x.definer = none ∧ s.pod.contains m = true ∧ s.boot.accepted.contains mrs = true ∧ Config.podPart m ask.part = true
      (may → ∀ k, x.podKey = some k → exec (.podKeyRequest f ask mrs) s = send (.podKey ask.part e k)) ∧
      (¬may ∨ x.podKey = none → exec (.podKeyRequest f ask mrs) s = send (.podNo ask.part e)))) ∧
  (∀ (s : State) (f : LlFlit) (ans : PodSay) (x : Part) (l : LLink) (m : Nat), Comes s f l → s.part ans.part = some x → x.podKey = none →
    let w := came s f l
    let asked : Prop := x.podAsked = true ∧ x.definer = some m ∧ l.peer = some m ∧ getT s.peers m = some ans.secret
    (¬Sound f l → exec (.podKeyArrival f ans) s = .next (spoiled s f l)) ∧
    (Sound f l → x.podAsked = false ∨ l.peer ≠ x.definer → exec (.podKeyArrival f ans) s = .next w) ∧
    (Sound f l → asked → let y : Part := { x with podKey := ans.key, podWait := false }
      (x.podWait = true → s.callList 12 = [] → exec (.podKeyArrival f ans) s = .next (w.setPart ans.part y)) ∧
      ∀ c r, s.callList 12 = c :: r → c.num = 0x1A → c.phase = 1 → c.work.head? = some ans.part →
        exec (.podKeyArrival f ans) s = .next (respond (w.setPart ans.part { y with key := ans.key.getD x.key }) 12 c [(7, x.csl)] 0 0))) ∧
  (∀ (s : State) (p va dst src size : Nat) (x : Part), s.part p = some x → moveSource s x va = some (src, size) →
    dst % size = 0 → dst < 2 ^ 56 → gaKind dst = 0 → gaModule dst = s.boot.modnum →
    frameOkNow s p x size dst = true → (∀ r ∈ x.pages, dst + size ≤ r.ga ∨ r.ga + r.size ≤ dst) →
    (∀ w ∈ x.streams, ∀ g ∈ w.2.hbm, g < dst ∨ dst + size ≤ g) →
    (∀ r ∈ x.pages, src + size ≤ r.ga ∨ r.ga + r.size ≤ src ∨ (src ≤ r.ga ∧ r.ga + r.size ≤ src + size)) →
    s.inMove src size = false → s.inMove dst size = false → (s.moves.filter fun m => decide (gaDie m.src = gaDie src)).length < 1024 →
    exec (.moveStart p va dst) s = .next { s with
      sched := { s.sched with next := s.sched.next + 1 }
      moves := s.moves ++ [{ id := s.sched.next, part := p, va := va, src := src, dst := dst, size := size }] }) ∧
  (∀ (s : State) (m : Move), s.moves = [m] → s.arg 0 = m.id →
    (m.moved = false → s.mons = [] → ∃ t, exec .moveApplied s = .next t ∧ t.moves = [{ m with moved := true }] ∧ t.mem = m.copy s.mem ∧
      t.full = m.copyFull s.full ∧ ∀ x, s.part m.part = some x →
        ∃ y, t.part m.part = some y ∧ y.pages = x.pages.map (fun (g : Page) => { g with ga := m.to g.ga }) ∧ y.streams = mapT (fun _ w => m.stream w) x.streams) ∧
    (m.moved = true → inFlightGa s m.src m.size = false →
      let vas : List Page := match s.part m.part with
        | some x => x.pages.filter fun g => decide (m.dst ≤ g.ga) && decide (g.ga < m.dst + m.size)
        | none => []
      exec .shootdownComplete s = .next { (vas.foldl (fun s g => tlbDrop s m.part g.va (g.va + g.size)) s) with moves := [] }))

/-- R210, R252, R381, R383: FQSET places the fault queue, FRESUME lets a frozen tile, a frozen pattern or a run stopped by BRK
go on, at the word after it, FABORT ends an instance, FQUERY names the first frozen node, FMASK sets the mask. FRESUME finds its node by source, unit, row and column alone (the
model's reading, log entry 17), and where no node is frozen FQUERY's words 3 and 4 are 0 (the model's choice). What abort and thawPat do: `AbortsEndTheirInstance`,
`ThawedPatternsRetryOrDrop`. The turn that a call which begins gives to the next queue is the model's (log entry 52). -/
def Sys2Proof.Claim.FaultCallsAreServed : Prop :=
  ∀ (s : State) (q : Nat) (c : Call) (x : Part) (n : Nat), Asks s q c n → c.host = false → s.part c.part = some x →
    let w := argOf c
    let u := taken s q
    let done (t : State) (res : List (Nat × Nat)) : Out := .next (respond t q c res 0 0)
    (n = 0x20 → 6 ≤ w 2 → w 2 ≤ 16 → w 1 % 4096 = 0 → ∀ l, argPieces x true true (2 ^ w 2 / 64 + 3) (w 1) (64 + 64 * 2 ^ w 2) = some l →
      (∀ g ∈ l, stashBad s c.part g.2.2.2 = false ∧ gaKind g.1 = 0 ∧ gaModule g.1 = s.boot.modnum ∧ s.hostBias g.1 = false) → (∀ e ∈ s.insts, e.1 / 8 ≠ c.part) →
      exec .fqset s = done (writeVa (writeVa (u.setPart c.part { x with fq := some (w 1, w 2) }) c.part (w 1) (toBytes 8 0)) c.part (w 1 + 16) (toBytes 8 0)) []) ∧
    (n = 0x24 → w 1 < 2 ^ 16 → exec .fmask s = done (u.setPart c.part { x with fmask := w 1 }) []) ∧
    (∀ i, s.instNum (w 1) = some i → i.part = c.part →
      let k := keyOf (w 1)
      (n = 0x22 → exec .fabort s = done (abort u k (i.firstFault.getD 0)) []) ∧
      (n = 0x23 → frozenNodes i = [] → exec .fquery s = done u [(2, 0), (3, 0), (4, 0)]) ∧
      (n = 0x23 → ∀ f l, frozenNodes i = f :: l → exec .fquery s = done u [(2, l.length + 1), (3, f.node), (4, f.code)]) ∧
      (n = 0x21 → fld (w 2) 47 45 = 0 → ∀ tk t f, t.frozen = some f →
        (i.tiles.find? fun t => t.2.frozenAt (w 2)) = some (tk, t) →
        exec .fresume s = done (u.modTile k tk fun t =>
          { t with frozen := none, ahead := t.fwait.length, disabled := if bit (w 3) 0 then f.unit :: t.disabled else t.disabled }) []) ∧
      (n = 0x21 → fld (w 2) 47 45 = 3 → ∀ tk t j p,
        (i.tiles.find? fun t => t.2.pats.any fun p => p.2.frozenAt (w 2)) = some (tk, t) →
        (t.pats.find? fun p => p.2.frozenAt (w 2)) = some (j, p) →
        exec .fresume s = done (u.modTile k tk (thawPat i.img tk j (bit (w 3) 0))) []) ∧
      (n = 0x21 → fld (w 2) 47 45 = 1 → ∀ v l, x.saved = v :: l → v.brk = some (w 2 % 128) → v.run.rc.inst = i.num →
        v.run.pc = fld (w 2) 63 48 →
        let goes (r : Run) : Out := done (u.setPart c.part { x with saved := { v with brk := none, run := r } :: l }) []
        (v.run.pc + 1 < (s.image v.run).words → exec .fresume s = goes { v.run with pc := v.run.pc + 1 }) ∧
        ((s.image v.run).words ≤ v.run.pc + 1 → exec .fresume s = goes { v.run with ending := some (.trap (runFault s v.core v.run 0x01 0 0)) })))

/-- R51, R174, R294, R383, R387, R405: aborting an instance stops everything of it, empties its pool entries and queues, unloads it with its stream slots
detached, and writes a record with status 2 and the detail given, in place or, where a closing VF still owes the record of a child of it, behind that
(the model's reading, log entry 46); of an idle instance it writes none. Packets that are its children are taken out of their queues and completed with status 2. -/
def Sys2Proof.Claim.AbortsEndTheirInstance : Prop :=
  (∀ (s : State) (k d : Nat) (i : Inst), s.inst k = some i → (∀ e ∈ s.insts, e.2.parent ≠ some i.num) →
    (∀ x ∈ s.parts, ∀ q ∈ x.2.queue, q.child = true → q.parent ≠ i.num) →
    (∀ v ∈ s.vfs, ∀ q ∈ v.2.kids ++ v.2.park, q.child = true → q.parent ≠ i.num) → (∀ v ∈ s.vfs, ∀ q ∈ v.2.park, q.bind = none) →
    let u := unload (purge s k i.num) k
    (i.phase = .idle → abort s k d = u) ∧
    (i.phase ≠ .idle → (∀ v ∈ u.vfs, ∀ o ∈ v.2.stopped, o.parent ≠ some i.num) →
      abort s k d = childGone (complRecord u i.cga i.cval 2 d i.num) i.parent) ∧
    (i.phase ≠ .idle → ∀ n v, (u.vfs.find? fun v => v.2.stopped.any fun o => decide (o.parent = some i.num)) = some (n, v) →
      abort s k d = { u with vfs := putT u.vfs n { v with
        stopped := v.stopped ++ [{ num := i.num, cga := i.cga, cval := i.cval, detail := d, parent := i.parent }] } })) ∧
  (∀ (s : State) (num : Nat), (∀ v ∈ s.vfs, ∀ q ∈ v.2.park, q.bind = none) →
    let mine (q : Packet) : Bool := q.child && decide (q.parent = num)
    let rest (l : List Packet) : List Packet := l.filter fun q => !mine q
    abortPackets s num = ((s.parts.flatMap fun x => x.2.queue.filter mine) ++ (s.vfs.flatMap fun v => (v.2.kids ++ v.2.park).filter mine)).foldl
      (fun s q => packetDone s q 2 0)
      { s with parts := mapT (fun _ x => { x with queue := rest x.queue }) s.parts
               vfs := mapT (fun _ v => { v with kids := rest v.kids, park := rest v.park }) s.vfs }) ∧
  (∀ (s : State) (k : Nat) (i : Inst) (x : Part), s.inst k = some i → s.part (k / 8) = some x →
    ∃ v, unload (purge s k i.num) k = wakeStreams (leaveFar v (k / 8) (k % 8) .leave) (k / 8) ∧
      v.inst k = none ∧ (∀ j, j ≠ k → v.inst j = s.inst j) ∧ v.mem = s.mem ∧ v.vfs = s.vfs ∧
      v.cmds = s.cmds.filter (fun c => decide (c.num ≠ i.num)) ∧
      (∀ q ∈ s.pends, q.inst ≠ i.num → q ∈ v.pends) ∧
      (∀ q ∈ v.pends, q ∈ s.pends ∧ (q.inst = i.num → q.st = .waiting ∧ ∃ a, q.act = .value a)) ∧
      (∀ n c, getT s.cores n = some c → ∃ e, getT v.cores n = some e ∧
        (∀ r, e.run = some r ↔ c.run = some r ∧ r.rc.inst ≠ i.num) ∧ e.held = c.held.filter (fun r => decide (r.inst ≠ i.num)) ∧
        (∀ q ∈ e.deques, ∀ r ∈ q.2.spill ++ q.2.hw, r.inst ≠ i.num) ∧
        (bit x.cores n = true → getT e.deques (k % 8) = none ∧ getT e.ports (k % 8) = none)) ∧
      ∃ y, v.part (k / 8) = some y ∧ y.inj = x.inj.filter (fun r => decide (r.inst ≠ i.num)) ∧ y.ready = x.ready.filter (fun r => decide (r.inst ≠ i.num)) ∧
        y.rheld = x.rheld.filter (fun r => decide (r.inst ≠ i.num)) ∧ y.saved = x.saved.filter (fun v => decide (v.run.rc.inst ≠ i.num)) ∧
        y.caravans = x.caravans.filter (fun c => decide (c.2.inst ≠ i.num)) ∧
        y.posts = x.posts.map (fun (q : Post) => if q.fr.inst = i.num then { q with cont := none, entry := none } else q) ∧ y.queue = x.queue ∧ y.pages = x.pages ∧
        (∀ n e r, getT x.pool n = some e → e.rc = some r →
          getT y.pool n = some (if r.inst = i.num then { gen := (e.gen + 1) % 65536, rc := none } else e)) ∧
        (∀ n z, getT y.streams n = some z → ∀ j, (z.slot j).att = true → (z.slot j).host = true ∨ (z.slot j).own ≠ k % 8) ∧
        (∀ n z, getT x.streams n = some z → z.bk = 0 → z.hsel = k % 8 → ∃ z', getT y.streams n = some z' ∧ z'.lost = true))

/-- R312, R314, R333, R383: a pattern that goes on retries what faulted; one told to drop loses the accesses, the run ends and the diverted accesses of the run that
faulted first, and where that run's base is the one held, the base, whose chain is then idle (the model's reading, log entry 17). -/
def Sys2Proof.Claim.ThawedPatternsRetryOrDrop : Prop :=
  ∀ (img : Image) (tk j : Nat) (t : Tile),
    let p := t.pat j
    thawPat img tk j false t = t.setPat j { p with frozen := none, bad := [] } ∧
    (let u := thawPat img tk j true t
     let r := match p.accs.find? fun a => decide (a.op = p.bad.headD 0) with | some a => a.run | none => p.run
     let q := u.pat j
     let drops : Prop := p.base.isSome = true ∧ r = p.run
     let k := patChain (img.pat tk j)
     q.frozen = none ∧ q.bad = [] ∧ q.accs = p.accs.filter (fun a => decide (a.run ≠ r)) ∧ q.ends = p.ends.filter (fun e => decide (e ≠ r)) ∧
     q.head = none ∧ q.dpos = 0 ∧ q.rnd = [] ∧ q.run = p.run ∧ q.latch = p.latch ∧
     (drops → q.base = none ∧ q.bpos = 0 ∧ q.headed = false ∧
       u.chains = putT t.chains k { getTD t.chains k {} with running := false, idx := [] }) ∧
     (¬drops → q.base = p.base ∧ q.bpos = p.bpos ∧ q.headed = p.headed ∧ u.chains = t.chains) ∧
     u.eddy = t.eddy.filter (fun e => match e with
       | .pat m op _ => !(decide (m = j) && p.accs.any fun a => decide (a.run = r) && decide (a.op = op))
       | _ => true) ∧
     (∀ m, m ≠ j → u.pat m = t.pat m) ∧ u.fifo = t.fifo ∧ u.sram = t.sram)

/-- R51, R210, R252, R314, R381, R383: the fault calls, and what aborting an instance and thawing a pattern do.
exec answers a next state, under conditions on the state and the operands alone, for each of: fqset, fresume, fabort, fquery, fmask. -/
def Obligations.FaultCallsComplete : Prop :=
  FaultCallsAreServed ∧ AbortsEndTheirInstance ∧ ThawedPatternsRetryOrDrop

/-- R31, R34, R37, R40: MRECORD extends a register with a bound image's digest, MLOG writes log entries, QUOTE a
signed report, and KWRAP seals and opens with AES-256-GCM under the partition's wrapping key (whose
info string and associated data are the model's choice, log entry 42); a value that does not open is answered SVC_STATE. The turn that a call which begins gives to the next queue is the model's (log entry 52).
exec answers a next state, under conditions on the state and the operands alone, for each of: mrecord, mlog, quote, kwrapWrap, kwrapUnwrap. -/
def Obligations.AttestationCallsComplete : Prop :=
  ∀ (s : State) (q : Nat) (c : Call) (n : Nat), Asks s q c n → c.host = false →
    let w := argOf c
    let u := taken s q
    let clear (k : Nat) : Prop := ∀ i, k < i → i < 8 → w i = 0
    let done (t : State) (res : List (Nat × Nat)) : Out := .next (respond t q c res 0 0)
    (n = 0x29 → clear 3 → 5 ≤ w 1 → w 1 ≤ 7 → w 2 ≤ 63 → w 3 < 2 ^ 32 → ∀ v b, getT s.vfs (w 2) = some v → v.part = c.part →
      getT v.table (w 3) = some b →
      exec .mrecord s = done { u with boot := s.boot.extend (w 1) 0xFF (w 2) (w 3) b.img.digest } []) ∧
    (n = 0x2A → clear 5 → w 2 % 64 = 0 → 64 ≤ w 2 → w 2 ≤ 65536 →
      let l := (s.boot.log.drop (w 3)).take (w 2 / 64)
      ∀ p t, (svcOf q c).pieces u (w 1) (w 2) false true = some p → (svcOf q c).write u (w 1) l.flatten = some t →
        exec .mlog s = done t [(4, l.length), (5, t.boot.log.length + b2n t.boot.logOvf * 2 ^ 63)]) ∧
    (n = 0x2B → clear 3 → ∀ r nonce t, (svcOf q c).read u (w 1) 32 = some (r, nonce) →
      let body := s.boot.mr.flatMap (toBytes 48) ++ toBytes 8 s.boot.bsts ++ nonce ++ toBytes 1 c.part ++ List.replicate 55 0
      (svcOf q c).write r (w 2) (body ++ (Config.ecdsaSign s.boot.alias body ++ List.replicate 96 0).take 96) = some t →
      exec .quote s = done t [(3, 576)]) ∧
    (n = 0x2C → clear 5 → ∀ x k r bs, s.part c.part = some x → x.podKey = some k →
      let key := Config.hkdf k [0x4B, 0x57, 0x52, 0x41, 0x50]
      (svcOf q c).read u (w 2) (w 3) = some (r, bs) →
      (w 1 = 0 → 1 ≤ w 3 → w 3 ≤ 65536 →
        let iv := Config.drbg s.drbg % 2 ^ 96
        ∀ t, (svcOf q c).write { r with drbg := s.drbg + 1 } (w 4) (toBytes 12 iv ++ gcmSeal key iv (toBytes 1 c.part) bs) = some t →
          exec .kwrapWrap s = done t [(5, w 3 + 28)]) ∧
      (w 1 = 1 → 29 ≤ w 3 → w 3 ≤ 65564 → ((svcOf q c).pieces u (w 4) (w 3 - 28) false true).isSome = true →
        let opened := gcmOpen key (ofBytes (bs.take 12)) (toBytes 1 c.part) (bs.drop 12)
        (opened = none → exec .kwrapUnwrap s = .next (respond u q c [] 6 0)) ∧
        ∀ m t, opened = some m → (svcOf q c).write r (w 4) m = some t →
          exec .kwrapUnwrap s = done t [(5, w 3 - 28)]))

/-- R24: a module reset restarts boot at stage 0 with every partition, key and instance lost and MISM 0 (only
power-on clears the count of mismatches, log entry 30); only 0x5A5A to port 0's doorbell under IDE resets, and register writes are ignored.
exec answers a next state, under conditions on the state and the operands alone, for each of: powerOn, watchdogExpiry, recoveryDoorbell,
registerWrite. -/
def Obligations.ResetsRestartBootAndLoseEverything : Prop :=
  ∀ s : State,
    let gone (t : State) (mism : Nat) : Prop :=
      t.boot = { flash := s.boot.flash, mismAll := mism } ∧ t.hports = [] ∧ t.vfs = [] ∧ t.ports = [] ∧ t.parts = [] ∧ t.cores = [] ∧
        t.insts = [] ∧ t.full = [] ∧ t.pends = [] ∧ t.cmds = [] ∧ t.calls = [] ∧ t.mons = [] ∧ t.moves = [] ∧ t.caches = {} ∧ t.links = [] ∧
        t.oasis = {} ∧ t.bias = [] ∧ t.compls = [] ∧ t.rim = [] ∧ t.peers = [] ∧ t.outbox = [] ∧ t.grants = [] ∧ t.syncs = [] ∧ t.cyc = 0 ∧
        ∀ c ∈ t.mem, c ∈ s.mem ∧ (gaKind c.1 = 4 ∨ gaModule c.1 ≠ s.boot.modnum)
    (∃ t, exec .powerOn s = .next t ∧ gone t 0) ∧
    (∃ t, exec .watchdogExpiry s = .next t ∧ gone t s.boot.mismAll) ∧
    (s.ideUp 0 = true → ∃ t, exec (.recoveryDoorbell 0 0x5A5A) s = .next t ∧ gone t s.boot.mismAll) ∧
    (∀ port value, port ≠ 0 ∨ value ≠ 0x5A5A ∨ s.ideUp 0 = false → exec (.recoveryDoorbell port value) s = .next s) ∧
    ∀ offset value, exec (.registerWrite offset value) s = .next s

/-- R21, R23, R26 to R29: each boot stage verifies and measures the next image and hands over to it, or its slot
fails: first slot A for slot B, then slot B for recovery; a mismatch restarts boot and the third of a
power-on, and any after it, enters recovery (log entry 30); STAGE and SVN at a failover, what a mismatch keeps and clears, a mismatch
in recovery and the signer of a settings block are the model's reading (log entry 36); the end of a power window moves the throttle level by one.
exec answers a next state, under conditions on the state and the operands alone, for each of: lockstepMismatch, bootStage, powerWindowEnd. -/
def Obligations.BootStagesMismatchesAndPowerWindowsComplete : Prop :=
  ∀ s : State,
    let b := s.boot
    let goes (b : Boot) : Out := .next { s with boot := b }
    (b.stage < 4 → b.fails = none → ∃ i, b.fw.images[b.stage]? = some i ∧
      ∃ t, exec .bootStage s = .next t ∧ t.boot.stage = b.stage + 1 ∧
        t.boot.mr = b.mr.set b.stage (extendMr (b.mr.getD b.stage 0) i.digest) ∧ { t with boot := b } = s ∧
        t.boot.svn = (if b.stage = 1 then b.fw.svn else b.svn)) ∧
    (b.stage < 4 → ∀ c, b.fails = some c →
      (b.slotB = false → exec .bootStage s = goes { b with sac := c, failc := c, slotB := true, stage := 0, svn := 0 }) ∧
      (b.slotB = true → exec .bootStage s = goes { b with sbc := c, failc := 4, stage := 0xE })) ∧
    (let x := b.flash.settings
     let ok := imageCause x.image = none ∧ x.signer = b.fw.owner
     b.stage = 4 →
      (ok → ∃ t, exec .bootStage s = .next t ∧ t.boot.stage = 5 ∧ t.boot.capw = x.capw % 2 ^ 16 ∧ t.boot.modnum = x.modnum % 32 ∧ t.boot.pod = x.pod ∧
        t.boot.accepted = x.accepted ∧ t.boot.owners = x.owners ∧ t.boot.mr = b.mr.set 4 (extendMr (b.mr.getD 4 0) x.image.digest)) ∧
      (¬ ok → exec .bootStage s = goes { b with failc := 6, capw := 3000, modnum := 0, pod := [], accepted := [], owners := [], stage := 5 })) ∧
    (b.stage = 5 → exec .bootStage s = goes { b with stage := 0xF, flash := { b.flash with
      msvn := if b.fw.commit then max b.flash.msvn b.svn else b.flash.msvn } }) ∧
    (let m := min 3 (b.mismAll + 1)
     let b' : Boot := { b with mism := m, mismAll := m, mr := [0, 0, 0, 0, 0, 0, 0, 0], slotB := false, svn := 0 }
     (b.stage ≠ 0xF → b.stage ≠ 0xE → b.mismAll < 2 → exec .lockstepMismatch s = goes { b' with stage := 0 }) ∧
     (b.stage ≠ 0xF → b.stage ≠ 0xE → 2 ≤ b.mismAll → exec .lockstepMismatch s = goes { b' with stage := 0xE, failc := 5 }) ∧
     (b.stage = 0xE → exec .lockstepMismatch s = goes { b with mism := m, mismAll := m, failc := if m = 3 then 5 else b.failc }) ∧
     (b.stage = 0xF → exec .lockstepMismatch s = .next s)) ∧
    ∀ watts, 1000000 * (b.window + 1) ≤ s.cyc →
      let cap := max 3000 (min 6000 b.capw)
      exec (.powerWindowEnd watts) s = goes { b with
        window := b.window + 1, measw := watts % 2 ^ 16
        thr := if cap < watts then min 15 (b.thr + 1) else if watts * 100 ≤ cap * 95 then b.thr - 1 else b.thr }

/-- R33, R34, R39: where SPDM is served, every request is answered once through its port, signed by the alias key
over the request's data and the response; a key exchange leaves a secret, FINISH with its value opens the session
and END_SESSION ends it; inside a session IDE_KM programs stream keys and starts and stops their use. The codes
of messages and errors and the bytes of their payloads are presumed (log entry 31).
exec answers a next state, under conditions on the state and the operands alone, for each of: getVersion, getCapabilities,
negotiateAlgorithms, getDigests, getCertificate, challenge, getMeasurements, keyExchange, finish, endSession, ideKmQuery, keyProg, kSetGo,
kSetStop, unsupportedRequest. -/
def Obligations.SpdmAndIdeRequestsComplete : Prop :=
  ∀ (s : State) (port : Nat), 3 ≤ s.boot.stage →
    let h := s.hport port
    let sent (h : HPort) (code p1 p2 : Nat) (payload req : List Byte) : HPort :=
      let m := [0x12, BitVec.ofNat 8 code, BitVec.ofNat 8 p1, BitVec.ofNat 8 p2] ++ payload
      { h with out := h.out ++ [m ++ Config.ecdsaSign s.boot.alias (req ++ m)] }
    let goes (h : HPort) : Out := .next { s with hports := putT s.hports port h }
    let answers (code p1 p2 : Nat) (payload req : List Byte) : Out := goes (sent h code p1 p2 payload req)
    let chain := Config.certChain (s.boot.mr.take 5)
    let value (i : Nat) : List Byte := if i = 9 then toBytes 8 s.boot.bsts else toBytes 48 (s.boot.mr.getD (i - 1) 0)
    exec (.getVersion port) s = answers 0x04 0 0 [0, 1, 0, 0x12] [] ∧
    exec (.getCapabilities port) s = answers 0x61 0 0 (toBytes 4 0 ++ toBytes 4 0x2D6) [] ∧
    exec (.negotiateAlgorithms port) s = answers 0x63 0 0 (toBytes 4 0x80 ++ toBytes 4 2) [] ∧
    exec (.getDigests port) s = answers 0x01 0 1 (sha384 chain) [] ∧
    exec (.getCertificate port) s = answers 0x02 0 0 chain [] ∧
    (∀ nonce, exec (.challenge port nonce) s = answers 0x03 0 1 (sha384 chain ++ nonce) nonce) ∧
    (∀ nonce, exec (.getMeasurements port 0 nonce) s = answers 0x60 9 0 [] nonce) ∧
    (∀ i nonce, 1 ≤ i → i ≤ 9 → exec (.getMeasurements port i nonce) s = answers 0x60 0 0 (toBytes 1 i ++ value i) nonce) ∧
    (∀ nonce, exec (.getMeasurements port 0xFF nonce) s =
      answers 0x60 0 0 ((List.range 9).flatMap fun i => toBytes 1 (i + 1) ++ value (i + 1)) nonce) ∧
    (∀ share, ∃ t, exec (.keyExchange port share) s = .next t ∧ t.drbg = s.drbg + 1 ∧
      t.hport port = sent { h with spdm := { secret := some (Config.ecdh s.drbg share), open_ := false } } 0x64 0 0 (Config.ecdhShare s.drbg) share) ∧
    (∀ k, h.spdm.secret = some k → ∃ t, exec (.finish port (Config.finishMac k)) s = .next t ∧
      t.hport port = sent { h with spdm := { h.spdm with open_ := true } } 0x65 0 0 [] []) ∧
    (∀ k mac, h.spdm.secret = some k → mac ≠ Config.finishMac k → exec (.finish port mac) s = answers 0x7F 0x06 0 [] []) ∧
    (∀ code, exec (.unsupportedRequest port code) s = answers 0x7F 0x07 0 [] []) ∧
    (h.spdm.open_ = true →
      (∃ t, exec (.endSession port) s = .next t ∧ t.hport port = sent { h with spdm := {} } 0x6C 0 0 [] []) ∧
      (∃ t, exec (.ideKmQuery port) s = .next t ∧ t.hport port = sent h 0x7E 0 0 [1, 0, BitVec.ofNat 8 port] []) ∧
      ∀ stream, let z := BitVec.ofNat 8 stream
        (∀ key, ∃ t, exec (.keyProg port stream key) s = .next t ∧
          t.hport port = sent { h with ide := putT h.ide stream (key, (getTD h.ide stream ([], false)).2) } 0x7E 0 0 [3, 0, 0, z] []) ∧
        ∀ key on, getT h.ide stream = some (key, on) →
          (∃ t, exec (.kSetGo port stream) s = .next t ∧ t.hport port = sent { h with ide := putT h.ide stream (key, true) } 0x7E 0 0 [6, 0, 0, z] []) ∧
          (∃ t, exec (.kSetStop port stream) s = .next t ∧ t.hport port = sent { h with ide := putT h.ide stream (key, false) } 0x7E 0 0 [6, 0, 0, z] [])) ∧
    (h.spdm.open_ = false → exec (.endSession port) s = answers 0x7F 0x04 0 [] [] ∧ exec (.ideKmQuery port) s = answers 0x7F 0x07 0 [] [] ∧
      ∀ stream key, exec (.keyProg port stream key) s = answers 0x7F 0x07 0 [] [])

/-- R29, R30, R38, R337, R338: a running module starts a link to another module of its pod, whose share is signed by that module, with a
fresh share and key, and re-keys it; what has waited for the link then leaves over it, and where the turn says that the peer has come back its
dies are no longer lost (log entries 29 and 35). A flit that fails its tag is dropped and counted and the link retrained; a token for a partition that
does not hold its key, or of a wrong DEST, is dropped and counted, and a load or a read-modify-write learns of it; a held one is performed at its
home and answered under the partition's traffic key, and a write of a mirrored granule goes on to the mirror (R343). A rim port's head token is
sent once its destination grants it, or faults. How the link number and a re-key enter a key is the model's choice (log entry 35). -/
def Sys2Proof.Claim.LinksAndArrivingTokensComplete : Prop :=
  (∀ (s : State) (link peer : Nat) (share : List Byte), s.boot.stage = 0xF → link < 128 → s.pod.contains peer = true → peer ≠ s.boot.modnum →
    let mine := Config.ecdhShare s.drbg
    let m : LLink := { getTD s.links link {} with
      peer := some peer, key := some (Config.hkdf (Config.ecdh s.drbg share) (toBytes 1 link)), oldKey := none, count := 0, sent := 0
      out := [.share (mine ++ Config.ecdsaSign s.boot.alias (share ++ mine))] }
    let u : State := { s with
      drbg := s.drbg + 1, links := putT s.links link m
      oasis := if s.arg 0 % 2 = 1 then { s.oasis with
          lost := s.oasis.lost.filter fun d => decide (d.1 ≠ peer), mirrors := s.oasis.mirrors.filter fun m => decide (gaModule m.ga ≠ peer) }
        else s.oasis }
    (Config.shareSigned peer share = true → s.outbox = [] → exec (.linkStart link peer share) s = .next u) ∧
    (∀ w x, Config.shareSigned peer share = true → s.outbox = [w] → s.part w.part = some x →
      (w.module ≠ peer ∨ w.plane ≠ link / 32 → s.linkOn w.module w.plane = none → exec (.linkStart link peer share) s = .next u) ∧
      (w.module = peer → w.plane = link / 32 → s.linkOn peer (link / 32) = none → exec (.linkStart link peer share) s = .next { u with
        outbox := []
        links := putT u.links link { m with sent := 1, out := m.out ++ [.token w.part (x.podKey.map fun y => trafficKey y link) w.tag w.req] } })) ∧
    (Config.shareSigned peer share = false → exec (.linkStart link peer share) s = .next s)) ∧
  (∀ (s : State) (n k : Nat) (l : LLink), s.arg 0 = n → getT s.links n = some l → l.key = some k → s.outbox = [] →
    exec .linkRekey s = .next { s with links := putT s.links n { l with
      key := some (Config.hkdf k [0x52, 0x4B]), oldKey := some k, count := 0, sent := 0 } }) ∧
  (∀ (s : State) (link : Nat) (tok : LlToken) (l : LLink) (x : Part), Comes s ⟨link, tok.tagOk, tok.old⟩ l → l.peer = some tok.source →
    fld tok.tag.toNat 11 7 = s.boot.modnum → fld tok.tag.toNat 6 5 = link / 32 →
    let a := exec (.llynrenTokenArrival link tok) s
    (¬Sound ⟨link, tok.tagOk, tok.old⟩ l → a = .next (spoiled s ⟨link, tok.tagOk, tok.old⟩ l)) ∧
    (Sound ⟨link, tok.tagOk, tok.old⟩ l → s.part tok.part = some x →
      let mine := ∃ k, x.podKey = some k ∧ tok.key = some (trafficKey k link)
      let dest := match tok.req with | .peer .. => tok.tag.toNat % 32 ≠ 0 | _ => tok.tag.toNat % 32 = 0
      let learns := match tok.req with
        | .read .. | .rmw .. | .red .. | .sync .. | .waita .. => True
        | _ => False
      let silent := match tok.req with
        | .write .. | .stream _ _ _ (.store ..) | .peer .. | .wake .. => True
        | _ => False
      let answered (t : State) (v : Nat) : Prop := a = .next t ∧ ∃ m, getT t.links link = some m ∧ m.count = l.count + 1 ∧
        m.sent = l.sent + 1 ∧ m.out = l.out ++ [.answer tok.key 0 v]
      ((¬ mine ∨ ¬ dest) → ∃ t m y, a = .next t ∧ getT t.links link = some m ∧ m.drops = l.drops + 1 ∧ m.count = l.count + 1 ∧ m.key = l.key ∧
        t.mem = s.mem ∧ t.full = s.full ∧ t.cores = s.cores ∧ t.insts = s.insts ∧ t.part tok.part = some y ∧
        (∀ k c, getT x.counters k = some (4, c) → getT y.counters k = some (4, (c + 1) % 2 ^ 64)) ∧
        (learns → m.out = l.out ++ [.manage l.key .dropped]) ∧ (silent → m.out = l.out)) ∧
      (mine → dest → s.mons = [] → s.bad = [] → ∀ ga, arriveOk s ga = true →
        let f := fwdGa s ga
        gaKind f ≠ 2 → oasisLost s f = false →
        (∀ n v mask, tok.req = .write ga n v mask 0 → s.shut ga n = false →
          let new := toBytes n (merge mask v (memRead s.mem f n))
          (mirrorOf s f = none → ∃ t, answered t 0 ∧ t.mem = memPuts s.mem f new) ∧
          (∀ m, mirrorOf s f = some m → s.linkOn m (planeOf f) = none → ∃ t, answered t 0 ∧ t.mem = memPuts s.mem f new ∧
            t.outbox = s.outbox ++ [{ module := m, plane := planeOf f, part := tok.part, tag := memTag m (planeOf f), req := .apply f n (ofBytes new) }])) ∧
        (∀ n, tok.req = .read ga n → s.shut ga n = false → ∃ t, answered t (memRead s.mem f n) ∧ t.mem = s.mem) ∧
        (∀ op b d, tok.req = .rmw op ga b d → ga % 8 = 0 → s.shut ga 8 = false → mirrorOf s f = none →
          let old := memRead s.mem f 8
          ∃ t, answered t old ∧ t.mem = match atomNew op (BitVec.ofNat 64 old) b d with
            | some v => memPuts s.mem f (toBytes 8 v.toNat)
            | none => s.mem)))) ∧
  (∀ (s : State) (k tk g : Nat) (i : Inst) (x : Part) (t : Tile) (v : Word) (tag : Nat) (l : List Tok), s.sched.args = [k, tk, g] → s.inst k = some i →
    s.part (k / 8) = some x → getT i.tiles tk = some t → i.img.rim tk = true → t.woken = true → t.acted = false → t.frozen = none → x.cur = k % 8 →
    t.fifoOf 15 = .narrow v tag :: l →
    (tag % 32 = 1 → s.pod.contains (fld tag 11 7) = true → fld tag 11 7 ≠ s.boot.modnum →
      (g % 2 = 0 → exec .rimPortSend s = .next s) ∧
      (g % 2 = 1 → ∀ n m, s.linkOn (fld tag 11 7) (fld tag 6 5) = some (n, m) →
        exec .rimPortSend s = .next { s.setInst k (i.take tk 15) with
          links := putT s.links n { m with sent := m.sent + 1, out := m.out ++
            [.token (k / 8) (x.podKey.map fun y => trafficKey y n) tag (.peer (tk % 128 - 0x40) (tk / 128) v.toNat)] } })) ∧
    (tag % 32 = 1 → s.pod.contains (fld tag 11 7) = true → fld tag 11 7 = s.boot.modnum →
      ((∀ g ∈ s.grants, g.op ≠ rimOp k tk) → exec .rimPortSend s = .next s) ∧
      ((∃ g ∈ s.grants, g.op = rimOp k tk) → getT s.rim ((tk % 128 - 0x40) * 128 + i.y0 + tk / 128) = some (k / 8) → 0x40 ≤ tk % 128 → 0 < t.demandOf 23 →
        let j := i.take tk 15
        exec .rimPortSend s = .next { (s.setInst k j).setInst k (j.put tk 23 (.narrow v 0)) with
          grants := s.grants.filter fun g => decide (g.op ≠ rimOp k tk) })) ∧
    ((tag % 32 ≠ 1 ∨ s.pod.contains (fld tag 11 7) = false) → bit x.fmask 0x03 = false → ∃ u j t' fr, exec .rimPortSend s = .next u ∧
      u.inst k = some j ∧ getT j.tiles tk = some t' ∧ t'.frozen = some fr ∧ fr.code = 0x03))

/-- R339, R340: a grant round visits each partition with demand once, beginning after the one visited first in the round
before, and remembers the first; each visit grants one unit. What other modules demand the turn says (log entry 1), and a grant for what no
source asks any more has lapsed. -/
def Sys2Proof.Claim.GrantRoundsVisitEveryDemandOnce : Prop :=
  ∀ (s : State) (n p : Nat), s.arg 0 = n → p < 12 → getT s.rot n = some p →
    let r := recvOf n
    let u := pruneGrants s r
    let units (t : State) (q : Nat) : Nat := ((t.grants.filter fun g => decide (g.recv = r.num) && decide (g.part = q)).map Grant.units).sum
    let order := ((List.range 12).map fun j => (p + 1 + j) % 12).filter fun q => (List.range 4).any fun c => demands u r q c
    (∀ g, g ∈ u.grants ↔ g ∈ s.grants ∧ (g.recv ≠ r.num ∨ g.op = 0 ∨ ∃ a ∈ asksAt s r g.part, g.names r.num g.part a = true)) ∧
    (order = [] → exec .grantRound s = .next u) ∧
    ∀ q l, order = q :: l → ∃ t, exec .grantRound s = .next t ∧ getT t.rot n = some q ∧ t.mem = s.mem ∧
      (∀ j x, s.part j = some x → ∃ y, t.part j = some y ∧ { y with classPtr := x.classPtr } = x ∧
        (j ∉ order → y = x) ∧ (∀ r, r ≠ n → getTD y.classPtr r 0 = getTD x.classPtr r 0) ∧
        units t j = units u j + (if j ∈ order then 1 else 0))

/-- R38, R336 to R338, R340: Llynren links, arriving tokens and grant rounds.
exec answers a next state, under conditions on the state and the operands alone, for each of: linkStart, linkRekey, llynrenTokenArrival,
rimPortSend, grantRound. -/
def Obligations.LinksTokensAndGrantsComplete : Prop :=
  LinksAndArrivingTokensComplete ∧ GrantRoundsVisitEveryDemandOnce

/-- R39, R125, R133 to R135, R143: a doorbell under IDE enters its call or answers why not; stores to an enabled port
of a VF assemble packets in order, any other store to its window counts a drop, and IPSEQ starts its sequence anew.
That a doorbell is answered SVC_BUSY until boot has reached STAGE 15 is the model's reading (log entry 14). -/
def Sys2Proof.Claim.DoorbellsAndIngressStoresComplete : Prop :=
  (∀ (s : State) (port n addr : Nat) (v : Vf), s.ideUp port = true → getT s.vfs n = some v → v.hport = port → v.closing = none →
    let c : Call := { part := v.part, vf := some n, hport := port, va := addr }
    let answers (t : State) (code : Nat) : Out := .next { t with vfs := putT s.vfs n { v with status := code } }
    (blockGa s c = none → exec (.serviceDoorbell port (some n) addr) s = answers s 1) ∧
    ((blockGa s c).isSome = true → (64 ≤ (s.callList v.part).length ∨ s.boot.stage ≠ 15) →
      exec (.serviceDoorbell port (some n) addr) s = answers s 2) ∧
    ((blockGa s c).isSome = true → (s.callList v.part).length < 64 → s.boot.stage = 15 →
      exec (.serviceDoorbell port (some n) addr) s = answers { s with calls := putT s.calls v.part (s.callList v.part ++ [c]) } 0)) ∧
  (∀ (s : State) (port addr : Nat), s.ideUp port = true → addr % 64 = 0 → addr + 64 ≤ 2 ^ 45 → (s.callList 12).length < 64 → s.boot.stage = 15 →
    exec (.serviceDoorbell port none addr) s = .next { s with
      calls := putT s.calls 12 (s.callList 12 ++ [{ part := 12, host := true, hport := port, va := addr }])
      hports := putT s.hports port { s.hport port with doorbell := 0 } }) ∧
  (∀ (s : State) (hport port offset value : Nat) (data : List Nat) (v : Vf), getT s.vfs (port / 4) = some v → v.hport = hport →
    port % 4 < v.nports → v.closing = none → s.ideUp hport = true →
    let x := s.port port
    let stores (y : IPort) : Prop := exec (.ingressStore hport port offset data) s = .next { s with ports := putT s.ports port y }
    ((16 ≤ x.full.length ∨ 64 ≤ offset) → exec (.ingressStore hport port offset data) s = .next s) ∧
    (x.full.length < 16 → data.length = 64 → offset = 0 → x.toks = [] → stores { x with full := x.full ++ [wordsOfBytes data] }) ∧
    (x.full.length < 16 → offset < 64 → data.length = 8 → offset = 8 * x.toks.length →
      let w := (wordsOfBytes data).getD 0 0
      (x.toks.length ≠ 7 → stores { x with toks := x.toks ++ [w] }) ∧
      (x.toks.length = 7 → stores { x with toks := [], full := x.full ++ [x.toks ++ [w]] })) ∧
    (x.full.length < 16 → data.length = 8 → offset = 0 → x.toks ≠ [] →
      stores { x with toks := [(wordsOfBytes data).getD 0 0], drops := min (x.drops + 1) 0xFFFF }) ∧
    (x.full.length < 16 → offset < 64 → (data.length = 8 → offset ≠ 0 ∧ offset ≠ 8 * x.toks.length) →
      (data.length = 64 → offset ≠ 0 ∨ x.toks ≠ []) → stores { x with drops := min (x.drops + 1) 0xFFFF }) ∧
    exec (.ipseqWrite hport port value) s = .next { s with ports := putT s.ports port { x with eseq := value % 2 ^ 32, toks := [], drops := 0 } })

/-- R131, R132, R135, R137, R138, R141, R142: a complete packet in sequence joins the placement queue under its binding or
parks; one out of sequence or with a reserved bit is completed with its status; a child skips the sequence (one whose
CGA can receive no record is discarded, the model's choice, log entry 50); a parked packet
that nothing binds in time is completed with status 1. -/
def Sys2Proof.Claim.PacketsAreAcceptedParkedOrCompleted : Prop :=
  (∀ (s : State) (n : Nat) (v : Vf) (y : Part) (w : List Word) (l : List (List Word)), s.arg 0 = n → getT s.vfs (n / 4) = some v →
    s.ideUp v.hport = true → (s.port n).full = w :: l → s.part v.part = some y → y.queue.length < 1024 →
    let x := s.port n
    let pk := mkPacket w (n / 4) false
    let t (e : Nat) : State := s.setPort n { x with full := l, eseq := e % 2 ^ 32 }
    (pk.rsv = none → cgaOk pk.cga = true → pk.seq = x.eseq →
      (∀ b, getT v.table pk.cfg = some b → exec .packetAcceptance s =
        .next ((t (pk.seq + 1)).setPart v.part { y with queue := enqueue { pk with bind := some b } y.queue })) ∧
      (getT v.table pk.cfg = none → v.park.length < 256 → exec .packetAcceptance s =
        .next { (t (pk.seq + 1)) with vfs := putT s.vfs (n / 4) { v with park := v.park ++ [{ pk with until_ := s.cyc + v.timeout }] } }) ∧
      (getT v.table pk.cfg = none → 256 ≤ v.park.length → exec .packetAcceptance s = .next (packetDone (t (pk.seq + 1)) pk 1 0))) ∧
    (pk.rsv = none → cgaOk pk.cga = true → pk.seq ≠ x.eseq → exec .packetAcceptance s = .next (packetDone (t (pk.seq + 1)) pk 4 (x.eseq % 256))) ∧
    (∀ k, pk.rsv = some k → cgaOk pk.cga = true → exec .packetAcceptance s = .next (packetDone (t (x.eseq + 1)) pk 3 k)) ∧
    (cgaOk pk.cga = false → exec .packetAcceptance s =
      .next (s.setPort n { x with full := l, eseq := (x.eseq + 1) % 2 ^ 32, drops := min (x.drops + 1) 0xFFFF }))) ∧
  (∀ (s : State) (n : Nat) (v : Vf) (y : Part) (pk : Packet) (l : List Packet), s.arg 0 = n → getT s.vfs n = some v → v.kids = pk :: l → pk.vf = n →
    s.part v.part = some y → y.queue.length < 1024 → v.closing = none →
    let t := { s with vfs := putT s.vfs n { v with kids := l } }
    (cgaOk pk.cga = true → pk.rsv = none → ∀ b, getT v.table pk.cfg = some b →
      exec .childAcceptance s = .next (t.setPart v.part { y with queue := enqueue { pk with bind := some b } y.queue })) ∧
    (cgaOk pk.cga = true → ∀ k, pk.rsv = some k → exec .childAcceptance s = .next (packetEnds t pk 3 k)) ∧
    (cgaOk pk.cga = false → exec .childAcceptance s = .next (childGone t pk.par))) ∧
  (∀ (s : State) (n : Nat) (v : Vf) (q : Packet), s.arg 0 = n → getT s.vfs n = some v →
    (v.park.find? fun q => q.bind.isNone && decide (q.until_ ≤ s.cyc)) = some q →
    exec .bindingTimeout s = .next (packetEnds
      { s with vfs := putT s.vfs n { v with park := delFirst (fun q => q.bind.isNone && decide (q.until_ ≤ s.cyc)) v.park } } q 1 0))

/-- R125, R131 to R135, R137, R138, R141 to R143: doorbells, ingress stores and the packets they make.
exec answers a next state, under conditions on the state and the operands alone, for each of: serviceDoorbell, ingressStore, ipseqWrite,
packetAcceptance, bindingTimeout, childAcceptance. -/
def Obligations.DoorbellsAndPacketsComplete : Prop :=
  DoorbellsAndIngressStoresComplete ∧ PacketsAreAcceptedParkedOrCompleted

/-- R85, R131, R155 to R158, R402 to R405: the head of a placement queue takes an idle instance of its binding, or loads a
fresh one into a ready slot; once its last tile has left gating and the injection queue has room its ENTRY record becomes runnable, or a
preloaded one is idle; an instance that is complete writes its record and unloads, or stays idle. -/
def Sys2Proof.Claim.PlacementsStartsAndCompletions : Prop :=
  (∀ (s : State) (p k : Nat) (x : Part) (pk : Packet) (l : List Packet) (b : Binding), s.arg 0 = p → s.part p = some x → x.queue = pk :: l →
    pk.bind = some b → placementWaits s p x = false →
    let fits (k : Nat) : Bool := match s.inst (p * 8 + k) with
      | some i => decide (i.phase = .idle) && decide (i.cfg = pk.cfg) && decide (i.bindId = b.id)
      | none => false
    (k < x.occs → fits k = true → (∀ j, j < k → fits j = false) →
      (x.entryRoom = true → x.front = none → exec .placement s = .next (unpark (reuse s p k { x with queue := l } pk) p)) ∧
      (x.entryRoom = false ∨ x.front.isSome = true → exec .placement s = .next s)) ∧
    ((∀ j, j < x.occs → fits j = false) → ∀ t, place s p b = .ready t k → ∀ y, t.part p = some y →
      exec .placement s = .next (unpark (loadInst t p k { y with queue := l } b pk false) p))) ∧
  (∀ (s : State) (k : Nat) (i : Inst), s.arg 0 = k → s.inst k = some i → i.phase = .loading →
    (∀ t ∈ i.tiles, t.2.woken = true ∧ t.2.takesAt ≤ s.cyc) →
    (i.keep = true → exec .instanceStart s = .next (s.setInst k { i with phase := .idle, idleAt := s.cyc })) ∧
    (i.keep = false → ∀ x, s.part (k / 8) = some x →
      (x.entryRoom = true → exec .instanceStart s = .next (runnable (s.setInst k { i with phase := .running }) (k / 8) none (entryRec i))) ∧
      (x.entryRoom = false → exec .instanceStart s = .next s))) ∧
  (∀ (s : State) (k : Nat) (i : Inst) (x : Part), s.arg 0 = k → s.inst k = some i → s.part (k / 8) = some x → complete_ s (k / 8) x i = true →
    let u := childGone (complRecord ((s.setPart (k / 8) { x with caravans := x.caravans.filter fun c => decide (c.2.inst ≠ i.num) }).setInst k
      { i with tiles := mapT (fun _ t => { t with stash := [] }) i.tiles, lines := [], ctreqs := [] }) i.cga i.cval 0 0 i.num) i.parent
    ((i.keep = false ∨ isCurrent u i = false) → exec .instanceComplete s = .next (unload u k)) ∧
    (i.keep = true → isCurrent u i = true → exec .instanceComplete s = .next (u.modInst k fun j => { j with phase := .idle, idleAt := s.cyc, parent := none })) ∧
    (∀ ga, i.cga = some ga → i.parent = none → gaKind ga ≠ 2 → s.moves = [] → s.mons = [] → s.compls = [] → s.shut ga 16 = false → cgaOk ga = true → oasisLost s ga = false →
      u.mem = memPuts s.mem ga (toBytes 8 i.cval.toNat ++ toBytes 8 (i.num * 2 ^ 32))))

/-- R42, R138, R155 to R158, R165, R389, R404: an instance that is loaded has the next serial of its partition, stands at its origin with the
tiles of its image loaded, and leaves everything else as it is; an idle instance that serves a packet is running under the
next serial with its registers, panels, accumulators and SRAM kept, its channels as at load, and its ENTRY record in the injection queue; a packet
enters the placement queue behind those of its priority, and one that is parked and bound enters when there is room. -/
def Sys2Proof.Claim.LoadedAndReusedInstances : Prop :=
  (∀ (s : State) (p k : Nat) (x : Part) (b : Binding) (pk : Packet) (keep : Bool),
    let t := loadInst s p k x b pk keep
    let num := p * 2 ^ 28 + k * 2 ^ 25 + x.serial % 2 ^ 25
    (∃ i, t.inst (p * 8 + k) = some i ∧ i.num = num ∧ i.phase = .loading ∧ i.keep = keep ∧ i.part = p ∧ i.occ = k ∧ i.vf = pk.vf ∧ i.cfg = pk.cfg ∧
      i.bindId = b.id ∧ i.img = b.img ∧ (i.x0, i.y0) = originOf x b.img ∧ i.argva = pk.argva ∧ i.cval = pk.cval ∧ i.parent = pk.par ∧
      i.cga = (if keep then none else some pk.cga) ∧ i.kids = 0 ∧ i.links = [] ∧
      ∀ tk f, getT b.img.frames tk = some f → tk < 2 ^ 14 → ∃ u, getT i.tiles tk = some u ∧ (x.cur ≠ k → u.woken = false) ∧
        (tk % 128 < 0x40 → u.woken = false) ∧ u.chains = startChains b.img tk ∧ u.demand = startDemand b.img tk ∧
        (b.img.kind tk = 0 → u.prec = fld (b.img.frame 27 tk) 19 0) ∧
        (b.img.kind tk = 1 → u.limit = fld (b.img.frame 27 tk) 223 192 ∧
          u.sram = (b.img.preload tk).foldl (fun m f => memWrite m f.1 32 f.2) [])) ∧
    t.part p = some { x with serial := (x.serial + 1) % 2 ^ 25, sliceBpc := if x.cur = k then 0 else x.sliceBpc } ∧
    (∀ j, j ≠ p * 8 + k → t.inst j = s.inst j) ∧ (∀ j, j ≠ p → t.part j = s.part j) ∧ t.mem = s.mem ∧ t.cores = s.cores) ∧
  (∀ (s : State) (p k : Nat) (x : Part) (pk : Packet) (i : Inst), s.inst (p * 8 + k) = some i → x.entryRoom = true →
    let t := reuse s p k x pk
    ∃ j, t.inst (p * 8 + k) = some j ∧ j.num = p * 2 ^ 28 + k * 2 ^ 25 + x.serial % 2 ^ 25 ∧ j.phase = .running ∧ j.keep = false ∧
      j.vf = pk.vf ∧ j.cfg = pk.cfg ∧ j.argva = pk.argva ∧ j.cga = some pk.cga ∧ j.cval = pk.cval ∧ j.parent = pk.par ∧ j.kids = 0 ∧ j.links = [] ∧
      j.img = i.img ∧ (j.x0, j.y0) = (i.x0, i.y0) ∧
      (∀ tk u, getT i.tiles tk = some u → getT j.tiles tk = some { u with
        fifo := primeFifos i.img tk (List.range 24) 0, demand := startDemand i.img tk, chains := startChains i.img tk, saved := [], kv := [] }) ∧
      t.part p = some { x with serial := (x.serial + 1) % 2 ^ 25, inj := x.inj ++ [entryRec j] } ∧
      (∀ a, a ≠ p * 8 + k → t.inst a = s.inst a) ∧ t.mem = s.mem ∧ t.cores = s.cores) ∧
  (∀ (pk : Packet) (l : List Packet),
    enqueue pk l = l.takeWhile (fun q => decide (pk.prio ≤ q.prio)) ++ pk :: l.dropWhile (fun q => decide (pk.prio ≤ q.prio))) ∧
  (∀ (s : State) (p : Nat), (∀ e ∈ s.vfs, getT s.vfs e.1 = some e.2) → (∀ v ∈ s.vfs, v.2.part = p → ∀ q ∈ v.2.park, q.bind = none) →
    unpark s p = s) ∧
  (∀ (s : State) (p : Nat) (x : Part), (∀ e ∈ s.vfs, getT s.vfs e.1 = some e.2) → s.part p = some x → 1024 ≤ x.queue.length → unpark s p = s) ∧
  (∀ (s : State) (n : Nat) (v : Vf) (x : Part) (q : Packet) (l : List Packet), s.vfs = [(n, v)] → s.part v.part = some x → x.queue.length < 1024 →
    v.park = q :: l → q.bind.isSome = true → (∀ r ∈ l, r.bind = none) →
    unpark s v.part = { s with vfs := [(n, { v with park := l })] }.setPart v.part { x with queue := enqueue q x.queue })

/-- R42, R85, R131, R138, R155 to R158, R389, R402 to R405: placement, loading, reuse, start and completion.
exec answers a next state, under conditions on the state and the operands alone, for each of: placement, instanceStart, instanceComplete. -/
def Obligations.InstancesArePlacedStartAndComplete : Prop :=
  PlacementsStartsAndCompletions ∧ LoadedAndReusedInstances

/-- R126, R271, R378: a host access of HBM behind its port is served at the home and answered; a snoop returns the data of
a half, leaves it Shared or Invalid or as it was, and changes no byte of memory but those that the host stores in a half it
has taken (log entry 9: the turn says which); a recall gives up a stash copy. A port without IDE serves no snoop (R39). -/
def Sys2Proof.Claim.HostAccessesSnoopsAndRecallsComplete : Prop :=
  (∀ (s : State) (port ga n v : Nat), s.ideUp port = true → gaKind ga = 0 → gaModule ga = s.boot.modnum → s.shut ga n = false →
    gaKind (fwdGa s ga) = 0 →
    ((∀ g, g < fwdGa s ga + n → fwdGa s ga < g + 128 → s.hostBias g = true) → exec (.hostMemoryAccess port ga n none) s = .next { s with
      hports := putT s.hports port { s.hport port with out := (s.hport port).out ++ [memGets s.mem (fwdGa s ga) n] } }) ∧
    (∃ t, exec (.hostMemoryAccess port ga n none) s = .next t ∧ t.mem = s.mem ∧
      t.hports = putT s.hports port { s.hport port with out := (s.hport port).out ++ [memGets s.mem (fwdGa s ga) n] }) ∧
    ∃ t, exec (.hostMemoryAccess port ga n (some v)) s = .next t ∧ t.mem = memPuts s.mem (fwdGa s ga) (toBytes n v) ∧ t.hports = s.hports) ∧
  (∀ (s : State) (h : Nat),
    let port := if bit (h * 64) 45 then 1 else 0
    let once : Prop := ((s.l2 (gaDie (h * 64))).filter fun y => decide (y.ga = h / 16 * 1024)).length ≤ 1
    let data := memGets s.mem (h * 64) 64
    let answered (t : State) : Prop := t.mem = s.mem ∧ t.hports = putT s.hports port { s.hport port with out := (s.hport port).out ++ [data] }
    (s.ideUp port = false → exec (.snpData h) s = .next s ∧ exec (.snpInv h) s = .next s ∧ exec (.snpCur h) s = .next s) ∧
    (s.ideUp port = true →
    (∃ t, exec (.snpData h) s = .next t ∧ answered t ∧ (once → halfGet t h = min 1 (halfGet s h)) ∧ t.mons = s.mons) ∧
    (∃ t, exec (.snpInv h) s = .next t ∧ t.hports = s.hports ∧ (once → halfGet t h = 0) ∧
      t.mem = if s.arg 0 % 2 = 1 ∧ (gaKind (h * 64) = 4 ∨ s.hostBias (h * 64) = true) then memPuts s.mem (h * 64) (toBytes 64 (s.arg 1)) else s.mem) ∧
    (∃ t, exec (.snpCur h) s = .next t ∧ answered t ∧ t.caches = s.caches ∧ t.mons = s.mons))) ∧
  (∀ (s : State) (k tk bank sector : Nat) (i : Inst) (t : Tile), s.sched.args = [k, tk, bank, sector] → s.inst k = some i → getT i.tiles tk = some t →
    exec .stashRecall s = .next (s.setInst k (i.setTile tk { t with stash := delT t.stash (bank * 512 + sector) })))

/-- R297, R298: a host load of an alias window answers the frame's bytes of the visible window and zeros elsewhere, which
it counts; a store is performed inside the stream's window and else discarded and counted, byte by byte where each byte's
frame lies; outside every window loads read as zeros; the control page reads the
stream's pointers, commits through CREST and releases through the toe of the VF's own slot. -/
def Sys2Proof.Claim.AliasWindowsAndControlPagesComplete : Prop :=
  (∀ (s : State) (vf off n data : Nat) (v : Vf), getT s.vfs vf = some v →
    (s.ideUp v.hport = true → findWindow v.windows off = none → exec (.aliasStore vf off n data) s = .next s ∧
      exec (.aliasLoad vf off n) s = .next { s with
        hports := putT s.hports v.hport { s.hport v.hport with out := (s.hport v.hport).out ++ [List.replicate n 0] } }) ∧
    (s.ideUp v.hport = false → exec (.aliasStore vf off n data) s = .next s ∧ exec (.aliasLoad vf off n) s = .next s)) ∧
  ∀ (s : State) (vf off n data : Nat) (v : Vf) (w : Window) (x : Machine.Stream), getT s.vfs vf = some v → s.ideUp v.hport = true →
    findWindow v.windows off = some w → s.stream v.part w.stream = some x → x.bk ≠ 0 → streamDown s v.part x = none →
    noKey s v.part x.fbase = false → s.remoteStream x = false →
    let answered (t : State) (bs : List Byte) : State := { t with
      hports := putT t.hports v.hport { t.hport v.hport with out := (t.hport v.hport).out ++ [bs] } }
    let put (y : Machine.Stream) : State := s.setStream v.part w.stream y
    let reads (o r : Nat) : Prop := off = w.offset + o → exec (.aliasLoad vf off n) s = .next (answered s (toBytes n r))
    let inWindow (start o : Nat) : Prop := sdist o start < w.size ∧ o < 2 ^ 48 ∧ o % w.size = (off - w.offset) % w.size
    (w.ctl = false → (∃ e, w.size = 2 ^ e ∧ e ≤ 47) →
      (hostSlot x.slots vf = none → exec (.aliasLoad vf off n) s = .next (answered (put { x with lzero := min (x.lzero + 1) (2 ^ 32 - 1) }) (List.replicate n 0))) ∧
      (∀ k, hostSlot x.slots vf = some k → (x.slot k).toe < 2 ^ 48 → ∃ o, inWindow (x.slot k).toe o ∧
        (behind o (x.slot k).toe = false → atOrBefore (o + n) (x.vc k) = true → (∀ i, i < n → s.shut (x.addr ((o + i) % 2 ^ 48)) 1 = false) →
          exec (.aliasLoad vf off n) s = .next (answered s ((List.range n).map fun i => memGet s.mem (x.addr ((o + i) % 2 ^ 48))))) ∧
        (atOrBefore (o + n) (x.vc k) = false →
          exec (.aliasLoad vf off n) s = .next (answered (put { x with lzero := min (x.lzero + 1) (2 ^ 32 - 1) }) (List.replicate n 0)))) ∧
      (x.stoe < 2 ^ 48 → ∃ o, inWindow x.stoe o ∧
        (behind o x.stoe = false → atOrBefore (o + n) x.wend = true → (∀ i, i < n → s.shut (x.addr ((o + i) % 2 ^ 48)) 1 = false) →
          ∃ t, exec (.aliasStore vf off n data) s = .next t ∧
            t.mem = ((toBytes n data).foldl (fun a b => (memPuts a.1 (x.addr (a.2 % 2 ^ 48)) [b], a.2 + 1)) (s.mem, o)).1) ∧
        (atOrBefore (o + n) x.wend = false →
          exec (.aliasStore vf off n data) s = .next (put { x with sdisc := min (x.sdisc + 1) (2 ^ 32 - 1) })))) ∧
    (w.ctl = true →
      reads 0 x.crest ∧ reads 8 x.stoe ∧ reads 0x10 x.wend ∧ reads 0x18 (x.lzero * 2 ^ 32 + x.sdisc) ∧ reads 0x20 0 ∧
      (∀ k, k < 8 → reads (0x40 + 16 * k) (x.slot k).toe ∧ reads (0x48 + 16 * k) (x.vc k)) ∧
      (w ∈ v.windows → x.waits = [] → x.held = [] →
        (∀ c, c < 2 ^ 48 →
          (behind c x.crest = true → exec (.crestWrite vf w.stream c) s = .next s) ∧
          (behind c x.crest = false → ahead c x.wend = true → exec (.crestWrite vf w.stream c) s = .next (put { x with sdisc := min (x.sdisc + 1) (2 ^ 32 - 1) })) ∧
          (behind c x.crest = false → ahead c x.wend = false → ∃ t y, exec (.crestWrite vf w.stream c) s = .next t ∧ t.stream v.part w.stream = some y ∧
            y.crest = c ∧ y.slots = x.slots ∧ y.fbase = x.fbase)) ∧
        (∀ k t, t < 2 ^ 48 →
          (hostSlot x.slots vf ≠ some k → exec (.toeWrite vf w.stream k t) s = .next (put { x with sdisc := min (x.sdisc + 1) (2 ^ 32 - 1) })) ∧
          (hostSlot x.slots vf = some k → ahead t (x.slot k).toe = true → atOrBefore t (x.vc k) = true →
            ∃ u y, exec (.toeWrite vf w.stream k t) s = .next u ∧ u.stream v.part w.stream = some y ∧ (y.slot k).toe = t ∧ y.crest = x.crest)) ∧
        exec (.lzeroSdiscWrite vf w.stream) s = .next (put { x with lzero := 0, sdisc := 0 })))

/-- R126, R271, R297, R298, R378: what the host reads and writes.
exec answers a next state, under conditions on the state and the operands alone, for each of: hostMemoryAccess, snpData, snpInv, snpCur,
stashRecall, aliasLoad, aliasStore, crestWrite, toeWrite, lzeroSdiscWrite. -/
def Obligations.HostAccessesComplete : Prop :=
  HostAccessesSnoopsAndRecallsComplete ∧ AliasWindowsAndControlPagesComplete

/-- R71, R311 to R313, R315: a load pattern takes a base against which its chain gains a start; it issues one read for each
unit of demand, whose elements lie at the base plus the chain's index; the read returns the bytes of memory; and the
oldest complete read is converted and put, be the pattern frozen since. A misaligned base freezes the pattern with ALIGN. -/
def Sys2Proof.Claim.LoadPatternsComplete : Prop :=
  ∀ (s : State) (k tk j act : Nat) (i : Inst) (t : Tile) (f : Fmt) (x : Part), OnPattern s k tk j act i t f → s.part (k / 8) = some x →
    let w := i.img.pat tk j
    let p := t.pat j
    let pb := 8 + 2 * j
    let c := getTD t.chains (patChain w) {}
    let e := i.img.stepElem tk (patChain w) c
    (∀ b tag q, p.base = none → p.frozen = none → c.pending < 15 → t.fifoOf pb = .narrow b tag :: q →
      (f.block = false → ∃ u t', exec .patternBaseTake s = .next u ∧ t'.fifoOf pb = q ∧
        getTD t'.chains (patChain w) {} = { c with pending := c.pending + 1 } ∧
        PatternIs u k tk j t' { p with base := some b, scale := (t.fifoOf (pb + 1)).head?.elim 0 Tok.word, tag := tag % 4096, run := p.run + 1, bpos := 0, headed := false }) ∧
      (∀ y q', f.block = true → t.fifoOf (pb + 1) = y :: q' → ∃ u t', exec .patternBaseTake s = .next u ∧ t'.fifoOf pb = q ∧ t'.fifoOf (pb + 1) = q' ∧
        getTD t'.chains (patChain w) {} = { c with pending := c.pending + 1 } ∧
        PatternIs u k tk j t' { p with base := some b, scale := y.word, tag := tag % 4096, run := p.run + 1, bpos := 0, headed := false })) ∧
    (∀ b, patStore w = false → f.block = false → Steps i tk j t b → p.accs.length < t.demandOf (patPort w) →
      (b.toNat % (f.bits / 8) = 0 → ∃ u t' a, exec .patternLoadStep s = .next u ∧ u.mem = s.mem ∧
        a.va = elemVa b e f.bits ∧ a.n = 8 * f.bits ∧ a.data = none ∧ a.last = (c.step i.img tk (patChain w) 0).2 ∧
        getTD t'.chains (patChain w) {} = (c.step i.img tk (patChain w) 0).1 ∧
        ∃ p', PatternIs u k tk j t' p' ∧ p'.accs = p.accs ++ [a] ∧
          (a.last = false → p'.base = some b ∧ p'.ends = p.ends) ∧ (a.last = true → p'.base = none ∧ p'.ends = p.ends ++ [p.run])) ∧
      (b.toNat % (f.bits / 8) ≠ 0 → bit x.fmask 0x02 = false → ∃ u t' p' fr, exec .patternLoadStep s = .next u ∧
        PatternIs u k tk j t' p' ∧ p'.frozen = some fr ∧ fr.code = 0x02)) ∧
    (∀ a va n ga, patStore w = false → p.stuck = none → p.accs = [a] → a.head = false → a.data = none → a.eddy = false → a.op ∉ p.bad → t.eddy = [] → patDom w = 0 →
      a.va = va → a.n = n → Plain s x va n ga false → atStream s (k / 8) a.op = false →
      ∃ u t', exec .patternReadReturn s = .next u ∧ u.mem = s.mem ∧ PatternIs u k tk j t' { p with accs := [{ a with data := some (memRead s.mem ga n) }] }) ∧
    (∀ a l v, patStore w = false → f.block = false → p.accs = a :: l → a.head = false → a.data = some v → a.eddy = false → 0 < t.demandOf (patPort w) →
      ∃ u i' t', exec .patternReadReturn s = .next u ∧ u.mem = s.mem ∧ u.inst k = some i' ∧
        PatternIs u k tk j t' { p with accs := l, dpos := p.dpos + 1 } ∧
        (getTD i'.links (epCh (i.img.ep tk (patPort w))) {}).fwd = (getTD i.links (epCh (i.img.ep tk (patPort w))) {}).fwd ++
          [.tok (.wide (Vector.ofFn fun m =>
            let y := v / 2 ^ (m.val * f.bits) % 2 ^ f.bits
            if patRaw w then loadRaw f y else loadElem f 0 y) (if a.last then 2 else 0))])

/-- R67, R72, R311, R314: a store pattern takes a token when it holds a base, converts its lanes and issues their store at
the step's address, modulo 2^64; an issued store writes its bytes; and once every access of a run is performed, the chain's DONE goes
out, what it wrote to oasis having left for its mirror. -/
def Sys2Proof.Claim.StorePatternsComplete : Prop :=
  ∀ (s : State) (k tk j act : Nat) (i : Inst) (t : Tile) (f : Fmt) (x : Part), OnPattern s k tk j act i t f → s.part (k / 8) = some x →
    let w := i.img.pat tk j
    let p := t.pat j
    let c := getTD t.chains (patChain w) {}
    let e := i.img.stepElem tk (patChain w) c
    (∀ b y q, patStore w = true → act = 0 → p.base = some b → p.frozen = none → p.latch = none → t.fifoOf (patPort w) = y :: q →
      ∃ u t', exec .patternStoreStep s = .next u ∧ t'.fifoOf (patPort w) = q ∧
        PatternIs u k tk j t' (if y.mark % 2 = 1 then { p with head := if y.mark = 3 then none else some y.lanes, dpos := 0 } else { p with latch := some y })) ∧
    (∀ b y, patStore w = true → f.block = false → act = 0 → Steps i tk j t b → p.latch = some y → patRnd w = 0 → patRaw w = false →
      b.toNat % (f.bits / 8) = 0 → ∃ u t' p' a, exec .patternStoreStep s = .next u ∧ u.mem = s.mem ∧ PatternIs u k tk j t' p' ∧
        p'.accs = p.accs ++ [a] ∧ p'.latch = none ∧ a.va = elemVa b e f.bits ∧ a.n = 8 * f.bits ∧ a.blocks = [] ∧
        a.data = some (Chunk.codesNat (y.lanes.toList.map fun z => (storeElem f (.det .rne) z).code) f.bits)) ∧
    (∀ a ga v, patStore w = true → act = 1 → p.stuck = none → p.accs = [a] → a.stage = 0 → a.blocks = [] → a.data = some v → a.eddy = false →
      a.op ∉ p.bad → t.eddy = [] → patDom w = 0 → Plain s x a.va a.n ga true → atStream s (k / 8) a.op = false →
      ∃ u t', exec .patternStoreStep s = .next u ∧ u.mem = memPuts s.mem ga (toBytes a.n v) ∧ PatternIs u k tk j t' { p with accs := [] }) ∧
    (∀ r l, p.ends = r :: l → (∀ a ∈ p.accs, a.run ≠ r) → mirrorOwed s (k / 8) = false →
      let i' := i.setTile tk (t.setPat j { p with ends := l })
      let d := i.img.chainDone tk (patChain w)
      (d = 15 → exec .patternRunEnd s = .next (s.setInst k i')) ∧
      (d ≠ 15 → exec .patternRunEnd s = .next (s.setInst k { i' with
        lineMsgs := i.lineMsgs ++ (lineTiles i' d).map (fun n => (d, some n)) ++ [(d, none)] })))

/-- R311 to R315: the steps of load and store patterns.
exec answers a next state, under conditions on the state and the operands alone, for each of: patternBaseTake, patternLoadStep,
patternReadReturn, patternStoreStep, patternRunEnd. -/
def Obligations.AccessPatternsComplete : Prop :=
  LoadPatternsComplete ∧ StorePatternsComplete

/-- R300, R380: when a stream's waiting accesses have waited through 2^STALLE cycles in which nothing of it moved, they fault
with STREAM_STALL and its pointers, and none waits any more.
exec answers a next state, under conditions on the state and the operands alone, for each of: streamStallTimeout. -/
def Obligations.StalledStreamAccessesFault : Prop :=
  ∀ (s : State) (p n : Nat) (x : Machine.Stream) (w : StreamWait) (q : Pend), s.sched.args = [p, n] → s.stream p n = some x → x.waits = [w] → x.held = [] →
    s.remoteStream x = false → w.via = none → s.pend w.op = some q → x.stalle ≠ 0 → x.moved + 2 ^ x.stalle ≤ s.cyc →
    (w.since + 2 ^ x.stalle ≤ s.cyc → ∃ u f, exec .streamStallTimeout s = .next u ∧ u.pend w.op = some { q with st := .faulted f } ∧
      f.code = 0x06 ∧ f.detail = n ∧ f.ext.take 2 = [BitVec.ofNat 64 x.crest, BitVec.ofNat 64 x.stoe] ∧ u.mem = s.mem ∧
      u.stream p n = some { x with waits := [], moved := s.cyc }) ∧
    (s.cyc < w.since + 2 ^ x.stalle → exec .streamStallTimeout s = .next s)

/-- R206, R318 to R320, R322, R324: an A-tile accepts a run's commands in order, and one with RND = 4 takes the tokens of its random words then
(log entry 25). Elements move one by one in the order of rows and columns; row r and element c of a side lie at its base plus r × pitch + c elements.
An element of memory is read from its place and one of a vs port (SOUT) is taken; an element of a panel row waits until the row is whole; under RND = 4 each
takes its own random word. Then it is converted unless both formats are one (CPY), and delivered to the vk port or the accumulator (SIN), held for its
panel row (PLD), written to memory or combined at its home (RED), and nothing else of memory changes. -/
def Sys2Proof.Claim.EngineCommandsMoveElements : Prop :=
  (∀ (s : State) (c : Cmd) (i : Inst) (t : Tile) (x : Part), s.arg 0 = c.id → s.cmd c.id = some c → s.inst c.key = some i → i.num = c.num →
    getT i.tiles c.pos = some t → t.acted = false → t.woken = true → c.st = .issued → c.acc = false → s.part c.part = some x →
    (∀ d ∈ s.cmds, d.rid = c.rid → d.key = c.key → d.pos = c.pos → d.id < c.id → d.acc = true) →
    let a := s.edgeAt c.key c.pos
    let n := getTD x.srCtr a 0
    let rest := delFirst (fun d => decide (d.id = c.id)) s.cmds
    (c.rnd_ ≠ 4 → exec .commandArrival s = .next { s with cmds := rest ++ [{ c with acc := true, sr := 0 }] }) ∧
    (c.rnd_ = 4 → exec .commandArrival s = .next { s.setPart c.part { x with srCtr := putT x.srCtr a (n + (c.nrows * c.rlen + 63) / 64) } with
      cmds := rest ++ [{ c with acc := true, sr := n }] })) ∧
  (∀ (s : State) (c : Cmd) (i : Inst) (t : Tile) (x : Part), Moves s c i t x → c.chunk = none → c.r < c.nrows → c.rlen ≠ 0 → c.idx = none → c.srow = none →
    (c.op ≤ 3 ∨ c.op = 6) → c.curs = false → (c.op ≠ 1 → bit c.src.toNat 63 = false) → c.cur = none →
    let d : Cmd := if c.c + 1 < c.rlen then { c with c := c.c + 1 } else { c with r := c.r + 1, c := 0 }
    exec .commandArrival s = .next { s with cmds := [{ d with chunk := some { r := c.r, c := c.c, n := 1 } }] }) ∧
  (∀ (s : State) (c : Cmd) (i : Inst) (t : Tile) (x : Part) (k : Chunk), Moves s c i t x → c.chunk = some k → c.cur = none → k.n = 1 → k.idx = none →
    k.redo = false → k.inq = none →
    let src := elemVa c.src (k.r * c.spitch + k.c) (c.bits false)
    let dst := elemVa c.dst (k.r * c.dpitch + k.c) (c.bits true)
    let bs := c.bits false / 8
    let bd := c.bits true / 8
    let f := getTD (s.core c.core).ports (occOf c.num) {}
    let goes (k : Chunk) : Out := .next { s with cmds := [{ c with chunk := some k }] }
    let done : Cmd := { c with chunk := none }
    let ports (g : PortFile) (c' : Cmd) : Out := .next { s.setCore c.core { s.core c.core with ports := putT (s.core c.core).ports (occOf c.num) g } with cmds := [c'] }
    (∀ ga, (c.op = 0 ∨ c.op = 2 ∨ c.op = 3 ∨ c.op = 6) → k.codes = [] → k.outs = [] → c.gather = [] → bit c.src.toNat 63 = false → 8 ∣ c.bits false →
      0 < bs → c.src.toNat % bs = 0 → Plain s x src bs ga false →
      ∃ u, exec .commandArrival s = .next u ∧ u.mem = s.mem ∧ u.cmds = [{ c with chunk := some { k with codes := [memRead s.mem ga bs] } }]) ∧
    (∀ w q, c.op = 1 → k.codes = [] → k.outs = [] → getTD f.vs c.port [] = w :: q →
      exec .commandArrival s = ports { f with vs := putT f.vs c.port q } { c with chunk := some { k with codes := [w.toNat] } }) ∧
    (∀ v, k.whole = false → k.outs = [] → k.codes = [v] → (c.op ≠ 1 → bit c.src.toNat 63 = false) → c.block false = false →
      (c.op ≤ 3 → c.stream true = false → c.block true = false → exec .commandArrival s = goes { k with whole := true }) ∧
      (c.op = 6 → 1 < c.rlen → c.gather = [] → exec .commandArrival s = .next { s with
        cmds := [{ done with gather := [{ r := k.r, c := 0, n := c.rlen, vals := [(k.c, (v, k.scales.getD 0 0))] }] }] })) ∧
    (k.whole = true → k.outs = [] → k.codes.length = 1 → c.op ≤ 3 → c.rnd_ = 4 → k.rnd = [] → bit c.src.toNat 63 = false →
      let e := k.r * c.rlen + k.c
      let at_ := s.edgeAt c.key c.pos
      let tok := philoxToken x.srKey ((at_ * 2 ^ 96 + 16 * (c.sr + e / 64)) % 2 ^ 128)
      exec .commandArrival s = goes { k with rnd := [(tok.toList.map fun w => w.toNat % 2 ^ 32).getD (e % 64) 0] }) ∧
    (∀ v fm, c.op = 0 → k.whole = true → k.outs = [] → k.codes = [v] → fmtOf c.sfmt = some fm → c.raw = false → (c.rnd_ ≠ 4 ∨ 1 ≤ k.rnd.length) →
      bit c.src.toNat 63 = false →
      let w : Word := (loadElem fm (k.scales.getD 0 0) v).setWidth 64
      (c.flag = false → (getTD f.vk c.port []).length < 16 →
        exec .commandArrival s = ports { f with vk := putT f.vk c.port (getTD f.vk c.port [] ++ [w]) } done) ∧
      (c.flag = true → exec .commandArrival s = ports { f with ac := putT f.ac c.port ((getTD f.ac c.port {}).add w) } done)) ∧
    (∀ v fs fd, c.op = 2 → k.whole = true → k.outs = [] → k.codes = [v] → fmtOf c.sfmt = some fs → fmtOf c.dfmt = some fd → fd.block = false → 8 ∣ c.bits true →
      c.raw = false → c.rnd_ = 0 → bit c.src.toNat 63 = false → c.stream true = false → 0 < bd → c.dst.toNat % bd = 0 →
      let code := if c.sfmt = c.dfmt then v else (storeElem fd (.det .rne) (loadElem fs (k.scales.getD 0 0) v)).code
      ∃ u, exec .commandArrival s = .next u ∧ u.mem = s.mem ∧
        u.cmds = [{ c with chunk := some { k with outs := [{ c := k.c, va := dst, n := bd, v := code, m := 2 ^ (8 * bd) - 1 }] } }]) ∧
    (∀ o ga, k.outs = [o] → c.gather = [] → Plain s x o.va o.n ga true →
      ∃ u, exec .commandArrival s = .next u ∧ u.cmds = [done] ∧
        u.mem = memPuts s.mem ga (toBytes o.n (merge (o.m % 2 ^ (8 * o.n)) (o.v % 2 ^ (8 * o.n)) (memRead s.mem ga o.n)))) ∧
    (∀ v ga q, c.op = 3 → k.whole = true → k.outs = [] → k.codes = [v] → c.gather = [] → c.rnd_ ≠ 4 → bit c.src.toNat 63 = false → c.sfmt = 0 → 0 < bd →
      c.dst.toNat % bd = 0 → translate x dst true true = .ok (ga, q) → q.attr ≠ 1 → dst < 2 ^ 57 →
      gaKind ga = 0 → gaModule ga = s.boot.modnum → gaLegal ga = true → s.shut ga bd = false → s.moves = [] → s.bad = [] →
      ∃ u, exec .commandArrival s = .next u ∧ u.cmds = [done] ∧
        u.mem = memPuts s.mem ga (toBytes bd (redOp2 c.port (memRead s.mem ga bd) v)))) ∧
  (∀ (s : State) (c : Cmd) (i : Inst) (t : Tile) (x : Part) (k : Chunk) (fm : Fmt), Moves s c i t x → c.chunk = some k → k.redo = false → k.idx = none → c.op = 6 →
    k.whole = true → k.outs = [] → k.codes.length = k.n → (c.rnd_ ≠ 4 ∨ k.n ≤ k.rnd.length) → bit c.src.toNat 63 = false → c.cur = none →
    fmtOf c.sfmt = some fm → c.raw = false →
      exec .commandArrival s = .next { s with cmds := [{ c with
        chunk := none, rows := c.rows ++ [(k.r, Vector.ofFn fun j => loadElem fm (k.scales.getD j.val 0) (k.codes.getD j.val 0))] }] })

/-- R193, R199, R249, R250, R252, R318, R322, R323: a fill's reservation takes an EMPTY or READY slot, its rows are written in order, the
last makes it READY, and a follow-on then joins the matrix queue, or waits for room in it; a command whose every part is done leaves its
counter, and one that faulted reports it to its run. -/
def Sys2Proof.Claim.FillsAndCommandsComplete : Prop :=
  (∀ (s : State) (c : Cmd) (i : Inst) (t : Tile), s.arg 0 = c.id → s.cmds = [c] → s.inst c.key = some i → getT i.tiles c.target.1 = some t →
    t.acted = false → t.woken = true → c.op = 6 → c.acc = true → c.st = .issued →
    let n := c.target.2
    let p := t.panel n
    let tile (t' : Tile) (c' : Cmd) : Out := .next { s.setInst c.key (i.setTile c.target.1 t') with cmds := [c'] }
    (c.resv = false → (p.st = .empty ∨ p.st = .ready) →
      exec .fillReservation s = tile { t with panels := putT t.panels n { p with st := .fillE, cnt := 0 } } { c with resv := true }) ∧
    (c.resv = false → p.st ≠ .empty → p.st ≠ .ready → exec .fillReservation s = .next s) ∧
    (∀ r x l, c.resv = true → c.rows = (r, x) :: l →
      let p' : Panel := { p with rows := putT p.rows r x, st := if c.fill + 1 = 64 then .ready else p.st }
      let t' : Tile := { t with panels := putT t.panels n p' }
      let c' : Cmd := { c with rows := l, fill := c.fill + 1 }
      (c.desc = none ∨ c.fill < 63 → exec .fillRow s = tile t' c') ∧
      (∀ d, c.desc = some d → c.fill = 63 → t.fwait = [] →
        ((t.mq.filter fun e => !e.firing).length < 8 → exec .fillRow s = tile { t' with mq := t.mq ++ [{ op := .follow d n c.id, firing := false }] } c') ∧
        (8 ≤ (t.mq.filter fun e => !e.firing).length → exec .fillRow s = tile { t' with fwait := [c.id] } c')))) ∧
  (∀ (s : State) (c : Cmd) (r : Run), s.arg 0 = c.id → s.cmds = [c] → (s.core c.core).run = some r → r.rid = c.rid →
    let r' : Run := if c.op = 6 ∨ c.op = 7 then { r with pnc := r.pnc - 1 } else { r with cpc := r.cpc - 1 }
    (∀ i t, s.inst c.key = some i → i.num = c.num → getT i.tiles c.pos = some t → t.eddy = [] → c.st = .issued → c.acc = true →
      (c.nrows ≤ c.r ∨ c.rlen = 0) → c.chunk = none → c.back = [] → c.gather = [] → mirrorOwed s c.part = false → (c.op = 7 ∨ c.rows = []) → (c.op = 6 → c.fill = 64) → c.desc = none →
      exec .commandCompletion s = .next { s.setRun c.core (some r') with cmds := [] }) ∧
    (∀ v, c.st = .done v → exec .commandCompletion s = .next { s.setRun c.core (some r') with cmds := [] }) ∧
    (∀ f, c.st = .faulted f → r.defer = none →
      exec .commandCompletion s = .next { s.setRun c.core (some { r' with defer := some f }) with cmds := [] }))

/-- R249 to R252, R318 to R323: engine commands, panel fills and their completion.
exec answers a next state, under conditions on the state and the operands alone, for each of: commandArrival, commandCompletion,
fillReservation, fillRow. -/
def Obligations.EngineCommandsMoveAndComplete : Prop :=
  EngineCommandsMoveElements ∧ FillsAndCommandsComplete

/-- R165, R249, R251 to R254: the operation that entered a tile's matrix issue point first starts once none runs and every slot it reads is
READY, which it holds as DRAINING; when the array has read their last rows, its slots are READY again, and a word's products are those of the rows as they were
read, whatever fills them next. A word's operation then waits for its word to complete; a follow-on takes its effect and its command is done. -/
def Sys2Proof.Claim.MatrixOperationsPassThroughTheQueue : Prop :=
  (∀ (s : State) (k tk : Nat) (i : Inst) (t : Tile) (e : MEntry) (l : List MEntry), s.arg 0 = k → s.arg 1 = tk → s.inst k = some i →
    getT i.tiles tk = some t → t.mq = e :: l → (∀ m ∈ e :: l, m.started = false ∧ m.ended = false) → t.frozen = none → t.acted = false → t.woken = true →
    (∀ d sl c, e.op = .follow d sl c → followLegal d.toNat = true) →
    (∀ f, t.firing = some f → ∀ o ∈ e.op.opds, View.scratchBad ⟨k, tk, i, t, f, s.boot.modnum⟩ o = none) →
    ((∀ n ∈ e.op.slots, (t.panel n).st = .ready) → ∃ u i' t', exec .matrixOpStart s = .next u ∧ u.inst k = some i' ∧ getT i'.tiles tk = some t' ∧
      t'.mq = { e with started := true } :: l ∧ i'.bpc = i.bpc + e.op.products t * (precWA (e.op.prec t) * precWB (e.op.prec t)) ∧
      (∀ n, (t'.panel n).st = if n ∈ e.op.slots then .draining else (t.panel n).st) ∧ t'.banks = t.banks ∧ u.mem = s.mem) ∧
    ((∃ n ∈ e.op.slots, (t.panel n).st = .fillE ∨ (t.panel n).st = .draining) → exec .matrixOpStart s = .next s)) ∧
  (∀ (s : State) (k tk : Nat) (i : Inst) (t : Tile) (o : MOp) (fi : Bool) (l : List MEntry), s.arg 0 = k → s.arg 1 = tk → s.inst k = some i →
    getT i.tiles tk = some t → t.mq = { op := o, firing := fi, started := true } :: l →
    let t' : Tile := o.slots.foldl (fun t n => t.setPanel n { t.panel n with st := .ready }) t
    ((∀ d sl c, o ≠ .follow d sl c) → exec .matrixOpFinish s =
      .next { s.setInst k (i.setTile tk { t' with
          mq := { op := o, firing := fi, started := true, ended := true, sum := o.bank i tk s.sched.free t } :: l }) with
        sched := { s.sched with free := s.sched.free + 8192 } }) ∧
    (∀ d sl c y, o = .follow d sl c → t.fwait = [] → s.cmds = [y] → y.id = c → exec .matrixOpFinish s =
      .next { s.setInst k (i.setTile tk (o.finish none { t' with mq := l })) with
        sched := { s.sched with free := s.sched.free + 8192 }, cmds := [{ y with st := .done 0 }] }))

/-- R242, R247, R252, R256 to R260: what an operation leaves in its tile, from the rows as the array read them: a product adds, in every cell, its 64
partial products in order at the precision of PREC; a sparse one those of its token's entries, each of the next column of A with the row of B that it names; MZ clears a bank; MRD reads cells to the governed lanes; MANCH anchors every cell; SETPREC sets PREC; and a follow-on does
so at the precision its descriptor names, after clearing the bank, with its operands exchanged, and emptying its slot, where it asks for these. -/
def Sys2Proof.Claim.MatrixOperationsTakeTheirEffect : Prop :=
  ∀ (t : Tile) (i : Inst) (tk free : Nat) (o : MOp),
    let t' := o.finish (o.bank i tk free t) t
    let bank (t : Tile) (z : Nat) (n : Nat) : Cell := getTD (getTD t.banks z []) n {}
    let cell (pr : Nat) (x y : Mat) (r c : Nat) (b : Cell) : Cell :=
      (List.range 64).foldl (fun a n => a.acc (precIX pr) (product (precWA pr) (precWB pr) (x r n) (y n c))) b
    (∀ z a b, o = .mma z (.panel a) (.panel b) → ∀ r c, r < 64 → c < 64 →
      bank t' z (64 * r + c) = cell t.prec (t.panel a).mat (t.panel b).mat r c (bank t z (64 * r + c))) ∧
    (∀ z a b (tok : Word) (es : List Nat), o = .mmas z a b tok → (toBytes 8 tok.toNat).map (·.toNat) = es ++ List.replicate (8 - es.length) 0xFF →
      es.Pairwise (· < ·) → (∀ e ∈ es, e < 64 ∧ (t.cursor.kv = true → t.cursor.lastk < e)) → t.cursor.pos + es.length ≤ 64 →
      (∀ r c, r < 64 → c < 64 → bank t' z (64 * r + c) = (List.range es.length).foldl (fun x n => x.acc (precIX t.prec)
        (product (precWA t.prec) (precWB t.prec) ((t.panel a).mat r (t.cursor.pos + n)) ((t.panel b).mat (es.getD n 0) c))) (bank t z (64 * r + c))) ∧
      t'.cursor = { pos := t.cursor.pos + es.length, kv := t.cursor.kv || !es.isEmpty, lastk := es.getLastD t.cursor.lastk, stop := 0 }) ∧
    (∀ z, o = .mz z → ∀ n, bank t' z n = {}) ∧
    (∀ d z row m st, o = .mrd d z row m st → ∀ j : Fin 64, (getTD t'.v d zeroLanes)[j] =
      if m.getLsbD j.val then (if st then (bank t z (64 * row + j.val)).status else (bank t z (64 * row + j.val)).value (precRnd t.prec)) else (getTD t.v d zeroLanes)[j]) ∧
    (∀ z v p, o = .manch z v p → ∀ n, n < 4096 → bank t' z n = (bank t z n).anchor (precIX t.prec) p v.toNat) ∧
    (∀ v, o = .setprec v → t'.prec = v.toNat % 2 ^ 20 ∧ t'.banks = t.banks) ∧
    (∀ d sl c, o = .follow d sl c →
      let pr := if bit d.toNat 63 then fld d.toNat 59 40 else t.prec
      let x := (t.panel sl).mat
      let y := (t.panel (fld d.toNat 8 6)).mat
      t'.prec = pr ∧ (t'.panel sl).st = (if bit d.toNat 10 then .empty else (t.panel sl).st) ∧ ∀ r c, r < 64 → c < 64 →
        bank t' (d.toNat % 4) (64 * r + c) = cell pr (if bit d.toNat 9 then y else x) (if bit d.toNat 9 then x else y) r c
          (if bit d.toNat 11 then {} else bank t (d.toNat % 4) (64 * r + c)))

/-- R165, R242, R247, R249, R252, R253, R256 to R260: how matrix operations start and end, and what they leave.
exec answers a next state, under conditions on the state and the operands alone, for each of: matrixOpStart, matrixOpFinish. -/
def Obligations.MatrixOperationsStartAndFinish : Prop :=
  MatrixOperationsPassThroughTheQueue ∧ MatrixOperationsTakeTheirEffect

/-- R188, R189, R224, R279, R365, R368: at its home an access reads the bytes of memory, extended as its load says, or
writes its bytes; a plain load may be answered by a line of its die's fabric cache as it was filled; a synchronising load
takes a full word, and empties it unless it keeps it, or waits its turn, while the home has room for it; a read-modify-write returns the old word and writes the
new one. No other byte of memory changes. A load of a sector that holds a byte in error faults with ACCESS: that an error takes its whole
128-byte sector is the model's choice (log entry 44; R269 speaks of an error in the data that an access returns). -/
def Sys2Proof.Claim.AccessesArePerformedAtTheirHomes : Prop :=
  ∀ (s : State) (q : Pend), AtHome s q →
    let line := q.ga / 128 * 128
    let lineOf (y : FLine) : Bool := decide (y.part = q.part) && decide (y.ga = line)
    let extended (n : Nat) (sg : Bool) (v : Nat) : Word := if sg then BitVec.ofInt 64 ((BitVec.ofNat (8 * n) v).toInt) else BitVec.ofNat 64 v
    let goes (e : Out) (st : OpSt) (mem : List Host.Cell) : Prop := ∃ u, e = .next u ∧ u.mem = mem ∧ u.pends = [{ q with st := st }] ∧ u.cmds = []
    (∀ n sg b l, q.act = .load n sg false → 0 < n → n ≤ 8 → b ∈ l → b / 128 = q.ga / 128 → ∃ u f, exec .accessAtHome { s with bad := l } = .next u ∧
      u.mem = s.mem ∧ u.bad = l ∧ u.pends = [{ q with st := .faulted f }] ∧ f.code = 0x03) ∧
    (∀ n sg, q.act = .load n sg false → n ≤ 8 → goes (exec .accessAtHome s) (.done (extended n sg (memRead s.mem q.ga n))) s.mem) ∧
    (∀ n sg, q.act = .load n sg true → n ≤ 8 → q.ga % 128 + n ≤ 128 →
      ((s.fab q.die).find? lineOf = none → goes (exec .accessAtHome s) (.done (extended n sg (memRead s.mem q.ga n))) s.mem) ∧
      (∀ y, (s.fab q.die).find? lineOf = some y → s.arg 1 = 0 →
        goes (exec .accessAtHome s) (.done (extended n sg (ofBytes ((y.data.drop (q.ga % 128)).take n)))) s.mem)) ∧
    (∀ n v, q.act = .store n v → n ≤ 8 → goes (exec .accessAtHome s) (.done 0) (memPuts s.mem q.ga (toBytes n v.toNat))) ∧
    (∀ keep, q.act = .sync keep → q.ga % 8 = 0 →
      (q.ga ∈ s.full → goes (exec .accessAtHome s) (.done (BitVec.ofNat 64 (memRead s.mem q.ga 8))) s.mem ∧
        ∃ u, exec .accessAtHome s = .next u ∧ u.full = if keep then s.full else remN q.ga s.full) ∧
      (q.ga ∉ s.full →
        let there := s.syncs.filter fun w => decide (syncHome w.ga = syncHome q.ga)
        (there.length < 256 → ∃ u, exec .accessAtHome s = .next u ∧ u.mem = s.mem ∧ u.full = s.full ∧
          u.pends = [{ q with st := .waiting, bias := s.hostBias q.ga, stamp := s.sched.next }]) ∧
        (256 ≤ there.length → exec .accessAtHome s = .next s))) ∧
    (∀ op b d, q.act = .rmw op b d →
      let m := BitVec.ofNat 64 (memRead s.mem q.ga 8)
      (∀ v, atomNew op m b d = some v → goes (exec .rmwAtHome s) (.done m) (memPuts s.mem q.ga (toBytes 8 v.toNat))) ∧
      (atomNew op m b d = none → goes (exec .rmwAtHome s) (.done m) s.mem))

/-- R180, R190, R193, R281 to R283: a load's value goes to its register and it leaves LDC; a performed store leaves STC; a cache word takes
effect and leaves CPC, as a stream operation does by STORE_PERFORMED (log entry 40); the first deferred fault is kept for its run. The register is no longer interlocked, and what waited behind an
acquire goes on. While something that the partition's writes have left for a mirror waits for a link, none of its writes is performed yet (R343). -/
def Sys2Proof.Claim.CompletionsReachTheirRun : Prop :=
  (∀ (s : State) (q : Pend) (r : Run), Returns s q r →
    let goes (r' : Run) : Out := .next { s.setRun q.core (some (left r' q)) with pends := [] }
    (mirrorOwed s q.part = true → exec .loadComplete s = .next s ∧ exec .storePerformed s = .next s) ∧
    (∀ v (d : Reg), mirrorOwed s q.part = false → q.cls = .ldc → q.st = .done v → q.dst = d.val → exec .loadComplete s = goes (r.set d v)) ∧
    (∀ v, mirrorOwed s q.part = false → (q.cls = .stc ∨ q.cls = .cpc) → q.st = .done v → exec .storePerformed s = goes r) ∧
    (∀ f, q.st = .faulted f → exec .deferredFaultArrival s = goes (if r.defer.isSome then r else { r with defer := some f })) ∧
    (∀ f base len w sc inv x, q.act = .cache f base len w sc inv → s.part q.part = some x → ∃ u, exec .cacheInstructionCompletion s = .next u ∧
      u.mem = s.mem ∧ u.pends = [] ∧ (u.core q.core).run = some (left r q) ∧
      (f = 0 → ∃ y, u.part q.part = some y ∧ (let v := getTD y.retain (w % 8) {}
        v.active = decide (0 < len) ∧ v.base = base / 1024 * 1024 ∧ v.len = alignUp (base + len) 1024 - base / 1024 * 1024 ∧ v.w = w / 8)) ∧
      (f = 1 → ∃ y, u.part q.part = some y ∧ (getTD y.retain w {}).active = false) ∧
      (f = 3 → ∀ die, ∀ l ∈ u.fab die, l.part ≠ q.part)))

/-- R188 to R190, R193, R279, R365, R368: accesses at their homes, and their completion.
exec answers a next state, under conditions on the state and the operands alone, for each of: accessAtHome, rmwAtHome, loadComplete,
storePerformed, deferredFaultArrival, cacheInstructionCompletion. -/
def Obligations.AccessesArePerformedAndComplete : Prop :=
  AccessesArePerformedAtTheirHomes ∧ CompletionsReachTheirRun

/-- R50, R201, R202, R372: CNEW takes a caravan that was free, or answers all ones; CJOIN adds its strand, CLEAVE removes it and CFREE frees the
caravan, or they answer why not; a WAITA whose word holds the value it expects parks its record on the word's monitor, and any other makes it
runnable on its core; either way the word has been read at its home (R373). -/
def Sys2Proof.Claim.CaravansAndParkedWaitsAtTheirHome : Prop :=
  (∀ (s : State) (q : Pend) (x : Part), s.arg 0 = q.id → s.pends = [q] → q.st = .issued → s.part q.part = some x →
    let e := exec .caravanOpAtHome s
    let answers (t : State) (v : Word) : Prop := e = .next { t with pends := [{ q with st := .done v }] }
    let put (c : Nat) (v : Caravan) : State := s.setPart q.part { x with caravans := putT x.caravans c v }
    (q.act = .cnew →
      ((∃ c < 256, getT x.caravans c = none) → ∃ c < 256, getT x.caravans c = none ∧
        answers { put c { inst := q.inst } with sched := { s.sched with free := s.sched.free + 1 } } (BitVec.ofNat 64 c)) ∧
      ((∀ c < 256, getT x.caravans c ≠ none) → answers s (BitVec.allOnes 64))) ∧
    (∀ c, (q.act = .cjoin c ∨ q.act = .cleave c ∨ q.act = .cfree c) →
      (255 < c.toNat ∨ getT x.caravans c.toNat = none ∨ (∃ v, getT x.caravans c.toNat = some v ∧ v.inst ≠ q.inst) → answers s 3) ∧
      (∀ v, c.toNat ≤ 255 → getT x.caravans c.toNat = some v → v.inst = q.inst →
        (q.act = .cjoin c →
          (q.fp ∈ v.members → answers s 2) ∧
          (q.fp ∉ v.members → 4096 ≤ v.members.length → answers s 1) ∧
          (q.fp ∉ v.members → v.members.length < 4096 → answers (put c.toNat { v with members := v.members ++ [q.fp] }) 0)) ∧
        (q.act = .cleave c →
          (q.fp ∉ v.members → answers s 2) ∧
          (q.fp ∈ v.members → (∃ a ∈ v.arrived, a.1 = q.fp) → answers s 4) ∧
          (q.fp ∈ v.members → v.arrived = [] → answers (put c.toNat { v with members := v.members.filter fun m => decide (m ≠ q.fp) }) 0)) ∧
        (q.act = .cfree c →
          (v.arrived ≠ [] → answers s 4) ∧
          (v.arrived = [] → answers (s.setPart q.part { x with caravans := delT x.caravans c.toNat }) 0))))) ∧
  (∀ (s : State) (q : Pend) (x : Part) (e : Word) (rc : Rec), AtHome s q → s.part q.part = some x → q.act = .waita e rc →
    let gone : State := touch { s with pends := [] } none q.part q.va.toNat q.ga false false .normal q.page
    (BitVec.ofNat 64 (memRead s.mem q.ga 8) ≠ e → exec .waitaAtHome s = .next (runnable gone q.part (some q.core) rc)) ∧
    (BitVec.ofNat 64 (memRead s.mem q.ga 8) = e → x.poolFree = true → s.mons = [] → ∃ u y k, exec .waitaAtHome s = .next u ∧ u.mem = s.mem ∧ u.pends = [] ∧
      u.part q.part = some y ∧ (getTD x.pool k {}).rc = none ∧ (getTD y.pool k {}).rc = some rc ∧
      u.mons = [(monTable q.ga, [{ ga := q.ga, armed := s.cyc, parked := [(q.part, k, q.core)] }])]))

/-- R290 to R292, R303 to R309: a read inside the reader's visible window returns the frame's bytes, one behind its toe faults, and one
beyond waits; a store inside the stream's window is performed, one behind STOE faults, and one beyond waits; SOPEN attaches a free
slot, SCLOSE detaches it, SCOMMIT moves the crest up to the window's end, SREL releases no more than is visible, SRWD sets the cursor, SQRY
reads a pointer and SGATE sets or clears a gate; SOPEN leaves GSEL as it is (log entry 16). The frames of a window-bank stream (BK 00) lie in an
M-tile's SRAM, and while that bank's occupant is out its accesses and operations wait (R396). -/
def Sys2Proof.Claim.StreamAccessesAndOperationsAtTheirHome : Prop :=
  ∀ (s : State) (q : Pend) (x : Machine.Stream), s.arg 0 = q.id → s.pends = [q] → q.st = .issued → 2 ^ 63 ≤ q.va.toNat → runSaved s q = false →
    s.stream q.part (streamNo q.va.toNat) = some x → streamDown s q.part x = none → s.remoteStream x = false →
    noKey s q.part x.fbase = false → s.flipping (x.addr (streamOff q.va.toNat)) = false → x.waits = [] → x.held = [] → s.cmds = [] → s.bad = [] →
    let n := streamNo q.va.toNat
    let o := streamOff q.va.toNat
    let c := occOf q.inst
    let out := x.bk = 0 ∧ ∃ y, s.part q.part = some y ∧ y.cur ≠ x.hsel
    let bank (i : Inst) (t : Tile) : Prop := x.bk = 0 ∧ s.inst (q.part * 8 + x.hsel) = some i ∧
      getT i.tiles (tkey (gaY x.fbase - i.y0) (gaX x.fbase - i.x0)) = some t ∧ t.bad = []
    let goes (e : Out) (st : OpSt) : Prop := ∃ u, e = .next u ∧ u.mem = s.mem ∧ u.pends = [{ q with st := st }]
    let faults (e : Out) (code : Nat) : Prop := ∃ u f, e = .next u ∧ u.mem = s.mem ∧ u.pends = [{ q with st := .faulted f }] ∧ f.code = code ∧ f.detail = n
    (∀ b sg pl, q.act = .load b sg pl → out → goes (exec .streamReadAtHome s) .waiting) ∧
    (∀ b v, q.act = .store b v → out → goes (exec .streamStoreAtHome s) .waiting) ∧
    (∀ f k arg fl, q.act = .stream f k arg fl → out → goes (exec .streamOpAtHome s) .waiting) ∧
    (∀ b sg pl, q.act = .load b sg pl → ¬ out →
      (occSlot x.slots c = none → faults (exec .streamReadAtHome s) 0x07) ∧
      (∀ k, occSlot x.slots c = some k →
        (behind o (x.slot k).toe = true → faults (exec .streamReadAtHome s) 0x05) ∧
        (∀ i t, behind o (x.slot k).toe = false → atOrBefore (o + b) (x.vc k) = true → bank i t →
          goes (exec .streamReadAtHome s) (.done (extend b sg (ofBytes (memGets t.sram (x.addr o % 2 ^ 20) b))))) ∧
        (behind o (x.slot k).toe = false → atOrBefore (o + b) (x.vc k) = true → x.bk ≠ 0 →
          goes (exec .streamReadAtHome s) (.done (extend b sg (ofBytes (if x.reloc.isEmpty then memGets s.mem (x.addr o) b else (List.range b).map fun j => memGet s.mem (x.addr (o + j))))))) ∧
        (behind o (x.slot k).toe = false → atOrBefore (o + b) (x.vc k) = false → goes (exec .streamReadAtHome s) .waiting ∧
          ∃ u y, exec .streamReadAtHome s = .next u ∧ u.stream q.part n = some y ∧ y.waits = [{ op := q.id, since := s.cyc }]))) ∧
    (∀ b v, q.act = .store b v → ¬ out →
      (behind o x.stoe = true → faults (exec .streamStoreAtHome s) 0x05) ∧
      (∀ i t, behind o x.stoe = false → atOrBefore (o + b) x.wend = true → bank i t → ∃ u j t', exec .streamStoreAtHome s = .next u ∧ u.mem = s.mem ∧
        u.pends = [{ q with st := .done 0 }] ∧ u.inst (q.part * 8 + x.hsel) = some j ∧
        getT j.tiles (tkey (gaY x.fbase - i.y0) (gaX x.fbase - i.x0)) = some t' ∧ t'.sram = memPuts t.sram (x.addr o % 2 ^ 20) (toBytes b v.toNat)) ∧
      (behind o x.stoe = false → atOrBefore (o + b) x.wend = true → x.bk ≠ 0 → ∃ u, exec .streamStoreAtHome s = .next u ∧
        (u.mem = if x.reloc.isEmpty then memPuts s.mem (x.addr o) (toBytes b v.toNat)
          else ((toBytes b v.toNat).foldl (fun a y => (memPuts a.1 (x.addr a.2) [y], a.2 + 1)) (s.mem, o)).1) ∧ u.pends = [{ q with st := .done 0 }]) ∧
      (behind o x.stoe = false → atOrBefore (o + b) x.wend = false → goes (exec .streamStoreAtHome s) .waiting)) ∧
    (∀ f k arg fl, q.act = .stream f k arg fl → ¬ out →
      let w := x.slot k
      let own := w.att = true ∧ w.host = false ∧ w.own = c
      let e := exec .streamOpAtHome s
      let a := streamOff arg.toNat
      let becomes (v : Word) (y : Machine.Stream) : Prop := goes e (.done v) ∧ ∃ u z, e = .next u ∧ u.stream q.part n = some z ∧
        z = { y with moved := z.moved, stoe := z.stoe, tslot := z.tslot }
      (f = 0 → (w.att = true ∨ occSlot x.slots c ≠ none → faults e 0x03) ∧
        (w.att = false → occSlot x.slots c = none → 
          let y : Slot := { w with att := true, host := false, gen := false, own := c, curd := 0, toe := if fl then x.crest else x.stoe }
          becomes 0 { x with slots := putT x.slots k y })) ∧
      (f = 1 → (occSlot x.slots c = none → faults e 0x07) ∧
        ∀ j, occSlot x.slots c = some j → becomes 0 { x with slots := putT x.slots j { x.slot j with att := false } }) ∧
      (f = 2 → (atOrBefore a x.crest = true → becomes 0 x) ∧ (atOrBefore a x.crest = false → atOrBefore a x.wend = true → becomes 0 { x with crest := a }) ∧
        (atOrBefore a x.crest = false → atOrBefore a x.wend = false → goes e .waiting)) ∧
      (f = 3 → (¬own → faults e 0x07) ∧
        (own → ahead (smin a (x.vc k)) w.toe = true →
          let t := smin a (x.vc k)
          becomes 0 { x with slots := putT x.slots k { w with curd := w.curd - sdist t w.toe, toe := t } }) ∧
        (own → ahead (smin a (x.vc k)) w.toe = false → becomes 0 x)) ∧
      (f = 4 → (¬own → faults e 0x07) ∧ (own → behind a w.toe = true → faults e 0x05) ∧
        (own → behind a w.toe = false → 2 ^ 36 ≤ sdist a w.toe → faults e 0x03) ∧ (own → behind a w.toe = false → sdist a w.toe < 2 ^ 36 →
        becomes 0 { x with slots := putT x.slots k { w with curd := sdist a w.toe } })) ∧
      (f = 5 → (arg = 0 → becomes (BitVec.ofNat 64 x.crest) x) ∧ (arg = 1 → becomes (BitVec.ofNat 64 (x.vc k)) x) ∧ (arg = 2 → becomes (BitVec.ofNat 64 w.toe) x) ∧
        (arg = 3 → becomes (BitVec.ofNat 64 w.cursor) x) ∧ (arg = 4 → becomes (BitVec.ofNat 64 x.stoe) x) ∧ (arg = 5 → becomes (BitVec.ofNat 64 x.wend) x) ∧
        (arg = 6 → becomes (BitVec.ofNat 64 (b2n w.att * 2048 + b2n w.host * 1024 + b2n w.gen * 512 + w.gsel * 64 + w.own)) x)) ∧
      (f = 6 → (fl = true → arg.toNat % 8 = k → faults e 0x03) ∧
        (fl = true → arg.toNat % 8 ≠ k → becomes 0 { x with slots := putT x.slots k { w with gen := true, gsel := arg.toNat % 8 } }) ∧
        (fl = false → becomes 0 { x with slots := putT x.slots k { w with gen := false } })))

/-- R201, R202, R290 to R292, R303 to R309, R372: what caravans, monitors and streams do at their home.
exec answers a next state, under conditions on the state and the operands alone, for each of: caravanOpAtHome, waitaAtHome,
streamReadAtHome, streamStoreAtHome, streamOpAtHome. -/
def Obligations.CaravansWaitsAndStreamsAtTheirHome : Prop :=
  CaravansAndParkedWaitsAtTheirHome ∧ StreamAccessesAndOperationsAtTheirHome

/-- R44, R171 to R173, R398: a core without a run takes the newest record of its own deque, else the oldest of the injection queue, else the
oldest of the first core in its order that has one, and begins its run at the record's code with g31 and g1 set; a saved run of the
occupant resumes before any record is taken; its length goes on from where it stood (log entry 48). -/
def Sys2Proof.Claim.RunsStart : Prop :=
  ∀ (s : State) (n p : Nat) (x : Part), s.arg 0 = n → coreParts n s.parts = some p → s.part p = some x → (s.core n).run = none →
    (s.core n).held = [] → x.front = none → x.ready = [] → x.rheld = [] →
    let begins (r : Rec) (u : State) : Prop := exec .runStart s = .next u ∧ u.mem = s.mem ∧ (u.core n).run = some
      (((({ rid := s.sched.next, rc := r, pc := r.code, began := s.cyc, first := if r.afirst then some r.ascope else none } : Run).set 31 r.fp).set 1 r.arg))
    let own := (s.core n).deque x.cur
    let fresh : Prop := x.saved.find? (resumesOn x n) = none
    (∀ v, x.saved.find? (resumesOn x n) = some v → ∃ u y, exec .runStart s = .next u ∧ u.mem = s.mem ∧ u.part p = some y ∧
      y.saved = delFirst (resumesOn x n) x.saved ∧ (u.core n).run = some { v.run with began := s.cyc - v.run.began }) ∧
    (∀ l r, fresh → own.hw = l ++ [r] → ∃ u, begins r u ∧ (u.core n).deque x.cur = { own with hw := l }) ∧
    (∀ l r, fresh → own.hw = [] → own.spill = l ++ [r] → ∃ u, begins r u) ∧
    (∀ r, fresh → own.hw = [] → own.spill = [] → x.inj.find? (fun r => decide (occOf r.inst = x.cur)) = some r → ∃ u y, begins r u ∧
      u.part p = some y ∧ y.inj = delFirst (fun z => decide (occOf z.inst = x.cur)) x.inj) ∧
    (∀ a c b r d, fresh → own.hw = [] → own.spill = [] → (∀ r ∈ x.inj, occOf r.inst ≠ x.cur) → stealOrder n = a ++ c :: b → bit x.cores c = true → c ≠ n →
      (∀ m ∈ a, bit x.cores m = true → ((s.core m).deque x.cur).steal = none) → ((s.core c).deque x.cur).steal = some (r, d) →
      ∃ u, begins r u ∧ (u.core c).deque x.cur = d)

/-- R193, R199, R203, R209, R372, R384, R396: an ended run waits for its loads and stores; then a deferred fault or its trap posts its fault
record, which holds the cycle of the trap, and g1 and g31 where the fault is the run's own, with a trap continuation, and a packet read of
a QPOST that waits at a stream's home is withdrawn; END leaves, YIELD's record goes to the top of its deque, CWAIT arrives in its caravan, whose round its last
member's arrival ends, or waits while the record pool is full, and WAITA goes to its word's home; a run beyond the maximum run length is saved at a
front, with the length that it has reached (cycles off its core do not count: log entry 48). -/
def Sys2Proof.Claim.RunsEndAndAreSaved : Prop :=
  ∀ (s : State) (n : Nat) (r : Run) (x : Part), s.arg 0 = n → (s.core n).run = some r → s.part (partOf r.rc.inst) = some x →
    let p := partOf r.rc.inst
    let quiet : Prop := r.ldc = 0 ∧ r.stc = 0 ∧ r.defer = none
    let posts (f : FaultRec) (e : Out) : Prop := r.qread = none → ∃ q, e = .next (((s.setRun n none).modInst (keyOf r.rc.inst) fun i =>
        { i with ctreqs := i.ctreqs.filter fun c => decide (c.rid ≠ r.rid) }).setPart p { x with posts := x.posts ++ [q] }) ∧
      q.fr = { f with intrap := r.rc.trapc, cyc := s.cyc, arg := if f.src = 1 then r.get 1 else 0, fp := if f.src = 1 then r.get 31 else 0 } ∧ q.core = some n ∧ q.wait = false ∧
      (r.rc.trapc = true → q.cont = none) ∧ (r.rc.trapc = false → ∃ c, q.cont = some c ∧ c.fp = r.get 31 ∧ c.arg = r.get 1 ∧ c.inst = r.rc.inst ∧ c.trapc = true ∧
        c.afirst = true ∧ ∀ i, s.inst (keyOf r.rc.inst) = some i → c.code = i.img.trapw)
    (∀ e, r.ending = some e → (0 < r.ldc ∨ 0 < r.stc) → exec .runEnd s = .next s) ∧
    (∀ e f, r.ending = some e → r.ldc = 0 → r.stc = 0 → r.defer = some f → posts f (exec .runEnd s)) ∧
    (∀ f, r.ending = some (.trap f) → quiet → posts f (exec .runEnd s)) ∧
    (∀ f op, r.ending = some (.trap f) → quiet → r.qread = some op → ∃ u y q, exec .runEnd s = .next u ∧ u.mem = s.mem ∧ (u.core n).run = none ∧
      u.part p = some y ∧ y.posts = x.posts ++ [q] ∧ q.fr.code = f.code ∧ ∀ st z, getT y.streams st = some z → ∀ w ∈ z.waits ++ z.held, w.op ≠ op) ∧
    (∀ c rc, r.ending = some (.cwait c rc) → quiet → x.poolFree = false → exec .runEnd s = .next s) ∧
    (r.ending = some .endRun → quiet → exec .runEnd s = .next (s.setRun n none)) ∧
    (∀ rc, r.ending = some (.yieldRun rc) → quiet →
      let d := (s.core n).deque (occOf rc.inst)
      d.spill = [] → d.hw.length < 256 → exec .runEnd s = .next ((s.setCore n ((s.core n).setDeque (occOf rc.inst) { d with hw := rc :: d.hw })).setRun n none)) ∧
    (∀ c rc v, r.ending = some (.cwait c rc) → quiet → x.poolFree = true → c.toNat ≤ 255 → getT x.caravans c.toNat = some v → v.inst = r.rc.inst →
      (r.get 31 ∈ v.members → (∀ a ∈ v.arrived, a.1 ≠ r.get 31) → (∃ m ∈ v.members, m ≠ r.get 31 ∧ ∀ a ∈ v.arrived, a.1 ≠ m) → ∃ u y k, exec .runEnd s = .next u ∧
        u.mem = s.mem ∧ (u.core n).run = none ∧ u.part p = some y ∧ (getTD y.pool k {}).rc = some rc ∧
        getT y.caravans c.toNat = some { v with arrived := v.arrived ++ [(r.get 31, k, n)] }) ∧
      (r.get 31 ∈ v.members → (∀ a ∈ v.arrived, a.1 ≠ r.get 31) → (∀ m ∈ v.members, m = r.get 31 ∨ ∃ a ∈ v.arrived, a.1 = m) → ∃ u y, exec .runEnd s = .next u ∧
        u.mem = s.mem ∧ (u.core n).run = none ∧ u.part p = some y ∧ getT y.caravans c.toNat = some { v with arrived := [] }) ∧
      (r.get 31 ∉ v.members → r.qread = none → ∃ u y q, exec .runEnd s = .next u ∧ (u.core n).run = none ∧ u.part p = some y ∧ y.posts = x.posts ++ [q] ∧ q.fr.code = 0x03)) ∧
    (∀ part ga va e rc pg, r.ending = some (.waita part ga va e rc pg) → quiet → ∃ u q, exec .runEnd s = .next u ∧ u.mem = s.mem ∧ (u.core n).run = none ∧
      u.pends = s.pends ++ [q] ∧ q.act = .waita e rc ∧ q.ga = ga ∧ q.part = part ∧ q.core = n ∧ q.page = pg) ∧
    (∀ f i, x.front = some f → f.mrl ≤ s.cyc - r.began → s.pends = [] → s.inst (keyOf r.rc.inst) = some i → i.ctreqs = [] → x.streams = [] →
      ∃ u y, exec .maxRunLength s = .next u ∧ u.mem = s.mem ∧ (u.core n).run = none ∧ u.part p = some y ∧
        y.saved = x.saved ++ [{ core := n, run := { r with began := s.cyc - r.began, queued := false, qread := none } }])

/-- R44, R171 to R173, R199, R203, R384, R396, R398: how runs start and end.
exec answers a next state, under conditions on the state and the operands alone, for each of: runStart, runEnd, maxRunLength. -/
def Obligations.RunsStartAndEnd : Prop :=
  RunsStart ∧ RunsEndAndAreSaved

/-- R176, R380, R381, R384: a fault record, with the continuation records that hold its EXT words (those of a STREAM_STALL, R300), is written to the
queue at the producer index, which then rises by one more than their number, and its trap continuation, which then holds the record's address, is pushed
at the bottom of the deque of the core that took the trap; an instance keeps the code of its first fault; while the queue is full the post waits and
the count of waits rises; a waiting post is written once there is room. While a page of the queue flips (R128) the posts are held.
exec answers a next state, under conditions on the state and the operands alone, for each of: faultPost, faultQueueRetry. -/
def Obligations.FaultRecordsArePosted : Prop :=
  ∀ (s : State) (p k ga va pi ci e : Nat) (x : Part) (q : Post), s.arg 0 = p → s.part p = some x → x.fq = some (va, k) → x.posts = [q] → q.held x = false →
    q.fr.ext.length = 8 * e → s.bad = [] →
    (∀ o, o < 64 + 64 * 2 ^ k → ∃ pg : Page, pg.attr ≠ 1 ∧ ∀ rd wr, translate x (va + o) rd wr = .ok (ga + o, pg)) → s.moves = [] →
    (∀ o, o < 64 + 64 * 2 ^ k → gaKind (ga + o) = 0 ∧ gaModule (ga + o) = s.boot.modnum ∧ gaLegal (ga + o) = true) →
    memRead s.mem ga 8 = pi → memRead s.mem (ga + 8) 8 = ci →
    let f := q.fr
    let m := 1 + e
    let n (b : Bool) : Nat := if b then 1 else 0
    let words : List Word := (List.map (BitVec.ofNat 64)
      [f.inst * 2 ^ 32 + e * 2 ^ 28 + n f.frozen * 2 ^ 18 + n f.intrap * 2 ^ 17 + n f.defer * 2 ^ 16 + f.code,
       f.widx * 2 ^ 48 + f.src * 2 ^ 45 + f.unit * 2 ^ 24 + f.y * 2 ^ 16 + f.x * 2 ^ 8 + f.core, f.word, f.addr, f.cyc, f.detail]) ++ [f.arg, f.fp] ++ f.ext
    let record (j : Nat) : List Byte := ((words.drop (8 * j)).take 8).flatMap fun w => toBytes 8 w.toNat
    let written := memPuts ((List.range m).foldl (fun a j => memPuts a (ga + 64 + 64 * ((pi + j) % 2 ^ k)) (record j)) s.mem) ga (toBytes 8 (pi + m))
    (fqHeld s p x = true → exec .faultPost s = .next s ∧ exec .faultQueueRetry s = .next s) ∧
    (fqHeld s p x = false → (pi + 2 ^ 64 - ci) % 2 ^ 64 + m ≤ 2 ^ k →
      let posted (a : Out) : Prop := ∃ u y, a = .next u ∧ u.mem = written ∧ u.part p = some y ∧ y.posts = [] ∧
        (∀ i, s.inst (keyOf f.inst) = some i → i.num = f.inst → ∃ j, u.inst (keyOf f.inst) = some j ∧ j.firstFault = some (i.firstFault.getD f.code)) ∧
        (∀ r c, q.cont = some r → q.core = some c → s.mons = [] → bit x.cores c = true →
          let d := (s.core c).deque (occOf r.inst)
          d.hw.length < 256 → (u.core c).deque (occOf r.inst) = { d with hw := d.hw ++ [{ r with frec := BitVec.ofNat 64 (va + 64 + 64 * (pi % 2 ^ k)) }] }) ∧
        (∀ r, q.cont = some r → q.core = none → q.entry = none → s.mons = [] → x.inj.length < 1024 → x.ready = [] →
          y.inj = x.inj ++ [{ r with frec := BitVec.ofNat 64 (va + 64 + 64 * (pi % 2 ^ k)) }])
      (q.wait = false → posted (exec .faultPost s)) ∧ (q.wait = true → posted (exec .faultQueueRetry s))) ∧
    (fqHeld s p x = false → 2 ^ k < (pi + 2 ^ 64 - ci) % 2 ^ 64 + m →
      (q.wait = false → ∃ u y, exec .faultPost s = .next u ∧ u.mem = memPuts s.mem (ga + 16) (toBytes 8 (memRead s.mem (ga + 16) 8 + 1)) ∧
        u.part p = some y ∧ y.posts = [{ q with wait := true }]) ∧
      (q.wait = true → exec .faultQueueRetry s = .next s))

/-- R17 to R19, R388 to R391, R393, R397, R398: a slice that has run out sends a front for the next occupant with work, whose tiles stand ready as
they were saved, gated, or begins anew; the front is injected into sources and travels behind the tokens; a tile that it reaches acts, and sends it
on; once every tile has acted and no core runs, the next occupant holds the rectangle and its A-tiles wake; where no front is under way, a wave
step releases the first 32 gated C-tiles and M-tiles in row-major order, which take tokens 100 cycles later, and none comes within 100 cycles of
the last. That the next occupant's tiles stand gated from the slice's end and its A-tiles wake at SWEEP_COMPLETE is the model's choice (log entry 19),
and so is the bound of 32 for each kind by itself (log entry 17).
exec answers a next state, under conditions on the state and the operands alone, for each of: waveStep, sliceEnd, frontArrival, tileAct,
sweepComplete. -/
def Obligations.SlicesFrontsAndWavesComplete : Prop :=
  (∀ (s : State) (p : Nat) (x : Part), s.arg 0 = p → s.part p = some x → x.front = none → x.sliceNow.mode = 0 →
    let busy (j : Nat) : Bool := hasWork s p x ((x.cur + 1 + j) % x.occs)
    (s.cyc - x.sliceAt < x.sliceNow.len → exec .sliceEnd s = .next s) ∧
    (x.sliceNow.len ≤ s.cyc - x.sliceAt →
      (∀ j, j < x.occs - 1 → busy j = true → (∀ m, m < j → busy m = false) →
        let d := p * 8 + (x.cur + 1 + j) % x.occs
        let u := s.setPart p { x with front := some { dst := (x.cur + 1 + j) % x.occs, mrl := x.mrl } }
        (s.inst d = none → exec .sliceEnd s = .next u) ∧
        (∀ i, s.inst d = some i → ∃ z, exec .sliceEnd s = .next (u.setInst d z) ∧ (∃ ts, z = { i with links := [], tiles := ts }) ∧
          ∀ tk t, getT i.tiles tk = some t → ∃ t', getT z.tiles tk = some t' ∧ t'.acted = false ∧ t'.woken = false ∧ t'.fronts = [] ∧ t'.s = t.s ∧ t'.q = t.q ∧
            t'.v = t.v ∧ t'.m = t.m ∧ t'.chains = t.chains ∧ t'.sram = t.sram ∧ t'.frozen = t.frozen ∧ t'.prec = t.prec ∧ t'.cursor = t.cursor ∧
            (t.saved = [] → t'.fifo = t.fifo))) ∧
      ((∀ j, j < x.occs - 1 → busy j = false) → exec .sliceEnd s = .next (s.setPart p { x with
        sliceAt := s.cyc, sliceBpc := s.bpc (p * 8 + x.cur), sliceNow := getTD x.slicing x.cur {} })))) ∧
  (∀ (s : State) (k ch tk : Nat) (i : Inst) (t : Tile) (x : Part), s.sched.args = [k, ch] → s.inst k = some i → s.part (k / 8) = some x → x.front.isSome = true →
    x.cur = k % 8 → getT i.tiles tk = some t →
    (ch = 1024 + tk → hasInput i.img tk = false → 31 ∉ t.fronts → exec .frontArrival s = .next (s.setInst k (i.setTile tk { t with fronts := 31 :: t.fronts }))) ∧
    (∀ l m port, ch < 1024 → getT i.links ch = some l → l.fwd = .front :: m → i.img.endOf ch true = some (tk, port) →
      exec .frontArrival s = .next (s.setInst k (({ i with links := putT i.links ch { l with fwd := m } } : Inst).setTile tk { t with fronts := port :: t.fronts })))) ∧
  (∀ (s : State) (k tk : Nat) (i : Inst) (t : Tile) (x : Part), s.sched.args = [k, tk] → s.inst k = some i → s.part (k / 8) = some x → x.front.isSome = true →
    x.cur = k % 8 → getT i.tiles tk = some t → i.img.kind tk ≠ 2 → tk % 128 < 0x40 → t.acted = false → t.woken = true → t.firing = none → (∀ e ∈ t.mq, e.started = false) →
    frontIn i.img tk t = true → ∃ u j, exec .tileAct s = .next u ∧ u.mem = s.mem ∧ u.inst k = some j ∧
      getT j.tiles tk = some { t with acted := true, stash := [] } ∧
      ∀ ch, (getTD j.links ch {}).fwd = (getTD i.links ch {}).fwd ++
        ((List.range 24).filter fun q => epV (i.img.ep tk q) && !isInput q && decide (epCh (i.img.ep tk q) = ch)).map fun _ => Msg.front) ∧
  (∀ (s : State) (p : Nat) (x : Part) (f : Front) (i j : Inst), s.arg 0 = p → s.part p = some x → x.front = some f → f.presize = none → f.dst ≠ x.cur → f.dst < x.occs →
    s.inst (p * 8 + x.cur) = some i → s.inst (p * 8 + f.dst) = some j → sweptAll i = true → (∀ n, n < 128 → bit x.cores n = true → (s.core n).run = none) →
    s.mons = [] → x.wsaved = [] → x.streams = [] → ∃ u y z, exec .sweepComplete s = .next u ∧ u.mem = s.mem ∧ u.part p = some y ∧ y.cur = f.dst ∧ y.front = none ∧
      y.sliceAt = s.cyc ∧ y.sliceNow = getTD x.slicing f.dst {} ∧ u.inst (p * 8 + x.cur) = some { i with tiles := mapT (fun _ t => { t with stash := [] }) i.tiles } ∧ u.inst (p * 8 + f.dst) = some z ∧ (∃ ts, z = { j with tiles := ts }) ∧
      ∀ tk t, getT j.tiles tk = some t → getT z.tiles tk = some { t with woken := t.woken || decide (0x40 ≤ tk % 128) }) ∧
  (∀ (s : State) (c : Nat), s.boot.waveAt = some c → s.cyc < c + 100 → exec .waveStep s = .next s) ∧
  (∀ (s : State) (p : Nat) (i : Inst) (x : Part), s.part p = some x → p < 12 → s.inst (p * 8 + x.cur) = some i → x.front = none → i.x0 ≤ 64 →
    (∃ t ∈ i.tiles, t.2.woken = false ∧ t.2.acted = false ∧ t.1 % 128 < 64) → s.boot.waveRot = p → (∀ c, s.boot.waveAt = some c → c + 100 ≤ s.cyc) →
    let gated (tk : Nat) : Bool := decide (tk % 128 < 64) && i.tiles.any fun t => decide (t.1 = tk) && !t.2.woken && !t.2.acted
    let released (tk : Nat) : Bool := gated tk && decide (i.img.kind tk ≤ 1) &&
      decide (((List.range tk).filter fun m => gated m && decide (i.img.kind m = i.img.kind tk)).length < 32)
    ∃ u j, exec .waveStep s = .next u ∧ u.mem = s.mem ∧ u.boot.waveRot = (p + 1) % 12 ∧ u.boot.waveAt = some s.cyc ∧ u.inst (p * 8 + x.cur) = some j ∧
      ∀ tk t, getT i.tiles tk = some t → getT j.tiles tk = some (if released tk then { t with woken := true, takesAt := s.cyc + 100 } else t))

/-- R73, R82, R159, R162, R163: a woken, unfrozen tile of the occupant that runs no firing selects the first eligible actor after the slot that
fired last, at its entry; a generator's firing puts its next random token and ends.
exec answers a next state, under conditions on the state and the operands alone, for each of: firingSelect, generatorFiring. -/
def Obligations.FiringsAreSelectedInRotation : Prop :=
  ∀ (s : State) (k tk : Nat) (i : Inst) (t : Tile) (x : Part), s.sched.args = [k, tk] → s.inst k = some i → getT i.tiles tk = some t → s.part (k / 8) = some x →
    (x.cur = k % 8 → x.front = none → t.woken = true → t.frozen = none → t.acted = false → t.firing = none → i.phase ≠ .loading →
      let start := match t.lastSlot with | some n => n + 1 | none => 0
      (∀ j, j < 8 → eligible i.img tk t ((start + j) % 8) = true → (∀ m, m < j → eligible i.img tk t ((start + m) % 8) = false) →
        exec .firingSelect s = .next (s.setInst k (i.setTile tk { t with
          firing := some { slot := (start + j) % 8, pc := i.img.slotEntry tk ((start + j) % 8) } }))) ∧
      ((∀ j, j < 8 → eligible i.img tk t j = false) → exec .firingSelect s = .next s)) ∧
    (∀ f, t.firing = some f → i.img.isGen tk f.slot = true →
      let w := i.img.frame (1 + f.slot) tk
      let port := 4 + fld w 233 232
      let ch := epCh (i.img.ep tk port)
      let n := getTD t.gens f.slot 0
      0 < t.demandOf port → ∃ u j t', exec .generatorFiring s = .next u ∧ u.mem = s.mem ∧ u.inst k = some j ∧ getT j.tiles tk = some t' ∧
        t'.firing = none ∧ t'.lastSlot = some f.slot ∧ getTD t'.gens f.slot 0 = n + 1 ∧ t'.demandOf port = t.demandOf port - 1 ∧
        (getTD j.links ch {}).fwd = (getTD i.links ch {}).fwd ++ [.tok (.wide (philoxToken (fld w 231 168) ((fld w 167 40 + 16 * n) % 2 ^ 128)) 0)])

/-- R17, R149, R161, R168, R170, R338, R348: a token joins its consumer's FIFO, or the requests of a key/value tile; a request adds demand; a control token
starts chains that wait for it, up to 15, and the line count rises up to 65,535; a pending start runs its chain; a key/value request is delivered or sent
on against the tile's LIMIT; a peer token is put on its rim port against demand, is dropped and counted at a rim stop that is not its partition's, and
freezes an A-tile that has no rim port with ACCESS; one that is put uses a unit that its receiver has granted (R339). That a peer token is put with tag 0
and that the A-tile freezes is the model's choice (log entry 37), and so is the pending count of a REPEAT 0 chain (log entry 39).
exec answers a next state, under conditions on the state and the operands alone, for each of: tokenArrival, requestArrival,
controlTokenArrival, lineCountArrival, chainStart, kvRequestExamine, peerTokenArrival. -/
def Obligations.ArrivalsReachTheirTile : Prop :=
  (∀ (s : State) (k ch tk port : Nat) (i : Inst) (t : Tile) (l : Link), s.sched.args = [k, ch] → s.inst k = some i → getT i.links ch = some l →
    (∀ x m, l.fwd = .tok x :: m → i.img.endOf ch true = some (tk, port) → getT i.tiles tk = some t → t.woken = true → t.takesAt ≤ s.cyc →
      ∃ j t', exec .tokenArrival s = .next (s.setInst k j) ∧ getT j.tiles tk = some t' ∧ (getTD j.links ch {}).fwd = m ∧
        (port ≠ 15 ∨ i.img.isSnake tk = false → t' = { t with fifo := putT t.fifo port (t.fifoOf port ++ [x]) }) ∧
        (port = 15 → i.img.isSnake tk = true → t' = { t with kv := t.kv ++ [x] })) ∧
    (0 < l.req → i.img.endOf ch false = some (tk, port) → getT i.tiles tk = some t →
      let i' : Inst := { i with links := putT i.links ch { l with req := l.req - 1 } }
      (t.acted = false → exec .requestArrival s = .next (s.setInst k (i'.setTile tk { t with demand := putT t.demand port (t.demandOf port + 1) }))) ∧
      (t.acted = true → exec .requestArrival s = .next (s.setInst k i')))) ∧
  (∀ (s : State) (k line tk c : Nat) (i : Inst) (t : Tile) (x : Part), s.inst k = some i → getT i.tiles tk = some t → s.part (k / 8) = some x → t.woken = true → t.takesAt ≤ s.cyc →
    let ch := getTD t.chains c {}
    (s.sched.args = [k, line, tk] → (line, some tk) ∈ i.lineMsgs → c < 4 → i.img.hasChain tk c = true → i.img.chainStart tk c = line →
      ∃ u j t', exec .controlTokenArrival s = .next u ∧ u.mem = s.mem ∧ u.inst k = some j ∧ getT j.tiles tk = some t' ∧
        j.lineMsgs = delFirst (fun m => decide (m = (line, some tk))) i.lineMsgs ∧
        getTD t'.chains c {} = if (i.img.chainRepeat tk c = false ∧ ch.ran = true) ∨ 15 ≤ ch.pending then ch else { ch with pending := ch.pending + 1 }) ∧
    (s.sched.args = [k, line] → (line, none) ∈ i.lineMsgs → exec .lineCountArrival s = .next (s.setInst k { i with
      lineMsgs := delFirst (fun m => decide (m = (line, none))) i.lineMsgs, lines := putT i.lines line (min 65535 (getTD i.lines line 0 + 1)) })) ∧
    (s.sched.args = [k, tk, c] → ch.running = false → 0 < ch.pending → t.acted = false → (ch.ran = false ∨ i.img.chainRepeat tk c = true) →
      exec .chainStart s = .next (s.setInst k (i.setTile tk { t with chains := putT t.chains c { running := true, idx := [], pending := ch.pending - 1, ran := true } })))) ∧
  (∀ (s : State) (k tk : Nat) (i : Inst) (t : Tile) (x : Tok) (l : List Tok), s.sched.args = [k, tk] → s.inst k = some i → getT i.tiles tk = some t → t.kv = x :: l →
    t.acted = false → t.woken = true →
    let w := i.img.frame 27 tk
    let nv := bit w 191
    let nch := fld w 190 181
    let p := x.word.toNat % 2 ^ 32
    let q := x.word.toNat / 2 ^ 32
    let delivered : Tile := { t with kv := l, fifo := putT t.fifo 15 (t.fifoOf 15 ++ [x]) }
    let up := epCh (i.img.ep tk 15)
    (nv = false → exec .kvRequestExamine s = .next (s.setInst k (i.setTile tk delivered))) ∧
    (∀ op, nv = true → i.img.endOf nch false = some (tk, op) → epCh (i.img.ep tk op) = nch → 0 < t.demandOf op →
      (t.limit < p → ∃ j t', exec .kvRequestExamine s = .next (s.setInst k j) ∧ getT j.tiles tk = some t' ∧ t'.kv = l ∧ t'.fifo = t.fifo ∧
        (getTD j.links nch {}).fwd = (getTD i.links nch {}).fwd ++ [.tok x] ∧ (getTD j.links up {}).req = (getTD i.links up {}).req + 1) ∧
      (p ≤ t.limit → t.limit < q → ∃ j t', exec .kvRequestExamine s = .next (s.setInst k j) ∧ getT j.tiles tk = some t' ∧ t'.kv = l ∧ t'.fifo = delivered.fifo ∧
        (getTD j.links nch {}).fwd = (getTD i.links nch {}).fwd ++ [.tok (.narrow (BitVec.ofNat 64 (q * 2 ^ 32 + (t.limit + 1) % 2 ^ 32)) x.tag)]) ∧
      (p ≤ t.limit → q ≤ t.limit → exec .kvRequestExamine s = .next (s.setInst k (i.setTile tk delivered))))) ∧
  (∀ (s : State) (r : Recv) (p c n : Nat) (g : Grant), g ∈ (useGrant s r p c n).grants ↔ 0 < g.units ∧
    ((g ∈ s.grants ∧ ¬ (g.recv = r.num ∧ g.part = p ∧ g.op = 0 ∧ g.tag = c)) ∨
      ({ g with units := g.units + n } ∈ s.grants ∧ g.recv = r.num ∧ g.part = p ∧ g.op = 0 ∧ g.tag = c))) ∧
  (∀ (s : State) (p side row v tag k : Nat) (i : Inst) (t : Tile), s.occupant p = some (k, i) →
    let tk := tkey row (0x40 + side)
    let ch := epCh (i.img.ep tk 23)
    let used (t : State) : State := useGrant t (.rim (side * 128 + i.y0 + row)) p 0 1
    (getT s.rim (side * 128 + i.y0 + row) ≠ some p → exec (.peerTokenArrival p side row v tag) s = .next (used (s.count p 4 1))) ∧
    (getT s.rim (side * 128 + i.y0 + row) = some p → getT i.tiles tk = some t → t.acted = false → t.woken = true → t.frozen = none →
    (∀ x, (i.img.rim tk = false ∨ 2 ≤ tag % 32) → s.part (k / 8) = some x → bit x.fmask 0x03 = false → ∃ u j t' fr,
      exec (.peerTokenArrival p side row v tag) s = .next u ∧ u.inst k = some j ∧ getT j.tiles tk = some t' ∧ t'.frozen = some fr ∧ fr.code = 0x03) ∧
    (i.img.rim tk = true → tag % 32 < 2 → 0 < t.demandOf 23 → exec (.peerTokenArrival p side row v tag) s = .next (used (s.setInst k
      (({ i with links := putT i.links ch { getTD i.links ch {} with fwd := (getTD i.links ch {}).fwd ++ [.tok (.narrow (BitVec.ofNat 64 v) 0)] } } : Inst).setTile tk
        { t with demand := putT t.demand 23 (t.demandOf 23 - 1) })))) ∧
    (i.img.rim tk = true → tag % 32 < 2 → t.demandOf 23 = 0 → exec (.peerTokenArrival p side row v tag) s = .next s)))

/-- R22, R30 to R32: after a power-on reset the boot registers read as the maps give them: STAGE, SLOT, MISM, SAC, SBC,
SVN and FAILC are 0 and MSVN comes from flash; every measurement register reads as 0; MPWR holds the cap 0x1770 alone;
the log is empty and the module's cycle counter starts at 0 with nothing defined. -/
def Obligations.ResetLeavesTheStatedRegisters : Prop :=
  let s := State.reset
  s.controlWord 0x10 = s.boot.flash.msvn % 256 * 2 ^ 24 ∧ s.controlWord 0x08 = 0x1770 ∧
    (∀ n < 8, ∀ k < 8, s.controlWord (0x100 + 0x40 * n + 8 * k) = 0) ∧ s.boot.log = [] ∧ s.cyc = 0 ∧
    s.parts = [] ∧ s.vfs = [] ∧ s.insts = [] ∧ s.cores = [] ∧ s.calls = [] ∧ s.links = [] ∧ s.outbox = [] ∧ s.grants = [] ∧ s.syncs = []

/-- R43, R48, R100, R104, R109, R176, R180, R190, R363, R396: a turn of a core whose next word decodes, and that neither its registers nor an acquire
hold back, is exec of the decoded word; a word that does not decode traps with ILLEGAL; one that reads or writes a register which an operation is yet
to write stalls, and so does, behind an acquire, a word that accesses memory or ends the run; a deferred fault traps the run first; a core that holds a
trap continuation stalls, and so does a run beyond the maximum run length at a front; a turn of a tile whose firing word's guard is true and whose other slot is NOP is exec of the slot's
instruction, and a false guard goes on with no effect; a turn of one of the machine's own steps is exec of it; a soft error
puts the bytes of a sector in error (R269; log entry 44), and another module's own store leaves this module's memory as it was (log entry 35). Around exec, a
step takes the turn off the list and lets its cycles pass. -/
def Obligations.StepRunsTheDecodedWord : Prop :=
  ∀ s : State,
    let u : State := { s with cyc := (s.cyc + s.turn.dt) % 2 ^ 64, sched := { s.sched with turns := s.sched.turns.tail, ticks := s.sched.ticks + 1, args := [] } }
    let moves (n : Nat) (r : Run) : Prop := s.turn.what = .core n ∧ n < 128 ∧ (u.core n).run = some r ∧ r.ending = none ∧ (u.core n).held = [] ∧
      ∀ x f, u.part (partOf r.rc.inst) = some x → x.front = some f → s.cyc + s.turn.dt - r.began < f.mrl ∧ s.cyc + s.turn.dt < 2 ^ 64
    (∀ n r i, moves n r → r.defer = none → decodeK (u.codeWord r r.pc) = .ok i →
      ((∀ l ∈ r.locks, l.1 ∉ regsOf i) → (waitsAcquire i = true → r.hold = []) → step s = exec i { u with sched := { u.sched with core := n } }) ∧
      ((∃ l ∈ r.locks, l.1 ∈ regsOf i) → step s = .next u) ∧
      (waitsAcquire i = true → r.hold ≠ [] → step s = .next u)) ∧
    (∀ n r e, moves n r → r.defer = none → decodeK (u.codeWord r r.pc) = .error e → step s = .next (trapped u n r 0x01 0 0)) ∧
    (∀ n r f, moves n r → r.defer = some f → step s = .next (u.setRun n (some { r with ending := some (.trap f) }))) ∧
    (∀ n r x f, s.turn.what = .core n → n < 128 → (u.core n).run = some r → u.part (partOf r.rc.inst) = some x → x.front = some f →
      f.mrl ≤ u.cyc - r.began → step s = .next u) ∧
    (∀ n, s.turn.what = .core n → n < 128 → ((u.core n).held ≠ [] ∨ (u.core n).run = none) → step s = .next u) ∧
    (∀ d a b : Reg,
      regsOf (.add d a b) = [d.val, a.val, b.val] ∧ regsOf (.movw d 0 0) = [d.val] ∧ regsOf (.call 0) = [30] ∧ regsOf (.waita a b .mod 0) = [a.val, b.val, 31, 1] ∧
      waitsAcquire (.ldsyn d a .mod) = true ∧ waitsAcquire (.jdec d a) = true ∧ waitsAcquire .endRun = true ∧ waitsAcquire (.sin 0 a 0 false) = true ∧
      waitsAcquire (.add d a b) = false ∧ waitsAcquire (.beq a b 0) = false) ∧
    (∀ k tk i t f w, s.turn.what = .tile k tk →
      let v : State := { u with sched := { u.sched with tile := (k, tk) } }
      let e := i.img.slotEntry tk f.slot
      Runs v k tk i t f → i.img.isGen tk f.slot = false → f.words < 512 → e ≤ f.pc → f.pc < e + i.img.slotLen tk f.slot →
      decodeP (i.img.pword tk f.pc) = .ok w →
      (qOf t w.pred ≠ w.neg → (w.vector = .vnop → (encodeS w.scalar).isSome → step s = exec w.scalar v) ∧
        (w.scalar = .sNop → (encodeV w.vector).isSome → step s = exec w.vector v)) ∧
      (qOf t w.pred = w.neg → step s = .next (v.setInst k (i.setTile tk { t with
        firing := some { f with pc := f.pc + 1, words := f.words + 1, ops := 0, rows := 0, seen := [] } })))) ∧
    (∀ i args, s.turn.what = .event i args → i.wf = true → encodeK i = none → encodeS i = none → encodeV i = none →
      step s = exec i { u with sched := { u.sched with args := args } }) ∧
    (∀ a, s.turn.what = .softError none a → ∃ m, step s = .next { u with bad := m } ∧ ∀ b, b ∈ m ↔ b ∈ s.bad ∨ b / 128 = a / 128) ∧
    (∀ ga bytes, s.turn.what = .outside ga bytes → ∃ m, step s = .next { u with mem := m } ∧
      (memWf s.mem = true → ∀ a, gaModule a = s.boot.modnum → memGet m a = memGet s.mem a)) ∧
    (∀ k tk i t a, s.turn.what = .softError (some (k, tk)) a → s.inst k = some i → getT i.tiles tk = some t →
      ∃ m, step s = .next (u.setInst k (i.setTile tk { t with bad := m })) ∧ ∀ b, b ∈ m ↔ b ∈ t.bad ∨ b / 128 = a % 2 ^ 20 / 128)

/-- R215: both slots of a firing word read the tile as it stood before the word, and both take effect: a MOVI beside a VBC of the same
scalar register broadcasts the old value. -/
def Obligations.BothSlotsReadBeforeEitherWrites : Prop :=
  ∀ (s : State) (k tk : Nat) (i : Inst) (t : Tile) (f : Firing) (w : PWord) (d : SReg) (imm : BitVec 10) (v : VReg) (m : MReg), Fires s k tk i t f →
    qOf t w.pred ≠ w.neg → w.scalar = .movi d imm → w.vector = .vbc v d m →
    execWord w s = .next (fired s k tk i { lanesTo t v m (fun _ => BitVec.ofNat 48 (t.s[d]).toNat) with s := t.s.set d (BitVec.ofInt 64 imm.toInt) } f)

/-- Words whose encodings the spec writes out decode to the instructions it gives them for: one or more of each kind of word. -/
def Obligations.WordsOfTheSpecDecode : Prop :=
  decodeK 0x10A50001 = .ok (.addi 5 5 1) ∧ decodeK 0x04642800 = .ok (.add 3 4 5) ∧ decodeK 0x2C640085 = .ok (.sari 3 4 5) ∧
    decodeK 0x4440FFFD = .ok (.bne 2 0 (-3)) ∧ decodeK 0x844787FF = .ok (.st 2 7 .w .normal (-1)) ∧ decodeK 0x807FC002 = .ok (.ld 3 31 .d false .normal 2) ∧
    decodeK 0x8867C600 = .ok (.ldAcq 3 7 .d .pod false) ∧ decodeK 0x90A7301B = .ok (.aadd 5 7 6 .pod .acqRel) ∧
    decodeK 0x94235FFC = .ok (.waita 1 3 .mod (-4)) ∧ decodeK 0xA0A63800 = .ok (.spawn 5 6 7) ∧ decodeK 0xA4A80803 = .ok (.cwait 5 8 1) ∧
    decodeK 0xC04A0110 = .ok (.takt 2 10) ∧ decodeK 0xC4686460 = .ok (.pldF 3 8 12 0) ∧ decodeK 0xC8033161 = .ok (.sgate 3 6 1 true) ∧
    decodeK 0xD0053204 = .ok (.retain 5 6 2 4) ∧ decodeP 0x2044480024842800 = .ok ⟨false, 2, .sAdd 1 1 2, .vadd 4 4 5 0 .rne⟩ ∧
    decodeP 0x0504000804200000 = .ok ⟨false, 0, .takes 1 0, .take 1 0 0⟩ ∧ decodeV 0xA4021A40 = .ok (.mmas 0 2 3 9) ∧
    decodeV 0xC0801000 = .ok (.vmrg 2 0 1) ∧ decodeK 0xFC000000 = .error .opcodeUnassigned

/-- R93 to R108: decoding an encoded instruction gives it back, for every word of a control core and every slot of a firing word: a
well-formed instruction that has a word is read back from it. (That a word that decodes is the word of what it decodes to is stated on its own.) -/
def Obligations.EncodedInstructionsDecodeBack : Prop :=
  (∀ i w, i.wf = true → encodeK i = some w → w < 2 ^ 32 ∧ decodeK w = .ok i) ∧
    (∀ i w, i.wf = true → encodeS i = some w → w < 2 ^ 28 ∧ decodeS w = .ok i) ∧
    (∀ i w, i.wf = true → encodeV i = some w → w < 2 ^ 32 ∧ decodeV w = .ok i)

/-- R93 to R108: every word of a control core and every slot of a firing word that decodes is the word of a well-formed instruction, the one
it decodes to. -/
def Obligations.DecodedWordsEncodeBack : Prop :=
  (∀ w i, w < 2 ^ 32 → decodeK w = .ok i → i.wf = true ∧ encodeK i = some w) ∧
    (∀ w i, w < 2 ^ 28 → decodeS w = .ok i → i.wf = true ∧ encodeS i = some w) ∧
    (∀ w i, w < 2 ^ 32 → decodeV w = .ok i → i.wf = true ∧ encodeV i = some w)

/-- Memory and every tile's SRAM are canonical after reset (log entry 10: what is not listed reads as 0). -/
def Obligations.MemoriesAreCanonicalAtReset : Prop := State.reset.wf = true

/-- Every step keeps the memory of HBM, oasis and the host canonical: addresses strictly rising, nothing listed that reads as unwritten. -/
def Obligations.StepsKeepMemoryCanonical : Prop :=
  ∀ s t : State, memWf s.mem = true → step s = .next t → memWf t.mem = true

/-- Every step keeps the SRAM of every tile canonical. -/
def Obligations.StepsKeepSramCanonical : Prop :=
  ∀ s t : State, (s.insts.all fun i => i.2.wf) = true → step s = .next t → (t.insts.all fun i => i.2.wf) = true

/-- R55: a fabric word is read by its value: class 01 as (−1)^SIGN × S × 2^(E − 31), or as a zero of its SIGN where S = 0; class 00 and
class 10 as a zero and an infinity of their SIGN whatever E and S hold. The largest finite magnitude is (2^32 − 1) × 2^4064 and the smallest
2^−4096. Float operations see an operand's value alone. -/
def Obligations.FabricWordsAreReadByTheirValue : Prop :=
  (∀ (neg : Bool) (e : Int) (s : Nat), -4096 ≤ e → e ≤ 4095 → s < 2 ^ 32 →
    fwVal (packFW neg 1 e s) = (if s = 0 then .zero neg else .fin neg s (e - 31)) ∧ fwVal (packFW neg 0 e s) = .zero neg ∧
      fwVal (packFW neg 2 e s) = .inf neg) ∧
  (∀ x n m e, fwVal x = .fin n m e → 0 < m ∧ m < 2 ^ 32 ∧ -4127 ≤ e ∧ e ≤ 4064) ∧ fwVal (packFW false 1 (-4096) (2 ^ 31)) = .fin false (2 ^ 31) (-4127) ∧
  ∀ (r : Rnd) (sub : Bool) (a b c a' b' c' : FW), fwVal a = fwVal a' → fwVal b = fwVal b' → fwVal c = fwVal c' →
    fwAdd r a b = fwAdd r a' b' ∧ fwSub r a b = fwSub r a' b' ∧ fwMul r a b = fwMul r a' b' ∧ fwFma r sub a b c = fwFma r sub a' b' c' ∧
      fwMax a b = fwMax a' b' ∧ fwMin a b = fwMin a' b' ∧ fwAbs a = fwAbs a' ∧ fwNeg a = fwNeg a' ∧ fwCps a b = fwCps a' b' ∧
      fwExp2 r a = fwExp2 r a' ∧ fwLog2 r a = fwLog2 r a' ∧ fwRcp r a = fwRcp r a' ∧ fwRsq r a = fwRsq r a' ∧ fwToInt r a = fwToInt r a'

/-- R56: every word that a float operation or a converter produces is canonical: a zero or an infinity has E = 0 and S = 0, a finite word has
S[31] = 1, a NaN has S[31:30] = 11 and E = 0; the generated NaN is 0x6000_C000_0000.
That a load in format FW64 canonicalises what it reads follows from R56's "every fabric word" by the model's reading (log entry 41). -/
def Obligations.FloatResultsAreCanonical : Prop :=
  let canonical (x : FW) : Prop :=
    let w := x.toNat
    (fld w 46 45 = 0 → fld w 44 0 = 0) ∧ (fld w 46 45 = 1 → bit w 31 = true) ∧ (fld w 46 45 = 2 → fld w 44 0 = 0) ∧
      (fld w 46 45 = 3 → fld w 31 30 = 3 ∧ fld w 44 32 = 0)
  (∀ (r : Rnd) (sub : Bool) (a b c : FW), canonical (fwAdd r a b) ∧ canonical (fwSub r a b) ∧ canonical (fwMul r a b) ∧ canonical (fwFma r sub a b c) ∧
    canonical (fwMax a b) ∧ canonical (fwMin a b) ∧ canonical (fwAbs a) ∧ canonical (fwNeg a) ∧ canonical (fwCps a b) ∧ canonical (fwExp2 r a) ∧
    canonical (fwLog2 r a) ∧ canonical (fwRcp r a) ∧ canonical (fwRsq r a) ∧ canonical (intToFW r a)) ∧
  (∀ (f : Nat) (m : SMode) (x : FW), (fmtOf f).isSome → f ≠ 0 → canonical (roundTrip f m x)) ∧
  (∀ (f : Nat) (k : Fmt) (scale c : Nat), fmtOf f = some k → canonical (loadElem k scale c)) ∧
  (∀ (op : Nat) (l : List FW), op < 3 → l.length = 64 → canonical (redTree (redOp op).1 l)) ∧
  (∀ (o1 t1 o2 t2 : Lanes) (j : Fin 64), canonical (mergeTriple o1 t1 o2 t2).1[j] ∧ canonical (mergeTriple o1 t1 o2 t2).2[j]) ∧
  (∀ (c : Cell) (m : Rnd), canonical (c.value m)) ∧ nanFW.toNat = 0x6000C0000000

/-- R58: Round of ± mag × 2^exp: a zero of the sign for 0; otherwise the significand in [2^31, 2^32) is rounded to an integer as the mode says
(nearest with ties to even, toward zero, toward −inf, toward +inf), a carry moves the exponent, an exponent above 4095 overflows to the mode's
infinity or largest magnitude, and one below −4096 flushes to a zero of the sign. -/
def Obligations.RoundingFollowsItsRule : Prop :=
  ∀ (m : Rnd) (neg : Bool) (mag : Nat) (exp : Int), roundFW m neg 0 exp = packFW neg 0 0 0 ∧
    (0 < mag → ∃ l S : Nat, 2 ^ l ≤ mag ∧ mag < 2 ^ (l + 1) ∧ (l ≤ 31 → S = mag * 2 ^ (31 - l)) ∧
      (31 < l →
        let u := 2 ^ (l - 31)
        (m = .rne → 2 * mag ≤ (2 * S + 1) * u ∧ 2 * S * u ≤ 2 * mag + u ∧ (2 * mag = (2 * S + 1) * u ∨ 2 * mag + u = 2 * S * u → S % 2 = 0)) ∧
        (m = .rz ∨ (m = .rd ∧ neg = false) ∨ (m = .ru ∧ neg = true) → S * u ≤ mag ∧ mag < (S + 1) * u) ∧
        ((m = .rd ∧ neg = true) ∨ (m = .ru ∧ neg = false) → mag ≤ S * u ∧ S * u < mag + u)) ∧
      (let S' := if S = 2 ^ 32 then 2 ^ 31 else S
       let E : Int := if S = 2 ^ 32 then (l : Int) + exp + 1 else (l : Int) + exp
       roundFW m neg mag exp =
        if 4095 < E then (if m = .rne ∨ (m = .rd ∧ neg = true) ∨ (m = .ru ∧ neg = false) then packFW neg 2 0 0 else packFW neg 1 4095 (2 ^ 32 - 1))
        else if E < -4096 then packFW neg 0 0 0 else packFW neg 1 E S'))
end

