-- ==== Sys2Proof/Laws/Tab.lean ====
section
/-!
SUPPORT. Reading a keyed table after an update.
-/
namespace Sys2Proof.Machine

variable {α : Type}

@[simp] theorem getT_nil (n : Nat) : getT ([] : Tab α) n = none := rfl

@[simp] theorem getT_putT_same (t : Tab α) (n : Nat) (x : α) : getT (putT t n x) n = some x := by
  induction t with
  | nil => simp [putT, getT]
  | cons e t ih => by_cases h : e.1 = n <;> simp [putT, getT, h, ih]

theorem getT_putT_other (t : Tab α) {n m : Nat} (x : α) (h : m ≠ n) : getT (putT t n x) m = getT t m := by
  induction t with
  | nil => simp [putT, getT, Ne.symm h]
  | cons e t ih =>
    by_cases g : e.1 = n
    · simp [putT, getT, g, Ne.symm h]
    · by_cases g' : e.1 = m <;> simp [putT, getT, g, g', h, ih]

theorem getT_putT (t : Tab α) (n m : Nat) (x : α) : getT (putT t n x) m = if m = n then some x else getT t m := by
  by_cases h : m = n
  · simp [h]
  · simp [getT_putT_other t x h, h]

@[simp] theorem getTD_putT_same (t : Tab α) (n : Nat) (x d : α) : getTD (putT t n x) n d = x := by simp [getTD]

theorem getTD_putT_other (t : Tab α) {n m : Nat} (x d : α) (h : m ≠ n) : getTD (putT t n x) m d = getTD t m d := by
  simp [getTD, getT_putT_other t x h]

@[simp] theorem getT_delT_same (t : Tab α) (n : Nat) : getT (delT t n) n = none := by
  induction t with
  | nil => rfl
  | cons e t ih => by_cases h : e.1 = n <;> simp [delT, getT, h, ih]

theorem getT_delT_other (t : Tab α) {n m : Nat} (h : m ≠ n) : getT (delT t n) m = getT t m := by
  induction t with
  | nil => rfl
  | cons e t ih =>
    by_cases g : e.1 = n
    · simp [delT, getT, g, Ne.symm h, ih]
    · by_cases g' : e.1 = m <;> simp [delT, getT, g, g', h, ih]

@[simp] theorem getT_mapT (f : Nat → α → α) (t : Tab α) (n : Nat) : getT (mapT f t) n = (getT t n).map (f n) := by
  induction t with
  | nil => rfl
  | cons e t ih => by_cases h : e.1 = n <;> simp [mapT, getT, h, ih]

/-- A property of every entry survives setting an entry that has it. -/
theorem all_putT {p : Nat × α → Prop} {t : Tab α} {n : Nat} {x : α} (h : ∀ e ∈ t, p e) (hx : p (n, x)) :
    ∀ e ∈ putT t n x, p e := by
  induction t with
  | nil => simpa [putT] using hx
  | cons e t ih =>
    by_cases g : e.1 = n
    · simp only [putT, g, ↓reduceIte, List.mem_cons, forall_eq_or_imp]
      exact ⟨hx, fun a ha => h a (List.mem_cons_of_mem _ ha)⟩
    · simp only [putT, g, ↓reduceIte, List.mem_cons, forall_eq_or_imp]
      exact ⟨h e (List.mem_cons_self ..), ih fun a ha => h a (List.mem_cons_of_mem _ ha)⟩

/-- An entry that a table answers with is one of its entries. -/
theorem mem_of_getT {t : Tab α} {n : Nat} {x : α} (h : getT t n = some x) : (n, x) ∈ t := by
  induction t with
  | nil => simp at h
  | cons e t ih =>
    by_cases g : e.1 = n
    · simp only [getT, g, ↓reduceIte, Option.some.injEq] at h
      subst g; subst h; exact List.mem_cons_self ..
    · simp only [getT, g, ↓reduceIte] at h
      exact List.mem_cons_of_mem _ (ih h)

end Sys2Proof.Machine
end

