-- ==== Sys2Proof/Laws/State.lean ====
section
/-!
SUPPORT. The fields of the state after each of its updates, so that no proof unfolds a record update.
-/
namespace Sys2Proof.Machine

variable (s : State)

@[simp] theorem State.setCore_sched (n : Nat) (c : Core) : (s.setCore n c).sched = s.sched := rfl
@[simp] theorem State.setCore_cyc (n : Nat) (c : Core) : (s.setCore n c).cyc = s.cyc := rfl
@[simp] theorem State.setCore_boot (n : Nat) (c : Core) : (s.setCore n c).boot = s.boot := rfl
@[simp] theorem State.setCore_hports (n : Nat) (c : Core) : (s.setCore n c).hports = s.hports := rfl
@[simp] theorem State.setCore_vfs (n : Nat) (c : Core) : (s.setCore n c).vfs = s.vfs := rfl
@[simp] theorem State.setCore_ports (n : Nat) (c : Core) : (s.setCore n c).ports = s.ports := rfl
@[simp] theorem State.setCore_parts (n : Nat) (c : Core) : (s.setCore n c).parts = s.parts := rfl
@[simp] theorem State.setCore_cores (n : Nat) (c : Core) : (s.setCore n c).cores = putT s.cores n c := rfl
@[simp] theorem State.setCore_insts (n : Nat) (c : Core) : (s.setCore n c).insts = s.insts := rfl
@[simp] theorem State.setCore_mem (n : Nat) (c : Core) : (s.setCore n c).mem = s.mem := rfl
@[simp] theorem State.setCore_full (n : Nat) (c : Core) : (s.setCore n c).full = s.full := rfl
@[simp] theorem State.setCore_bad (n : Nat) (c : Core) : (s.setCore n c).bad = s.bad := rfl
@[simp] theorem State.setCore_pends (n : Nat) (c : Core) : (s.setCore n c).pends = s.pends := rfl
@[simp] theorem State.setCore_cmds (n : Nat) (c : Core) : (s.setCore n c).cmds = s.cmds := rfl
@[simp] theorem State.setCore_calls (n : Nat) (c : Core) : (s.setCore n c).calls = s.calls := rfl
@[simp] theorem State.setCore_mons (n : Nat) (c : Core) : (s.setCore n c).mons = s.mons := rfl
@[simp] theorem State.setCore_moves (n : Nat) (c : Core) : (s.setCore n c).moves = s.moves := rfl
@[simp] theorem State.setCore_caches (n : Nat) (c : Core) : (s.setCore n c).caches = s.caches := rfl
@[simp] theorem State.setCore_links (n : Nat) (c : Core) : (s.setCore n c).links = s.links := rfl
@[simp] theorem State.setCore_oasis (n : Nat) (c : Core) : (s.setCore n c).oasis = s.oasis := rfl
@[simp] theorem State.setCore_bias (n : Nat) (c : Core) : (s.setCore n c).bias = s.bias := rfl
@[simp] theorem State.setCore_drbg (n : Nat) (c : Core) : (s.setCore n c).drbg = s.drbg := rfl
@[simp] theorem State.setCore_bindNo (n : Nat) (c : Core) : (s.setCore n c).bindNo = s.bindNo := rfl
@[simp] theorem State.setCore_rot (n : Nat) (c : Core) : (s.setCore n c).rot = s.rot := rfl
@[simp] theorem State.setCore_compls (n : Nat) (c : Core) : (s.setCore n c).compls = s.compls := rfl
@[simp] theorem State.setCore_rim (n : Nat) (c : Core) : (s.setCore n c).rim = s.rim := rfl
@[simp] theorem State.setCore_peers (n : Nat) (c : Core) : (s.setCore n c).peers = s.peers := rfl
@[simp] theorem State.setCore_outbox (n : Nat) (c : Core) : (s.setCore n c).outbox = s.outbox := rfl
@[simp] theorem State.setCore_grants (n : Nat) (c : Core) : (s.setCore n c).grants = s.grants := rfl
@[simp] theorem State.setCore_syncs (n : Nat) (c : Core) : (s.setCore n c).syncs = s.syncs := rfl
@[simp] theorem State.setCore_svcNext (n : Nat) (c : Core) : (s.setCore n c).svcNext = s.svcNext := rfl

@[simp] theorem State.setPart_sched (p : Nat) (x : Part) : (s.setPart p x).sched = s.sched := rfl
@[simp] theorem State.setPart_cyc (p : Nat) (x : Part) : (s.setPart p x).cyc = s.cyc := rfl
@[simp] theorem State.setPart_boot (p : Nat) (x : Part) : (s.setPart p x).boot = s.boot := rfl
@[simp] theorem State.setPart_hports (p : Nat) (x : Part) : (s.setPart p x).hports = s.hports := rfl
@[simp] theorem State.setPart_vfs (p : Nat) (x : Part) : (s.setPart p x).vfs = s.vfs := rfl
@[simp] theorem State.setPart_ports (p : Nat) (x : Part) : (s.setPart p x).ports = s.ports := rfl
@[simp] theorem State.setPart_parts (p : Nat) (x : Part) : (s.setPart p x).parts = putT s.parts p x := rfl
@[simp] theorem State.setPart_cores (p : Nat) (x : Part) : (s.setPart p x).cores = s.cores := rfl
@[simp] theorem State.setPart_insts (p : Nat) (x : Part) : (s.setPart p x).insts = s.insts := rfl
@[simp] theorem State.setPart_mem (p : Nat) (x : Part) : (s.setPart p x).mem = s.mem := rfl
@[simp] theorem State.setPart_full (p : Nat) (x : Part) : (s.setPart p x).full = s.full := rfl
@[simp] theorem State.setPart_bad (p : Nat) (x : Part) : (s.setPart p x).bad = s.bad := rfl
@[simp] theorem State.setPart_pends (p : Nat) (x : Part) : (s.setPart p x).pends = s.pends := rfl
@[simp] theorem State.setPart_cmds (p : Nat) (x : Part) : (s.setPart p x).cmds = s.cmds := rfl
@[simp] theorem State.setPart_calls (p : Nat) (x : Part) : (s.setPart p x).calls = s.calls := rfl
@[simp] theorem State.setPart_mons (p : Nat) (x : Part) : (s.setPart p x).mons = s.mons := rfl
@[simp] theorem State.setPart_moves (p : Nat) (x : Part) : (s.setPart p x).moves = s.moves := rfl
@[simp] theorem State.setPart_caches (p : Nat) (x : Part) : (s.setPart p x).caches = s.caches := rfl
@[simp] theorem State.setPart_links (p : Nat) (x : Part) : (s.setPart p x).links = s.links := rfl
@[simp] theorem State.setPart_oasis (p : Nat) (x : Part) : (s.setPart p x).oasis = s.oasis := rfl
@[simp] theorem State.setPart_bias (p : Nat) (x : Part) : (s.setPart p x).bias = s.bias := rfl
@[simp] theorem State.setPart_drbg (p : Nat) (x : Part) : (s.setPart p x).drbg = s.drbg := rfl
@[simp] theorem State.setPart_bindNo (p : Nat) (x : Part) : (s.setPart p x).bindNo = s.bindNo := rfl
@[simp] theorem State.setPart_rot (p : Nat) (x : Part) : (s.setPart p x).rot = s.rot := rfl
@[simp] theorem State.setPart_compls (p : Nat) (x : Part) : (s.setPart p x).compls = s.compls := rfl
@[simp] theorem State.setPart_rim (p : Nat) (x : Part) : (s.setPart p x).rim = s.rim := rfl
@[simp] theorem State.setPart_peers (p : Nat) (x : Part) : (s.setPart p x).peers = s.peers := rfl
@[simp] theorem State.setPart_outbox (p : Nat) (x : Part) : (s.setPart p x).outbox = s.outbox := rfl
@[simp] theorem State.setPart_grants (p : Nat) (x : Part) : (s.setPart p x).grants = s.grants := rfl
@[simp] theorem State.setPart_syncs (p : Nat) (x : Part) : (s.setPart p x).syncs = s.syncs := rfl
@[simp] theorem State.setPart_svcNext (p : Nat) (x : Part) : (s.setPart p x).svcNext = s.svcNext := rfl

@[simp] theorem State.setInst_sched (k : Nat) (i : Inst) : (s.setInst k i).sched = s.sched := rfl
@[simp] theorem State.setInst_cyc (k : Nat) (i : Inst) : (s.setInst k i).cyc = s.cyc := rfl
@[simp] theorem State.setInst_boot (k : Nat) (i : Inst) : (s.setInst k i).boot = s.boot := rfl
@[simp] theorem State.setInst_hports (k : Nat) (i : Inst) : (s.setInst k i).hports = s.hports := rfl
@[simp] theorem State.setInst_vfs (k : Nat) (i : Inst) : (s.setInst k i).vfs = s.vfs := rfl
@[simp] theorem State.setInst_ports (k : Nat) (i : Inst) : (s.setInst k i).ports = s.ports := rfl
@[simp] theorem State.setInst_parts (k : Nat) (i : Inst) : (s.setInst k i).parts = s.parts := rfl
@[simp] theorem State.setInst_cores (k : Nat) (i : Inst) : (s.setInst k i).cores = s.cores := rfl
@[simp] theorem State.setInst_insts (k : Nat) (i : Inst) : (s.setInst k i).insts = putT s.insts k i := rfl
@[simp] theorem State.setInst_mem (k : Nat) (i : Inst) : (s.setInst k i).mem = s.mem := rfl
@[simp] theorem State.setInst_full (k : Nat) (i : Inst) : (s.setInst k i).full = s.full := rfl
@[simp] theorem State.setInst_bad (k : Nat) (i : Inst) : (s.setInst k i).bad = s.bad := rfl
@[simp] theorem State.setInst_pends (k : Nat) (i : Inst) : (s.setInst k i).pends = s.pends := rfl
@[simp] theorem State.setInst_cmds (k : Nat) (i : Inst) : (s.setInst k i).cmds = s.cmds := rfl
@[simp] theorem State.setInst_calls (k : Nat) (i : Inst) : (s.setInst k i).calls = s.calls := rfl
@[simp] theorem State.setInst_mons (k : Nat) (i : Inst) : (s.setInst k i).mons = s.mons := rfl
@[simp] theorem State.setInst_moves (k : Nat) (i : Inst) : (s.setInst k i).moves = s.moves := rfl
@[simp] theorem State.setInst_caches (k : Nat) (i : Inst) : (s.setInst k i).caches = s.caches := rfl
@[simp] theorem State.setInst_links (k : Nat) (i : Inst) : (s.setInst k i).links = s.links := rfl
@[simp] theorem State.setInst_oasis (k : Nat) (i : Inst) : (s.setInst k i).oasis = s.oasis := rfl
@[simp] theorem State.setInst_bias (k : Nat) (i : Inst) : (s.setInst k i).bias = s.bias := rfl
@[simp] theorem State.setInst_drbg (k : Nat) (i : Inst) : (s.setInst k i).drbg = s.drbg := rfl
@[simp] theorem State.setInst_bindNo (k : Nat) (i : Inst) : (s.setInst k i).bindNo = s.bindNo := rfl
@[simp] theorem State.setInst_rot (k : Nat) (i : Inst) : (s.setInst k i).rot = s.rot := rfl
@[simp] theorem State.setInst_compls (k : Nat) (i : Inst) : (s.setInst k i).compls = s.compls := rfl
@[simp] theorem State.setInst_rim (k : Nat) (i : Inst) : (s.setInst k i).rim = s.rim := rfl
@[simp] theorem State.setInst_peers (k : Nat) (i : Inst) : (s.setInst k i).peers = s.peers := rfl
@[simp] theorem State.setInst_outbox (k : Nat) (i : Inst) : (s.setInst k i).outbox = s.outbox := rfl
@[simp] theorem State.setInst_grants (k : Nat) (i : Inst) : (s.setInst k i).grants = s.grants := rfl
@[simp] theorem State.setInst_syncs (k : Nat) (i : Inst) : (s.setInst k i).syncs = s.syncs := rfl
@[simp] theorem State.setInst_svcNext (k : Nat) (i : Inst) : (s.setInst k i).svcNext = s.svcNext := rfl

@[simp] theorem State.setRun_sched (n : Nat) (r : Option Run) : (s.setRun n r).sched = s.sched := rfl
@[simp] theorem State.setRun_cyc (n : Nat) (r : Option Run) : (s.setRun n r).cyc = s.cyc := rfl
@[simp] theorem State.setRun_boot (n : Nat) (r : Option Run) : (s.setRun n r).boot = s.boot := rfl
@[simp] theorem State.setRun_hports (n : Nat) (r : Option Run) : (s.setRun n r).hports = s.hports := rfl
@[simp] theorem State.setRun_vfs (n : Nat) (r : Option Run) : (s.setRun n r).vfs = s.vfs := rfl
@[simp] theorem State.setRun_ports (n : Nat) (r : Option Run) : (s.setRun n r).ports = s.ports := rfl
@[simp] theorem State.setRun_parts (n : Nat) (r : Option Run) : (s.setRun n r).parts = s.parts := rfl
@[simp] theorem State.setRun_cores (n : Nat) (r : Option Run) : (s.setRun n r).cores = putT s.cores n { s.core n with run := r } := rfl
@[simp] theorem State.setRun_insts (n : Nat) (r : Option Run) : (s.setRun n r).insts = s.insts := rfl
@[simp] theorem State.setRun_mem (n : Nat) (r : Option Run) : (s.setRun n r).mem = s.mem := rfl
@[simp] theorem State.setRun_full (n : Nat) (r : Option Run) : (s.setRun n r).full = s.full := rfl
@[simp] theorem State.setRun_bad (n : Nat) (r : Option Run) : (s.setRun n r).bad = s.bad := rfl
@[simp] theorem State.setRun_pends (n : Nat) (r : Option Run) : (s.setRun n r).pends = s.pends := rfl
@[simp] theorem State.setRun_cmds (n : Nat) (r : Option Run) : (s.setRun n r).cmds = s.cmds := rfl
@[simp] theorem State.setRun_calls (n : Nat) (r : Option Run) : (s.setRun n r).calls = s.calls := rfl
@[simp] theorem State.setRun_mons (n : Nat) (r : Option Run) : (s.setRun n r).mons = s.mons := rfl
@[simp] theorem State.setRun_moves (n : Nat) (r : Option Run) : (s.setRun n r).moves = s.moves := rfl
@[simp] theorem State.setRun_caches (n : Nat) (r : Option Run) : (s.setRun n r).caches = s.caches := rfl
@[simp] theorem State.setRun_links (n : Nat) (r : Option Run) : (s.setRun n r).links = s.links := rfl
@[simp] theorem State.setRun_oasis (n : Nat) (r : Option Run) : (s.setRun n r).oasis = s.oasis := rfl
@[simp] theorem State.setRun_bias (n : Nat) (r : Option Run) : (s.setRun n r).bias = s.bias := rfl
@[simp] theorem State.setRun_drbg (n : Nat) (r : Option Run) : (s.setRun n r).drbg = s.drbg := rfl
@[simp] theorem State.setRun_bindNo (n : Nat) (r : Option Run) : (s.setRun n r).bindNo = s.bindNo := rfl
@[simp] theorem State.setRun_rot (n : Nat) (r : Option Run) : (s.setRun n r).rot = s.rot := rfl
@[simp] theorem State.setRun_compls (n : Nat) (r : Option Run) : (s.setRun n r).compls = s.compls := rfl
@[simp] theorem State.setRun_rim (n : Nat) (r : Option Run) : (s.setRun n r).rim = s.rim := rfl
@[simp] theorem State.setRun_peers (n : Nat) (r : Option Run) : (s.setRun n r).peers = s.peers := rfl
@[simp] theorem State.setRun_outbox (n : Nat) (r : Option Run) : (s.setRun n r).outbox = s.outbox := rfl
@[simp] theorem State.setRun_grants (n : Nat) (r : Option Run) : (s.setRun n r).grants = s.grants := rfl
@[simp] theorem State.setRun_syncs (n : Nat) (r : Option Run) : (s.setRun n r).syncs = s.syncs := rfl
@[simp] theorem State.setRun_svcNext (n : Nat) (r : Option Run) : (s.setRun n r).svcNext = s.svcNext := rfl

@[simp] theorem State.setMem_sched (m : List Host.Cell) : (s.setMem m).sched = s.sched := rfl
@[simp] theorem State.setMem_cyc (m : List Host.Cell) : (s.setMem m).cyc = s.cyc := rfl
@[simp] theorem State.setMem_boot (m : List Host.Cell) : (s.setMem m).boot = s.boot := rfl
@[simp] theorem State.setMem_hports (m : List Host.Cell) : (s.setMem m).hports = s.hports := rfl
@[simp] theorem State.setMem_vfs (m : List Host.Cell) : (s.setMem m).vfs = s.vfs := rfl
@[simp] theorem State.setMem_ports (m : List Host.Cell) : (s.setMem m).ports = s.ports := rfl
@[simp] theorem State.setMem_parts (m : List Host.Cell) : (s.setMem m).parts = s.parts := rfl
@[simp] theorem State.setMem_cores (m : List Host.Cell) : (s.setMem m).cores = s.cores := rfl
@[simp] theorem State.setMem_insts (m : List Host.Cell) : (s.setMem m).insts = s.insts := rfl
@[simp] theorem State.setMem_mem (m : List Host.Cell) : (s.setMem m).mem = m := rfl
@[simp] theorem State.setMem_full (m : List Host.Cell) : (s.setMem m).full = s.full := rfl
@[simp] theorem State.setMem_bad (m : List Host.Cell) : (s.setMem m).bad = s.bad := rfl
@[simp] theorem State.setMem_pends (m : List Host.Cell) : (s.setMem m).pends = s.pends := rfl
@[simp] theorem State.setMem_cmds (m : List Host.Cell) : (s.setMem m).cmds = s.cmds := rfl
@[simp] theorem State.setMem_calls (m : List Host.Cell) : (s.setMem m).calls = s.calls := rfl
@[simp] theorem State.setMem_mons (m : List Host.Cell) : (s.setMem m).mons = s.mons := rfl
@[simp] theorem State.setMem_moves (m : List Host.Cell) : (s.setMem m).moves = s.moves := rfl
@[simp] theorem State.setMem_caches (m : List Host.Cell) : (s.setMem m).caches = s.caches := rfl
@[simp] theorem State.setMem_links (m : List Host.Cell) : (s.setMem m).links = s.links := rfl
@[simp] theorem State.setMem_oasis (m : List Host.Cell) : (s.setMem m).oasis = s.oasis := rfl
@[simp] theorem State.setMem_bias (m : List Host.Cell) : (s.setMem m).bias = s.bias := rfl
@[simp] theorem State.setMem_drbg (m : List Host.Cell) : (s.setMem m).drbg = s.drbg := rfl
@[simp] theorem State.setMem_bindNo (m : List Host.Cell) : (s.setMem m).bindNo = s.bindNo := rfl
@[simp] theorem State.setMem_rot (m : List Host.Cell) : (s.setMem m).rot = s.rot := rfl
@[simp] theorem State.setMem_compls (m : List Host.Cell) : (s.setMem m).compls = s.compls := rfl
@[simp] theorem State.setMem_rim (m : List Host.Cell) : (s.setMem m).rim = s.rim := rfl
@[simp] theorem State.setMem_peers (m : List Host.Cell) : (s.setMem m).peers = s.peers := rfl
@[simp] theorem State.setMem_outbox (m : List Host.Cell) : (s.setMem m).outbox = s.outbox := rfl
@[simp] theorem State.setMem_grants (m : List Host.Cell) : (s.setMem m).grants = s.grants := rfl
@[simp] theorem State.setMem_syncs (m : List Host.Cell) : (s.setMem m).syncs = s.syncs := rfl
@[simp] theorem State.setMem_svcNext (m : List Host.Cell) : (s.setMem m).svcNext = s.svcNext := rfl

@[simp] theorem State.setPend_sched (q : Pend) : (s.setPend q).sched = s.sched := rfl
@[simp] theorem State.setPend_cyc (q : Pend) : (s.setPend q).cyc = s.cyc := rfl
@[simp] theorem State.setPend_boot (q : Pend) : (s.setPend q).boot = s.boot := rfl
@[simp] theorem State.setPend_hports (q : Pend) : (s.setPend q).hports = s.hports := rfl
@[simp] theorem State.setPend_vfs (q : Pend) : (s.setPend q).vfs = s.vfs := rfl
@[simp] theorem State.setPend_ports (q : Pend) : (s.setPend q).ports = s.ports := rfl
@[simp] theorem State.setPend_parts (q : Pend) : (s.setPend q).parts = s.parts := rfl
@[simp] theorem State.setPend_cores (q : Pend) : (s.setPend q).cores = s.cores := rfl
@[simp] theorem State.setPend_insts (q : Pend) : (s.setPend q).insts = s.insts := rfl
@[simp] theorem State.setPend_mem (q : Pend) : (s.setPend q).mem = s.mem := rfl
@[simp] theorem State.setPend_full (q : Pend) : (s.setPend q).full = s.full := rfl
@[simp] theorem State.setPend_bad (q : Pend) : (s.setPend q).bad = s.bad := rfl
@[simp] theorem State.setPend_pends (q : Pend) : (s.setPend q).pends = updFirst (fun x => decide (x.id = q.id)) (fun _ => q) s.pends := rfl
@[simp] theorem State.setPend_cmds (q : Pend) : (s.setPend q).cmds = s.cmds := rfl
@[simp] theorem State.setPend_calls (q : Pend) : (s.setPend q).calls = s.calls := rfl
@[simp] theorem State.setPend_mons (q : Pend) : (s.setPend q).mons = s.mons := rfl
@[simp] theorem State.setPend_moves (q : Pend) : (s.setPend q).moves = s.moves := rfl
@[simp] theorem State.setPend_caches (q : Pend) : (s.setPend q).caches = s.caches := rfl
@[simp] theorem State.setPend_links (q : Pend) : (s.setPend q).links = s.links := rfl
@[simp] theorem State.setPend_oasis (q : Pend) : (s.setPend q).oasis = s.oasis := rfl
@[simp] theorem State.setPend_bias (q : Pend) : (s.setPend q).bias = s.bias := rfl
@[simp] theorem State.setPend_drbg (q : Pend) : (s.setPend q).drbg = s.drbg := rfl
@[simp] theorem State.setPend_bindNo (q : Pend) : (s.setPend q).bindNo = s.bindNo := rfl
@[simp] theorem State.setPend_rot (q : Pend) : (s.setPend q).rot = s.rot := rfl
@[simp] theorem State.setPend_compls (q : Pend) : (s.setPend q).compls = s.compls := rfl
@[simp] theorem State.setPend_rim (q : Pend) : (s.setPend q).rim = s.rim := rfl
@[simp] theorem State.setPend_peers (q : Pend) : (s.setPend q).peers = s.peers := rfl
@[simp] theorem State.setPend_outbox (q : Pend) : (s.setPend q).outbox = s.outbox := rfl
@[simp] theorem State.setPend_grants (q : Pend) : (s.setPend q).grants = s.grants := rfl
@[simp] theorem State.setPend_syncs (q : Pend) : (s.setPend q).syncs = s.syncs := rfl
@[simp] theorem State.setPend_svcNext (q : Pend) : (s.setPend q).svcNext = s.svcNext := rfl

@[simp] theorem State.delPend_sched (id : Nat) : (s.delPend id).sched = s.sched := rfl
@[simp] theorem State.delPend_cyc (id : Nat) : (s.delPend id).cyc = s.cyc := rfl
@[simp] theorem State.delPend_boot (id : Nat) : (s.delPend id).boot = s.boot := rfl
@[simp] theorem State.delPend_hports (id : Nat) : (s.delPend id).hports = s.hports := rfl
@[simp] theorem State.delPend_vfs (id : Nat) : (s.delPend id).vfs = s.vfs := rfl
@[simp] theorem State.delPend_ports (id : Nat) : (s.delPend id).ports = s.ports := rfl
@[simp] theorem State.delPend_parts (id : Nat) : (s.delPend id).parts = s.parts := rfl
@[simp] theorem State.delPend_cores (id : Nat) : (s.delPend id).cores = s.cores := rfl
@[simp] theorem State.delPend_insts (id : Nat) : (s.delPend id).insts = s.insts := rfl
@[simp] theorem State.delPend_mem (id : Nat) : (s.delPend id).mem = s.mem := rfl
@[simp] theorem State.delPend_full (id : Nat) : (s.delPend id).full = s.full := rfl
@[simp] theorem State.delPend_bad (id : Nat) : (s.delPend id).bad = s.bad := rfl
@[simp] theorem State.delPend_pends (id : Nat) : (s.delPend id).pends = delFirst (fun x => decide (x.id = id)) s.pends := rfl
@[simp] theorem State.delPend_cmds (id : Nat) : (s.delPend id).cmds = s.cmds := rfl
@[simp] theorem State.delPend_calls (id : Nat) : (s.delPend id).calls = s.calls := rfl
@[simp] theorem State.delPend_mons (id : Nat) : (s.delPend id).mons = s.mons := rfl
@[simp] theorem State.delPend_moves (id : Nat) : (s.delPend id).moves = s.moves := rfl
@[simp] theorem State.delPend_caches (id : Nat) : (s.delPend id).caches = s.caches := rfl
@[simp] theorem State.delPend_links (id : Nat) : (s.delPend id).links = s.links := rfl
@[simp] theorem State.delPend_oasis (id : Nat) : (s.delPend id).oasis = s.oasis := rfl
@[simp] theorem State.delPend_bias (id : Nat) : (s.delPend id).bias = s.bias := rfl
@[simp] theorem State.delPend_drbg (id : Nat) : (s.delPend id).drbg = s.drbg := rfl
@[simp] theorem State.delPend_bindNo (id : Nat) : (s.delPend id).bindNo = s.bindNo := rfl
@[simp] theorem State.delPend_rot (id : Nat) : (s.delPend id).rot = s.rot := rfl
@[simp] theorem State.delPend_compls (id : Nat) : (s.delPend id).compls = s.compls := rfl
@[simp] theorem State.delPend_rim (id : Nat) : (s.delPend id).rim = s.rim := rfl
@[simp] theorem State.delPend_peers (id : Nat) : (s.delPend id).peers = s.peers := rfl
@[simp] theorem State.delPend_outbox (id : Nat) : (s.delPend id).outbox = s.outbox := rfl
@[simp] theorem State.delPend_grants (id : Nat) : (s.delPend id).grants = s.grants := rfl
@[simp] theorem State.delPend_syncs (id : Nat) : (s.delPend id).syncs = s.syncs := rfl
@[simp] theorem State.delPend_svcNext (id : Nat) : (s.delPend id).svcNext = s.svcNext := rfl

@[simp] theorem State.setHport_sched (n : Nat) (h : HPort) : (s.setHport n h).sched = s.sched := rfl
@[simp] theorem State.setHport_cyc (n : Nat) (h : HPort) : (s.setHport n h).cyc = s.cyc := rfl
@[simp] theorem State.setHport_boot (n : Nat) (h : HPort) : (s.setHport n h).boot = s.boot := rfl
@[simp] theorem State.setHport_hports (n : Nat) (h : HPort) : (s.setHport n h).hports = putT s.hports n h := rfl
@[simp] theorem State.setHport_vfs (n : Nat) (h : HPort) : (s.setHport n h).vfs = s.vfs := rfl
@[simp] theorem State.setHport_ports (n : Nat) (h : HPort) : (s.setHport n h).ports = s.ports := rfl
@[simp] theorem State.setHport_parts (n : Nat) (h : HPort) : (s.setHport n h).parts = s.parts := rfl
@[simp] theorem State.setHport_cores (n : Nat) (h : HPort) : (s.setHport n h).cores = s.cores := rfl
@[simp] theorem State.setHport_insts (n : Nat) (h : HPort) : (s.setHport n h).insts = s.insts := rfl
@[simp] theorem State.setHport_mem (n : Nat) (h : HPort) : (s.setHport n h).mem = s.mem := rfl
@[simp] theorem State.setHport_full (n : Nat) (h : HPort) : (s.setHport n h).full = s.full := rfl
@[simp] theorem State.setHport_bad (n : Nat) (h : HPort) : (s.setHport n h).bad = s.bad := rfl
@[simp] theorem State.setHport_pends (n : Nat) (h : HPort) : (s.setHport n h).pends = s.pends := rfl
@[simp] theorem State.setHport_cmds (n : Nat) (h : HPort) : (s.setHport n h).cmds = s.cmds := rfl
@[simp] theorem State.setHport_calls (n : Nat) (h : HPort) : (s.setHport n h).calls = s.calls := rfl
@[simp] theorem State.setHport_mons (n : Nat) (h : HPort) : (s.setHport n h).mons = s.mons := rfl
@[simp] theorem State.setHport_moves (n : Nat) (h : HPort) : (s.setHport n h).moves = s.moves := rfl
@[simp] theorem State.setHport_caches (n : Nat) (h : HPort) : (s.setHport n h).caches = s.caches := rfl
@[simp] theorem State.setHport_links (n : Nat) (h : HPort) : (s.setHport n h).links = s.links := rfl
@[simp] theorem State.setHport_oasis (n : Nat) (h : HPort) : (s.setHport n h).oasis = s.oasis := rfl
@[simp] theorem State.setHport_bias (n : Nat) (h : HPort) : (s.setHport n h).bias = s.bias := rfl
@[simp] theorem State.setHport_drbg (n : Nat) (h : HPort) : (s.setHport n h).drbg = s.drbg := rfl
@[simp] theorem State.setHport_bindNo (n : Nat) (h : HPort) : (s.setHport n h).bindNo = s.bindNo := rfl
@[simp] theorem State.setHport_rot (n : Nat) (h : HPort) : (s.setHport n h).rot = s.rot := rfl
@[simp] theorem State.setHport_compls (n : Nat) (h : HPort) : (s.setHport n h).compls = s.compls := rfl
@[simp] theorem State.setHport_rim (n : Nat) (h : HPort) : (s.setHport n h).rim = s.rim := rfl
@[simp] theorem State.setHport_peers (n : Nat) (h : HPort) : (s.setHport n h).peers = s.peers := rfl
@[simp] theorem State.setHport_outbox (n : Nat) (h : HPort) : (s.setHport n h).outbox = s.outbox := rfl
@[simp] theorem State.setHport_grants (n : Nat) (h : HPort) : (s.setHport n h).grants = s.grants := rfl
@[simp] theorem State.setHport_syncs (n : Nat) (h : HPort) : (s.setHport n h).syncs = s.syncs := rfl
@[simp] theorem State.setHport_svcNext (n : Nat) (h : HPort) : (s.setHport n h).svcNext = s.svcNext := rfl

@[simp] theorem State.setL1_sched (n : Nat) (l : List L1Line) : (s.setL1 n l).sched = s.sched := rfl
@[simp] theorem State.setL1_cyc (n : Nat) (l : List L1Line) : (s.setL1 n l).cyc = s.cyc := rfl
@[simp] theorem State.setL1_boot (n : Nat) (l : List L1Line) : (s.setL1 n l).boot = s.boot := rfl
@[simp] theorem State.setL1_hports (n : Nat) (l : List L1Line) : (s.setL1 n l).hports = s.hports := rfl
@[simp] theorem State.setL1_vfs (n : Nat) (l : List L1Line) : (s.setL1 n l).vfs = s.vfs := rfl
@[simp] theorem State.setL1_ports (n : Nat) (l : List L1Line) : (s.setL1 n l).ports = s.ports := rfl
@[simp] theorem State.setL1_parts (n : Nat) (l : List L1Line) : (s.setL1 n l).parts = s.parts := rfl
@[simp] theorem State.setL1_cores (n : Nat) (l : List L1Line) : (s.setL1 n l).cores = s.cores := rfl
@[simp] theorem State.setL1_insts (n : Nat) (l : List L1Line) : (s.setL1 n l).insts = s.insts := rfl
@[simp] theorem State.setL1_mem (n : Nat) (l : List L1Line) : (s.setL1 n l).mem = s.mem := rfl
@[simp] theorem State.setL1_full (n : Nat) (l : List L1Line) : (s.setL1 n l).full = s.full := rfl
@[simp] theorem State.setL1_bad (n : Nat) (l : List L1Line) : (s.setL1 n l).bad = s.bad := rfl
@[simp] theorem State.setL1_pends (n : Nat) (l : List L1Line) : (s.setL1 n l).pends = s.pends := rfl
@[simp] theorem State.setL1_cmds (n : Nat) (l : List L1Line) : (s.setL1 n l).cmds = s.cmds := rfl
@[simp] theorem State.setL1_calls (n : Nat) (l : List L1Line) : (s.setL1 n l).calls = s.calls := rfl
@[simp] theorem State.setL1_mons (n : Nat) (l : List L1Line) : (s.setL1 n l).mons = s.mons := rfl
@[simp] theorem State.setL1_moves (n : Nat) (l : List L1Line) : (s.setL1 n l).moves = s.moves := rfl
@[simp] theorem State.setL1_links (n : Nat) (l : List L1Line) : (s.setL1 n l).links = s.links := rfl
@[simp] theorem State.setL1_oasis (n : Nat) (l : List L1Line) : (s.setL1 n l).oasis = s.oasis := rfl
@[simp] theorem State.setL1_bias (n : Nat) (l : List L1Line) : (s.setL1 n l).bias = s.bias := rfl
@[simp] theorem State.setL1_drbg (n : Nat) (l : List L1Line) : (s.setL1 n l).drbg = s.drbg := rfl
@[simp] theorem State.setL1_bindNo (n : Nat) (l : List L1Line) : (s.setL1 n l).bindNo = s.bindNo := rfl
@[simp] theorem State.setL1_rot (n : Nat) (l : List L1Line) : (s.setL1 n l).rot = s.rot := rfl
@[simp] theorem State.setL1_compls (n : Nat) (l : List L1Line) : (s.setL1 n l).compls = s.compls := rfl
@[simp] theorem State.setL1_rim (n : Nat) (l : List L1Line) : (s.setL1 n l).rim = s.rim := rfl
@[simp] theorem State.setL1_peers (n : Nat) (l : List L1Line) : (s.setL1 n l).peers = s.peers := rfl
@[simp] theorem State.setL1_outbox (n : Nat) (l : List L1Line) : (s.setL1 n l).outbox = s.outbox := rfl
@[simp] theorem State.setL1_grants (n : Nat) (l : List L1Line) : (s.setL1 n l).grants = s.grants := rfl
@[simp] theorem State.setL1_syncs (n : Nat) (l : List L1Line) : (s.setL1 n l).syncs = s.syncs := rfl
@[simp] theorem State.setL1_svcNext (n : Nat) (l : List L1Line) : (s.setL1 n l).svcNext = s.svcNext := rfl

@[simp] theorem State.setL2_sched (d : Nat) (l : List L2Line) : (s.setL2 d l).sched = s.sched := rfl
@[simp] theorem State.setL2_cyc (d : Nat) (l : List L2Line) : (s.setL2 d l).cyc = s.cyc := rfl
@[simp] theorem State.setL2_boot (d : Nat) (l : List L2Line) : (s.setL2 d l).boot = s.boot := rfl
@[simp] theorem State.setL2_hports (d : Nat) (l : List L2Line) : (s.setL2 d l).hports = s.hports := rfl
@[simp] theorem State.setL2_vfs (d : Nat) (l : List L2Line) : (s.setL2 d l).vfs = s.vfs := rfl
@[simp] theorem State.setL2_ports (d : Nat) (l : List L2Line) : (s.setL2 d l).ports = s.ports := rfl
@[simp] theorem State.setL2_parts (d : Nat) (l : List L2Line) : (s.setL2 d l).parts = s.parts := rfl
@[simp] theorem State.setL2_cores (d : Nat) (l : List L2Line) : (s.setL2 d l).cores = s.cores := rfl
@[simp] theorem State.setL2_insts (d : Nat) (l : List L2Line) : (s.setL2 d l).insts = s.insts := rfl
@[simp] theorem State.setL2_mem (d : Nat) (l : List L2Line) : (s.setL2 d l).mem = s.mem := rfl
@[simp] theorem State.setL2_full (d : Nat) (l : List L2Line) : (s.setL2 d l).full = s.full := rfl
@[simp] theorem State.setL2_bad (d : Nat) (l : List L2Line) : (s.setL2 d l).bad = s.bad := rfl
@[simp] theorem State.setL2_pends (d : Nat) (l : List L2Line) : (s.setL2 d l).pends = s.pends := rfl
@[simp] theorem State.setL2_cmds (d : Nat) (l : List L2Line) : (s.setL2 d l).cmds = s.cmds := rfl
@[simp] theorem State.setL2_calls (d : Nat) (l : List L2Line) : (s.setL2 d l).calls = s.calls := rfl
@[simp] theorem State.setL2_mons (d : Nat) (l : List L2Line) : (s.setL2 d l).mons = s.mons := rfl
@[simp] theorem State.setL2_moves (d : Nat) (l : List L2Line) : (s.setL2 d l).moves = s.moves := rfl
@[simp] theorem State.setL2_links (d : Nat) (l : List L2Line) : (s.setL2 d l).links = s.links := rfl
@[simp] theorem State.setL2_oasis (d : Nat) (l : List L2Line) : (s.setL2 d l).oasis = s.oasis := rfl
@[simp] theorem State.setL2_bias (d : Nat) (l : List L2Line) : (s.setL2 d l).bias = s.bias := rfl
@[simp] theorem State.setL2_drbg (d : Nat) (l : List L2Line) : (s.setL2 d l).drbg = s.drbg := rfl
@[simp] theorem State.setL2_bindNo (d : Nat) (l : List L2Line) : (s.setL2 d l).bindNo = s.bindNo := rfl
@[simp] theorem State.setL2_rot (d : Nat) (l : List L2Line) : (s.setL2 d l).rot = s.rot := rfl
@[simp] theorem State.setL2_compls (d : Nat) (l : List L2Line) : (s.setL2 d l).compls = s.compls := rfl
@[simp] theorem State.setL2_rim (d : Nat) (l : List L2Line) : (s.setL2 d l).rim = s.rim := rfl
@[simp] theorem State.setL2_peers (d : Nat) (l : List L2Line) : (s.setL2 d l).peers = s.peers := rfl
@[simp] theorem State.setL2_outbox (d : Nat) (l : List L2Line) : (s.setL2 d l).outbox = s.outbox := rfl
@[simp] theorem State.setL2_grants (d : Nat) (l : List L2Line) : (s.setL2 d l).grants = s.grants := rfl
@[simp] theorem State.setL2_syncs (d : Nat) (l : List L2Line) : (s.setL2 d l).syncs = s.syncs := rfl
@[simp] theorem State.setL2_svcNext (d : Nat) (l : List L2Line) : (s.setL2 d l).svcNext = s.svcNext := rfl

end Sys2Proof.Machine
end

