-- ==== Sys2Proof/Laws/Caches.lean ====
section
/-!
SUPPORT. Everything that the caches' part in an access can change: the copies that caches and stash banks hold, and
the overflow counts of retention registers.
-/
namespace Sys2Proof.Machine

/-- A state that differs from another in its caches, its tiles' stash tags and its partitions' retention registers alone. -/
structure CopiesOnly (s u : State) : Prop where
  rest : ∃ cs is ps, u = { s with caches := cs, insts := is, parts := ps }
  part : ∀ p x, s.part p = some x → ∃ r, u.part p = some { x with retain := r }
  inst : ∀ k i, s.inst k = some i → ∃ ts, u.inst k = some { i with tiles := ts } ∧
    ∀ tk t, getT i.tiles tk = some t → ∃ c, getT ts tk = some { t with stash := c }

namespace CopiesOnly

theorem refl (s : State) : CopiesOnly s s where
  rest := ⟨_, _, _, rfl⟩
  part _ x h := ⟨x.retain, h⟩
  inst _ i h := ⟨i.tiles, h, fun _ t h => ⟨t.stash, h⟩⟩

theorem trans {s t u : State} (h : CopiesOnly s t) (g : CopiesOnly t u) : CopiesOnly s u where
  rest := by
    obtain ⟨_, _, _, e⟩ := h.rest
    obtain ⟨_, _, _, e'⟩ := g.rest
    exact ⟨_, _, _, by rw [e', e]⟩
  part p x hx := by
    obtain ⟨_, e⟩ := h.part p x hx
    obtain ⟨r, e'⟩ := g.part p _ e
    exact ⟨r, e'⟩
  inst k i hi := by
    obtain ⟨ts, e, ht⟩ := h.inst k i hi
    obtain ⟨us, e', hu⟩ := g.inst k _ e
    refine ⟨us, e', fun tk t htk => ?_⟩
    obtain ⟨_, e⟩ := ht tk t htk
    obtain ⟨c, e'⟩ := hu tk _ e
    exact ⟨c, e'⟩

theorem ofCaches (s : State) (c : Caches) : CopiesOnly s { s with caches := c } where
  rest := ⟨_, _, _, rfl⟩
  part _ x h := ⟨x.retain, h⟩
  inst _ i h := ⟨i.tiles, h, fun _ t h => ⟨t.stash, h⟩⟩

theorem setPart {s : State} {p : Nat} {x : Part} (hx : s.part p = some x) (r : Tab Retain) :
    CopiesOnly s (s.setPart p { x with retain := r }) where
  rest := ⟨_, _, _, rfl⟩
  part q y hy := by
    by_cases h : q = p
    · subst h
      rw [hx] at hy
      injection hy with hy
      exact ⟨r, by simp [State.part, State.setPart, hy]⟩
    · exact ⟨y.retain, by simpa [State.part, State.setPart, getT_putT_other _ _ h] using hy⟩
  inst _ i h := ⟨i.tiles, h, fun _ t h => ⟨t.stash, h⟩⟩

theorem dropStash (s : State) (lo hi : Nat) (all : Bool) : CopiesOnly s (dropStash s lo hi all) where
  rest := ⟨_, _, _, rfl⟩
  part _ x h := ⟨x.retain, h⟩
  inst k i h := by
    rw [State.inst] at h
    refine ⟨_, by simp only [State.inst, Machine.dropStash, getT_mapT, h, Option.map_some]; rfl, fun tk t ht => ?_⟩
    exact ⟨_, by simp only [getT_mapT, ht, Option.map_some]; rfl⟩

theorem modTile (s : State) (k tk : Nat) (f : Tile → Tab (Nat × Nat)) :
    CopiesOnly s (s.modTile k tk fun t => { t with stash := f t }) := by
  unfold State.modTile State.modInst
  cases hi : s.inst k with
  | none => exact refl s
  | some i =>
    refine ⟨⟨_, _, _, rfl⟩, fun _ x h => ⟨x.retain, h⟩, fun m j hj => ?_⟩
    by_cases h : m = k
    · subst h
      rw [hi] at hj
      injection hj with hj
      subst hj
      cases ht : getT i.tiles tk with
      | none => exact ⟨i.tiles, by simp [State.inst, State.setInst, ht], fun _ t h => ⟨t.stash, h⟩⟩
      | some t =>
        refine ⟨putT i.tiles tk { t with stash := f t }, by simp [State.inst, State.setInst, ht, Inst.setTile], fun n v hv => ?_⟩
        by_cases g : n = tk
        · subst g
          rw [ht] at hv
          injection hv with hv
          subst hv
          exact ⟨f t, by simp⟩
        · exact ⟨v.stash, by simpa [getT_putT_other _ _ g] using hv⟩
    · exact ⟨j.tiles, by simpa [State.inst, State.setInst, getT_putT_other _ _ h] using hj, fun _ t h => ⟨t.stash, h⟩⟩

theorem touchL2 (s : State) (p va ga : Nat) (write : Bool) (hint : Hint) : CopiesOnly s (touchL2 s p va ga write hint) := by
  unfold Machine.touchL2
  cases hx : s.part p with
  | none => exact refl s
  | some x =>
    dsimp only
    split
    · split
      · exact ofCaches ..
      · split <;> exact ofCaches ..
    · split
      · exact refl s
      · split
        · exact refl s
        · rename_i w old ovf _
          cases old with
          | none =>
            dsimp only
            split
            · exact (ofCaches ..).trans (setPart (x := x) (by exact hx) _)
            · exact ofCaches ..
          | some v =>
            have h : CopiesOnly s (Machine.dropStash (dropL1 s v.ga (v.ga + 1024)) v.ga (v.ga + 1024) true) :=
              (ofCaches ..).trans (dropStash ..)
            dsimp only
            split
            · exact (h.trans (ofCaches ..)).trans (setPart (x := x) (by exact hx) _)
            · exact h.trans (ofCaches ..)

theorem touchL1 (s : State) (n ga st : Nat) (hint : Hint) (half : Option Bool) : CopiesOnly s (touchL1 s n ga st hint half) := by
  unfold Machine.touchL1
  dsimp only
  split
  · split <;> exact ofCaches ..
  · split
    · exact refl s
    · exact ofCaches ..

theorem ite {c : Prop} [Decidable c] {s a b : State} (ha : CopiesOnly s a) (hb : CopiesOnly s b) :
    CopiesOnly s (if c then a else b) := by
  split <;> assumption

theorem hostHalf (s : State) (p va ga : Nat) (write rmw : Bool) (hint : Hint) : CopiesOnly s (hostHalf s p va ga write rmw hint) :=
  ite (touchL2 ..) ((touchL2 ..).trans (ofCaches ..))

theorem touchStash (s : State) (p : Nat) (q : Page) (va ga : Nat) (excl write : Bool) :
    CopiesOnly s (touchStash s p q va ga excl write) := by
  unfold Machine.touchStash
  split
  · exact refl s
  · exact ite (touchL2 ..) ((((ofCaches ..).trans (dropStash ..)).trans (touchL2 ..)).trans (modTile ..))

theorem touchCore (s : State) (core : Option Nat) (ga : Nat) (write : Bool) (hint : Hint) (half : Option Bool) (home : State → State)
    (h : CopiesOnly s (home s)) : CopiesOnly s (touchCore s core ga write hint half home) := by
  unfold Machine.touchCore
  split
  · exact h
  · exact ite (h.trans (touchL1 ..)) h

/-- What the caches' part in an access changes. -/
theorem touch (s : State) (core : Option Nat) (p va ga : Nat) (write rmw : Bool) (hint : Hint) (pg : Option Page) :
    CopiesOnly s (touch s core p va ga write rmw hint pg) := by
  unfold Machine.touch
  dsimp only
  have h : CopiesOnly s (if write then dropFabric s ga 1 else s) := ite (ofCaches ..) (refl s)
  refine h.trans ?_
  generalize (if write then dropFabric s ga 1 else s) = u
  refine ite (ite ((ofCaches ..).trans (ofCaches ..)) ((ofCaches ..).trans (touchCore _ _ _ _ _ _ _ (hostHalf ..)))) (ite (refl u) ?_)
  split
  · exact touchStash ..
  · exact ((ofCaches ..).trans (dropStash ..)).trans (touchCore _ _ _ _ _ _ _ (touchL2 ..))

@[simp] theorem mem {s u : State} (h : CopiesOnly s u) : u.mem = s.mem := by obtain ⟨_, _, _, e⟩ := h.rest; rw [e]
@[simp] theorem pends {s u : State} (h : CopiesOnly s u) : u.pends = s.pends := by obtain ⟨_, _, _, e⟩ := h.rest; rw [e]
@[simp] theorem cmds {s u : State} (h : CopiesOnly s u) : u.cmds = s.cmds := by obtain ⟨_, _, _, e⟩ := h.rest; rw [e]
@[simp] theorem cores {s u : State} (h : CopiesOnly s u) : u.cores = s.cores := by obtain ⟨_, _, _, e⟩ := h.rest; rw [e]
@[simp] theorem vfs {s u : State} (h : CopiesOnly s u) : u.vfs = s.vfs := by obtain ⟨_, _, _, e⟩ := h.rest; rw [e]
@[simp] theorem links {s u : State} (h : CopiesOnly s u) : u.links = s.links := by obtain ⟨_, _, _, e⟩ := h.rest; rw [e]

end CopiesOnly
end Sys2Proof.Machine
end

