-- ==== Sys2Proof/Laws/Runs.lean ====
section
/-!
SUPPORT. General registers, and what the operations that every control-core word shares can do.
-/
namespace Sys2Proof.Machine

theorem Run.get_zero (r : Run) : r.get 0 = 0 := rfl
theorem Run.set_zero (r : Run) (v : Word) : r.set 0 v = r := rfl

@[simp] theorem Run.set_rc (r : Run) (i : Reg) (v : Word) : (r.set i v).rc = r.rc := by unfold Run.set; split <;> rfl
@[simp] theorem Run.set_pc (r : Run) (i : Reg) (v : Word) : (r.set i v).pc = r.pc := by unfold Run.set; split <;> rfl

theorem Run.get_set_same {r : Run} {i : Reg} (v : Word) (h : i.val ≠ 0) : (r.set i v).get i = v := by
  unfold Run.get Run.set
  rw [if_neg h, if_neg h]
  simp

theorem Run.get_set_other {r : Run} {i j : Reg} (v : Word) (h : j ≠ i) : (r.set i v).get j = r.get j := by
  have hv : i.val ≠ j.val := fun e => h (Fin.ext e.symm)
  unfold Run.get Run.set
  by_cases hj : j.val = 0
  · rw [if_pos hj, if_pos hj]
  · rw [if_neg hj, if_neg hj]
    by_cases hi : i.val = 0
    · rw [if_pos hi]
    · rw [if_neg hi]
      simp [hv]

/-- The image of a run depends on its instance number alone. -/
theorem State.image_rc (s : State) {r r' : Run} (h : r'.rc = r.rc) : s.image r' = s.image r := by
  unfold State.image; rw [h]

@[simp] theorem State.inst_setRun (s : State) (n : Nat) (r : Option Run) (k : Nat) : (s.setRun n r).inst k = s.inst k := rfl
@[simp] theorem State.part_setRun (s : State) (n : Nat) (r : Option Run) (k : Nat) : (s.setRun n r).part k = s.part k := rfl
@[simp] theorem State.image_setRun (s : State) (n : Nat) (x : Option Run) (r : Run) : (s.setRun n x).image r = s.image r := rfl
@[simp] theorem State.image_setPart (s : State) (p : Nat) (x : Part) (r : Run) : (s.setPart p x).image r = s.image r := rfl
@[simp] theorem State.image_setCore (s : State) (n : Nat) (c : Core) (r : Run) : (s.setCore n c).image r = s.image r := rfl
@[simp] theorem State.inst_setPart (s : State) (p : Nat) (x : Part) (k : Nat) : (s.setPart p x).inst k = s.inst k := rfl
@[simp] theorem State.inst_setCore (s : State) (n : Nat) (c : Core) (k : Nat) : (s.setCore n c).inst k = s.inst k := rfl
@[simp] theorem State.part_setCore (s : State) (n : Nat) (c : Core) (k : Nat) : (s.setCore n c).part k = s.part k := rfl
@[simp] theorem State.part_setInst (s : State) (n : Nat) (i : Inst) (k : Nat) : (s.setInst n i).part k = s.part k := rfl
@[simp] theorem State.core_setInst (s : State) (n : Nat) (i : Inst) (k : Nat) : (s.setInst n i).core k = s.core k := rfl
@[simp] theorem State.core_setPart (s : State) (n : Nat) (x : Part) (k : Nat) : (s.setPart n x).core k = s.core k := rfl
@[simp] theorem State.core_setCore_same (s : State) (n : Nat) (c : Core) : (s.setCore n c).core n = c := by
  simp [State.core]
@[simp] theorem State.part_setPart_same (s : State) (p : Nat) (x : Part) : (s.setPart p x).part p = some x := by
  simp [State.part]
@[simp] theorem State.inst_setInst_same (s : State) (k : Nat) (i : Inst) : (s.setInst k i).inst k = some i := by
  simp [State.inst]

theorem State.modPart_some {s : State} {p : Nat} {x : Part} (h : s.part p = some x) (f : Part → Part) :
    s.modPart p f = s.setPart p (f x) := by simp [State.modPart, h]
theorem State.modInst_some {s : State} {k : Nat} {i : Inst} (h : s.inst k = some i) (f : Inst → Inst) :
    s.modInst k f = s.setInst k (f i) := by simp [State.modInst, h]

/-- Two updates of a core: the later one stands. -/
@[simp] theorem putT_putT {α : Type} (t : Tab α) (n : Nat) (x y : α) : putT (putT t n x) n y = putT t n y := by
  induction t with
  | nil => simp [putT]
  | cons e t ih => by_cases h : e.1 = n <;> simp [putT, h, ih]
@[simp] theorem State.setCore_setCore (s : State) (n : Nat) (c d : Core) : (s.setCore n c).setCore n d = s.setCore n d := by
  simp [State.setCore]
@[simp] theorem State.setInst_setInst (s : State) (n : Nat) (c d : Inst) : (s.setInst n c).setInst n d = s.setInst n d := by
  simp [State.setInst]
@[simp] theorem State.setPart_setPart (s : State) (n : Nat) (c d : Part) : (s.setPart n c).setPart n d = s.setPart n d := by
  simp [State.setPart]
@[simp] theorem State.setRun_setRun (s : State) (n : Nat) (c d : Option Run) : (s.setRun n c).setRun n d = s.setRun n d := by
  simp [State.setRun, State.setCore, State.core]

/-! ### What the shared operations of control-core words can do -/

/-- A meaning that runs on a core is that of the run it executes. -/
theorem onRun_on {s : State} {n : Nat} {r : Run} (f : Nat → Run → Out) (hn : s.sched.core = n) (hr : (s.core n).run = some r) :
    onRun s f = f n r := by
  subst hn; simp [onRun, hr]

/-- A meaning that runs on a core answers a state only where a run executes. -/
theorem onRun_cases (s : State) (f : Nat → Run → Out) :
    (∃ r, (s.core s.sched.core).run = some r ∧ onRun s f = f s.sched.core r) ∨
      ((s.core s.sched.core).run = none ∧ onRun s f = .fault .nothingExecutes) := by
  unfold onRun
  cases h : (s.core s.sched.core).run with
  | none => exact .inr ⟨rfl, rfl⟩
  | some r => exact .inl ⟨r, rfl, rfl⟩

/-- A word that completes goes on inside the code, or traps with ILLEGAL at its own index (R101). -/
theorem retire_inside {s : State} {n : Nat} {r : Run} (h : r.pc + 1 < (s.image r).words) :
    retire s n r = s.setRun n (some { r with pc := r.pc + 1 }) := if_pos h
theorem retire_outside {s : State} {n : Nat} {r : Run} (h : (s.image r).words ≤ r.pc + 1) :
    retire s n r = trap s n r cILLEGAL := if_neg (Nat.not_lt.2 h)
theorem goto_inside {s : State} {n : Nat} {r r' : Run} {t : Int} (h0 : 0 ≤ t) (h : t < (s.image r).words) :
    goto s n r r' t = s.setRun n (some { r' with pc := t.toNat }) := if_pos ⟨h0, h⟩
theorem goto_outside {s : State} {n : Nat} {r r' : Run} {t : Int} (h : t < 0 ∨ (s.image r).words ≤ t) :
    goto s n r r' t = trap s n r cILLEGAL := if_neg (by omega)

/-- A word that writes one register, and completes. -/
theorem writes_on {s : State} {n : Nat} {r : Run} (d : Reg) (f : Run → Word) (hn : s.sched.core = n)
    (hr : (s.core n).run = some r) : writes s d f = .next (retire s n (r.set d (f r))) := by
  unfold writes
  rw [onRun_on _ hn hr]

end Sys2Proof.Machine
end

