-- ==== Sys2Proof/Laws/Effects.lean ====
section
/-!
SUPPORT. Everything the shared operations can change: making a record runnable, waking monitors, writing at a home,
issuing an operation, and a translation that looks in a TLB.
-/
namespace Sys2Proof.Machine

/-- A record that becomes runnable changes partitions and cores alone. -/
theorem runnable_changes (s : State) (p : Nat) (c : Option Nat) (r : Rec) (h : Bool) :
    ∃ ps cs, runnable s p c r h = { s with parts := ps, cores := cs } := by
  simp only [runnable]
  repeat' split
  all_goals exact ⟨_, _, rfl⟩

/-- A token that leaves for another module, now or later, changes the links and what waits for them alone. -/
theorem sendLater_changes (s : State) (m pl p tag : Nat) (req : LlReq) :
    ∃ ls ob, s.sendLater m pl p tag req = { s with links := ls, outbox := ob } := by
  simp only [State.sendLater, State.sendToken, State.sendOn]
  repeat' split
  all_goals first | exact ⟨_, _, rfl⟩ | skip
  all_goals (rename_i h; split at h <;> cases h; exact ⟨_, _, rfl⟩)

/-- What a primary's bank has written leaves for its mirror through the links alone. -/
theorem toMirror_changes (s : State) (p ga : Nat) (bs : List Byte) : ∃ ls ob, toMirror s p ga bs = { s with links := ls, outbox := ob } := by
  unfold toMirror
  split
  · exact sendLater_changes ..
  · exact ⟨_, _, rfl⟩

/-- Waking parked records changes partitions, cores and what is sent alone. -/
theorem wakeAll_changes (l : List (Nat × Nat × Nat)) (s : State) :
    ∃ ps cs ls ob, wakeAll s l = { s with parts := ps, cores := cs, links := ls, outbox := ob } := by
  induction l generalizing s with
  | nil => exact ⟨_, _, _, _, rfl⟩
  | cons e l ih =>
    obtain ⟨p, i, c⟩ := e
    simp only [wakeAll]
    split
    · obtain ⟨ls, ob, h⟩ := sendLater_changes s (p - 16) (planeOf i) c (memTag (p - 16) (planeOf i)) (.wake i)
      obtain ⟨ps, cs, ls', ob', h'⟩ := ih { s with links := ls, outbox := ob }
      exact ⟨ps, cs, ls', ob', by rw [h, h']⟩
    · split
      · exact ih s
      · split
        · exact ih s
        · rename_i x _ _ r _
          obtain ⟨ps, cs, h⟩ := runnable_changes (s.setPart p (poolDel x i)) p (some c) r false
          obtain ⟨ps', cs', ls, ob, h'⟩ := ih { s.setPart p (poolDel x i) with parts := ps, cores := cs }
          exact ⟨ps', cs', ls, ob, by rw [h, h']; rfl⟩

/-- Waking a word's monitor changes partitions, cores, monitors and what is sent alone. -/
theorem wakeWord_changes (s : State) (a : Nat) :
    ∃ ps cs ls ob ms, wakeWord s a = { s with parts := ps, cores := cs, links := ls, outbox := ob, mons := ms } := by
  simp only [wakeWord]
  split
  · exact ⟨_, _, _, _, _, rfl⟩
  · rename_i m _
    obtain ⟨ps, cs, ls, ob, h⟩ := wakeAll_changes m.parked { s with mons := putT s.mons (monTable a) ((getTD s.mons (monTable a) []).filter (fun m => decide (m.ga ≠ a / 8 * 8))) }
    exact ⟨ps, cs, ls, ob, _, h⟩

/-- Waking several words changes partitions, cores, monitors and what is sent alone. -/
theorem wakeWords_changes (l : List Nat) (s : State) :
    ∃ ps cs ls ob ms, l.foldl wakeWord s = { s with parts := ps, cores := cs, links := ls, outbox := ob, mons := ms } := by
  induction l generalizing s with
  | nil => exact ⟨_, _, _, _, _, rfl⟩
  | cons a l ih =>
    obtain ⟨ps, cs, ls, ob, ms, h⟩ := wakeWord_changes s a
    obtain ⟨ps', cs', ls', ob', ms', h'⟩ := ih (wakeWord s a)
    exact ⟨ps', cs', ls', ob', ms', by rw [List.foldl_cons, h', h]⟩

/-- A change of an instance changes instances alone. -/
theorem State.modInst_changes (s : State) (k : Nat) (f : Inst → Inst) : ∃ is, s.modInst k f = { s with insts := is } := by
  simp only [State.modInst]
  split <;> exact ⟨_, rfl⟩

/-- A change of a partition changes partitions alone. -/
theorem State.modPart_changes (s : State) (k : Nat) (f : Part → Part) : ∃ ps, s.modPart k f = { s with parts := ps } := by
  simp only [State.modPart]
  split <;> exact ⟨_, rfl⟩

/-- A write at a home changes memory or a tile's SRAM, mends what it overwrites, wakes monitors, and sends to a mirror. -/
theorem homeWrite_changes {s t : State} {p ga : Nat} {bs : List Byte} (h : homeWrite s p ga bs = .ok t) :
    ∃ ps cs ls ob ms is m b, t = { s with parts := ps, cores := cs, links := ls, outbox := ob, mons := ms, insts := is, mem := m, bad := b } := by
  simp only [homeWrite] at h
  split at h
  · cases h
  · split at h
    · split at h
      · rename_i k tk x _
        obtain ⟨is, hi⟩ := s.modInst_changes k fun i => i.setTile tk { x with
          sram := memPuts x.sram (fwdGa s ga % 2 ^ 20) bs, bad := mended x.bad (fwdGa s ga % 2 ^ 20) bs.length }
        obtain ⟨ps, cs, ls, ob, ms, hw⟩ := wakeWords_changes (wordsOf (fwdGa s ga) bs.length) { s with insts := is }
        rw [hi, hw] at h
        exact ⟨ps, cs, ls, ob, ms, is, s.mem, s.bad, by injection h with h; exact h.symm⟩
      · cases h
    · obtain ⟨ls, ob, hm⟩ := toMirror_changes { s.setMem (memPuts s.mem (fwdGa s ga) bs) with bad := mended s.bad (fwdGa s ga) bs.length }
        p (fwdGa s ga) bs
      rw [hm] at h
      obtain ⟨ps, cs, ls', ob', ms, hw⟩ := wakeWords_changes (wordsOf (fwdGa s ga) bs.length)
        { s.setMem (memPuts s.mem (fwdGa s ga) bs) with bad := mended s.bad (fwdGa s ga) bs.length, links := ls, outbox := ob }
      rw [hw] at h
      exact ⟨ps, cs, ls', ob', ms, s.insts, _, _, by injection h with h; exact h.symm⟩

/-- A look in a TLB changes the caches, the free values drawn, and the partition's event counters. -/
theorem tlbLook_changes (s : State) (die p : Nat) (q : Page) :
    ∃ c f ps, tlbLook s die p q = { s with caches := c, sched := { s.sched with free := f }, parts := ps } := by
  unfold tlbLook
  simp only
  split
  · exact ⟨_, _, _, rfl⟩
  · simp only [State.walk, State.count]
    obtain ⟨ps, h⟩ := State.modPart_changes s.free.2 p fun x => countEvent x 6 1
    rw [h]
    obtain ⟨ps', h'⟩ := State.modPart_changes { s.free.2 with parts := ps } p fun x => countEvent x 7 1
    rw [h']
    exact ⟨_, _, ps', rfl⟩

/-- The translation of an access changes no instance and draws no operation number. -/
theorem looked_changes (s : State) (n : Nat) (r : Run) (pg : Option Page) :
    ∃ c f ps, looked s n r pg = { s with caches := c, sched := { s.sched with free := f }, parts := ps } := by
  unfold looked
  split
  · exact tlbLook_changes ..
  · exact ⟨_, _, _, rfl⟩

@[simp] theorem looked_insts (s : State) (n : Nat) (r : Run) (pg : Option Page) : (looked s n r pg).insts = s.insts := by
  obtain ⟨_, _, _, h⟩ := looked_changes s n r pg
  rw [h]
@[simp] theorem looked_next (s : State) (n : Nat) (r : Run) (pg : Option Page) : (looked s n r pg).sched.next = s.sched.next := by
  obtain ⟨_, _, _, h⟩ := looked_changes s n r pg
  rw [h]

/-- An image depends on the instances and the run's record. -/
theorem State.image_congr {s t : State} {r u : Run} (h : t.insts = s.insts) (h' : u.rc = r.rc) : t.image u = s.image r := by
  unfold State.image State.inst
  rw [h, h']

/-- What issuing an operation leaves: the operation is pending, it counts in its class, its destination is interlocked,
an acquire holds later words, and the word completes. -/
theorem issue_eq (s : State) (n : Nat) (r : Run) (mk : Nat → Pend) :
    issue s n r mk =
      let q := mk s.sched.next
      retire { s with sched := { s.sched with next := s.sched.next + 1 }, pends := s.pends ++ [q] } n { r with
        ldc := r.ldc + (if q.cls = Cls.ldc then 1 else 0), stc := r.stc + (if q.cls = Cls.stc then 1 else 0)
        cpc := r.cpc + (if q.cls = Cls.cpc then 1 else 0), pnc := r.pnc + (if q.cls = Cls.pnc then 1 else 0)
        locks := r.locks ++ (if q.dst = 0 then [] else [(q.dst, q.id)])
        hold := r.hold ++ (if q.acq then [q.id] else []) } := by
  unfold issue State.fresh
  dsimp only
  congr 1
  cases hc : (mk s.sched.next).cls <;> simp [Run.inc] <;> split <;> split <;> simp

end Sys2Proof.Machine
end

