-- ==== Sys2Proof/Laws/Firing.lean ====
section
/-!
SUPPORT. What the operations that every firing word shares can do: a word on the firing of the tile that moves,
and the slots that change the tile alone, or the tile and its instance.
-/
namespace Sys2Proof.Machine

variable {s : State} {k tk : Nat} {i : Inst} {t : Tile} {f : Firing}

theorem State.modTile_some (hi : s.inst k = some i) (ht : getT i.tiles tk = some t) (g : Tile → Tile) :
    s.modTile k tk g = s.setInst k (i.setTile tk (g t)) := by
  simp [State.modTile, State.modInst_some hi, ht]

@[simp] theorem Inst.getT_setTile (i : Inst) (tk : Nat) (t : Tile) : getT (i.setTile tk t).tiles tk = some t := by
  simp [Inst.setTile]
@[simp] theorem Inst.setTile_setTile (i : Inst) (tk : Nat) (t u : Tile) : (i.setTile tk t).setTile tk u = i.setTile tk u := by
  simp [Inst.setTile]
@[simp] theorem Inst.setTile_img (i : Inst) (tk : Nat) (t : Tile) : (i.setTile tk t).img = i.img := rfl
@[simp] theorem Inst.setTile_links (i : Inst) (tk : Nat) (t : Tile) : (i.setTile tk t).links = i.links := rfl

/-- A meaning that runs on the firing of the tile that moves is that of its view. -/
theorem onFiring_on (hs : s.sched.tile = (k, tk)) (hi : s.inst k = some i) (ht : getT i.tiles tk = some t) (hf : t.firing = some f)
    (g : View → Out) : onFiring s g = g ⟨k, tk, i, t, f, s.boot.modnum⟩ := by
  simp [onFiring, hs, hi, ht, hf]

/-- A word is done: its firing goes on at the next index, and the word counts. -/
theorem View.done_next {v : View} {u : State} (hi : u.inst v.key = some i) (ht : getT i.tiles v.tk = some t) (hf : t.firing = some f) :
    v.done .next u = u.setInst v.key (i.setTile v.tk { t with
      firing := some { f with pc := v.f.pc + 1, words := f.words + 1, ops := 0, rows := 0, seen := [] } }) := by
  simp only [View.done, State.modTile_some hi ht, hf]
/-- A word is done: its firing goes on at an index of its program. -/
theorem View.done_jump {v : View} {u : State} {n : Int} (h0 : (v.i.img.slotEntry v.tk v.f.slot : Int) ≤ n)
    (h1 : n < (v.i.img.slotEntry v.tk v.f.slot : Int) + v.i.img.slotLen v.tk v.f.slot)
    (hi : u.inst v.key = some i) (ht : getT i.tiles v.tk = some t) (hf : t.firing = some f) :
    v.done (.jump n) u = u.setInst v.key (i.setTile v.tk { t with
      firing := some { f with pc := n.toNat, words := f.words + 1, ops := 0, rows := 0, seen := [] } }) := by
  simp only [View.done, State.modTile_some hi ht, hf, h0, h1, and_self, ↓reduceIte]

/-- What a scalar slot that takes effect leaves, in a word without a matrix operation. -/
theorem runSlots_scalar {v : View} {g : State → State} {late : Option (State → State)} {c : Ctl} (hv : v.f.ops = 0) :
    runSlots s v (.ok g late c) (.ok id none .next) = v.done c (g s) := by
  cases late <;> simp [runSlots, hv, SlotRes.ops, SlotRes.ctl, SlotRes.run, overlapOpen, SlotRes.late]
/-- What a vector slot that takes effect leaves, in a word without a matrix operation. -/
theorem runSlots_vector {v : View} {g : State → State} {late : Option (State → State)} {c : Ctl} (hv : v.f.ops = 0) :
    runSlots s v (.ok id none .next) (.ok g late c) = v.done .next (g s) := by
  simp [runSlots, hv, SlotRes.ops, SlotRes.ctl, SlotRes.run, overlapOpen, SlotRes.late]

end Sys2Proof.Machine
end

