-- ==== Sys2Proof/Laws/Links.lean ====
section
/-!
SUPPORT. What the arrival of a flit can do (R38): nothing, spoil the link, or go on under it.
-/
namespace Sys2Proof.Machine

/-- Nothing comes over a link that has no key, that is used up, or that the condition refuses. -/
theorem flitIn_closed {s : State} {f : LlFlit} {l : LLink} (hl : getT s.links f.link = some l) (b : LLink → Bool) (go : LLink → State → State)
    (h : l.key = none ∨ 2 ^ 32 ≤ l.count ∨ b l = false) : flitIn s f b go = s := by
  unfold flitIn
  rw [hl]
  exact if_pos (h.imp_left fun h => by rw [h]; rfl)

/-- A flit whose tag fails is counted and retrains its link, and nothing else changes. -/
theorem flitIn_spoiled {s : State} {f : LlFlit} {l : LLink} (hl : getT s.links f.link = some l) (b : LLink → Bool) (go : LLink → State → State)
    (hk : l.key.isSome = true) (hc : l.count < 2 ^ 32) (hb : b l = true) (h : f.tagOk = false ∨ (f.old = true ∧ l.oldKey = none)) :
    flitIn s f b go = { s with links := putT s.links f.link { l with bad := l.bad + 1, retrained := l.retrained + 1 } } := by
  have hn : l.key.isNone = false := by cases hk' : l.key <;> simp_all
  unfold flitIn
  rw [hl]; dsimp only
  rw [if_neg (by simp [hn, hb]; omega), if_pos (by rcases h with h | h <;> simp [h])]

/-- A flit whose tag verifies counts under the link's key, and what it brings goes on. -/
theorem flitIn_sound {s : State} {f : LlFlit} {l : LLink} (hl : getT s.links f.link = some l) (b : LLink → Bool) (go : LLink → State → State)
    (hk : l.key.isSome = true) (hc : l.count < 2 ^ 32) (hb : b l = true) (ht : f.tagOk = true) (ho : f.old = false ∨ l.oldKey.isSome = true) :
    let m : LLink := { l with count := l.count + 1, oldKey := if f.old = true ∨ s.free.1 % 2 = 0 then l.oldKey else none }
    flitIn s f b go = go m { s.free.2 with links := putT s.links f.link m } := by
  have hn : l.key.isNone = false := by cases hk' : l.key <;> simp_all
  unfold flitIn
  rw [hl]; dsimp only
  rw [if_neg (by simp [hn, hb]; omega), if_neg]
  rcases ho with h | h
  · simp [ht, h]
  · cases h' : l.oldKey <;> simp_all

end Sys2Proof.Machine
end

