-- ==== Sys2Proof/Laws/Memory.lean ====
section
/-!
SUPPORT. Memory in its canonical form: every operation keeps it, and a byte read after a write is the byte
written, or the byte that stood there.
-/
namespace Sys2Proof.Machine

/-- An address below every entry's. -/
def below (a : Nat) (m : List Host.Cell) : Prop := ∀ e ∈ m, a < e.1

theorem memWf_cons {a : Nat} {b : Byte} {m : List Host.Cell} :
    memWf ((a, b) :: m) = true ↔ b ≠ unwritten ∧ below a m ∧ memWf m = true := by
  induction m generalizing a b with
  | nil => simp [memWf, below]
  | cons e m ih =>
    obtain ⟨a', b'⟩ := e
    simp only [memWf, Bool.and_eq_true, decide_eq_true_eq]
    constructor
    · rintro ⟨⟨h1, h2⟩, h3⟩
      refine ⟨h2, ?_, h3⟩
      intro e he
      rcases List.mem_cons.1 he with rfl | he
      · exact h1
      · exact Nat.lt_trans h1 ((ih.1 h3).2.1 e he)
    · rintro ⟨h1, h2, h3⟩
      exact ⟨⟨h2 _ (List.mem_cons_self ..), h1⟩, h3⟩

theorem memGet_below {a : Nat} {m : List Host.Cell} (h : below a m) : memGet m a = unwritten := by
  cases m with
  | nil => rfl
  | cons e m =>
    have := h e (List.mem_cons_self ..)
    simp [memGet, this, Nat.ne_of_gt this]

theorem below_memPut {c a : Nat} {v : Byte} {m : List Host.Cell} (h : below c m) (hc : c < a) : below c (memPut m a v) := by
  induction m with
  | nil =>
    unfold memPut
    split
    · exact h
    · intro e he; simp at he; subst he; exact hc
  | cons e m ih =>
    have h1 := h e (List.mem_cons_self ..)
    have h2 : below c m := fun x hx => h x (List.mem_cons_of_mem _ hx)
    unfold memPut
    repeat' split
    · exact h
    · intro x hx
      rcases List.mem_cons.1 hx with rfl | hx
      · exact hc
      · exact h x hx
    · exact h2
    · intro x hx
      rcases List.mem_cons.1 hx with rfl | hx
      · exact hc
      · exact h2 x hx
    · intro x hx
      rcases List.mem_cons.1 hx with rfl | hx
      · exact h1
      · exact ih h2 x hx

/-- Writing a byte keeps the canonical form. -/
theorem memWf_memPut {m : List Host.Cell} (h : memWf m = true) (a : Nat) (v : Byte) : memWf (memPut m a v) = true := by
  induction m with
  | nil => unfold memPut; split <;> simp_all [memWf]
  | cons e m ih =>
    obtain ⟨k, b⟩ := e
    have hh := memWf_cons.1 h
    unfold memPut
    split
    · split
      · exact h
      · rename_i hlt hv
        refine memWf_cons.2 ⟨hv, ?_, h⟩
        intro x hx
        rcases List.mem_cons.1 hx with rfl | hx
        · exact hlt
        · exact Nat.lt_trans hlt (hh.2.1 x hx)
    · split
      · split
        · exact hh.2.2
        · rename_i heq hv
          subst heq
          exact memWf_cons.2 ⟨hv, hh.2.1, hh.2.2⟩
      · exact memWf_cons.2 ⟨hh.1, below_memPut hh.2.1 (by omega), ih hh.2.2⟩

/-- A byte reads what was written to it. -/
theorem memGet_memPut_same {m : List Host.Cell} (h : memWf m = true) (a : Nat) (v : Byte) : memGet (memPut m a v) a = v := by
  induction m with
  | nil => unfold memPut; split <;> simp_all [memGet]
  | cons e m ih =>
    obtain ⟨k, b⟩ := e
    have hh := memWf_cons.1 h
    unfold memPut
    split
    · split
      · rename_i hlt hv
        simp [memGet, hlt, Nat.ne_of_gt hlt, hv]
      · simp [memGet]
    · split
      · split
        · rename_i heq hv
          subst heq
          rw [memGet_below hh.2.1, hv]
        · simp [memGet]
      · rename_i h1 h2
        have : k ≠ a := fun e => h2 e.symm
        simp [memGet, h1, this, ih hh.2.2]

/-- A write leaves every other byte alone. -/
theorem memGet_memPut_other {m : List Host.Cell} (h : memWf m = true) {a c : Nat} (v : Byte) (hc : c ≠ a) :
    memGet (memPut m a v) c = memGet m c := by
  induction m with
  | nil =>
    unfold memPut
    split
    · rfl
    · simp [memGet, Ne.symm hc]
  | cons e m ih =>
    obtain ⟨k, b⟩ := e
    have hh := memWf_cons.1 h
    unfold memPut
    split
    · split
      · rfl
      · rename_i hlt hv
        by_cases h1 : c < a
        · have hk : c < k := by omega
          simp [memGet, Ne.symm hc, h1, hk, Nat.ne_of_gt hk]
        · simp [memGet, Ne.symm hc, h1]
    · split
      · rename_i heq
        subst heq
        split
        · by_cases h1 : c < a
          · have hb : below c m := fun x hx => Nat.lt_trans h1 (hh.2.1 x hx)
            simp [memGet, Ne.symm hc, h1, memGet_below hb]
          · simp [memGet, Ne.symm hc, h1]
        · simp [memGet, Ne.symm hc]
      · simp [memGet, ih hh.2.2]

theorem memWf_memPuts {m : List Host.Cell} (h : memWf m = true) (a : Nat) (bs : List Byte) : memWf (memPuts m a bs) = true := by
  induction bs generalizing m a with
  | nil => exact h
  | cons b bs ih => exact ih (memWf_memPut h a b) (a + 1)

theorem memWf_memWrite {m : List Host.Cell} (h : memWf m = true) (a n v : Nat) : memWf (memWrite m a n v) = true :=
  memWf_memPuts h a _

/-- A write of bytes leaves every byte outside its range alone. -/
theorem memGet_memPuts_outside {m : List Host.Cell} (h : memWf m = true) {a c : Nat} {bs : List Byte}
    (hc : c < a ∨ a + bs.length ≤ c) : memGet (memPuts m a bs) c = memGet m c := by
  induction bs generalizing m a with
  | nil => rfl
  | cons b bs ih =>
    simp only [List.length_cons] at hc
    unfold memPuts
    rw [ih (memWf_memPut h a b) (by omega), memGet_memPut_other h b (by omega)]

/-- A write of bytes is read back. -/
theorem memGets_memPuts {m : List Host.Cell} (h : memWf m = true) (a : Nat) (bs : List Byte) :
    memGets (memPuts m a bs) a bs.length = bs := by
  induction bs generalizing m a with
  | nil => rfl
  | cons b bs ih =>
    unfold memPuts
    simp only [List.length_cons, memGets]
    rw [ih (memWf_memPut h a b), memGet_memPuts_outside (memWf_memPut h a b) (by omega), memGet_memPut_same h]

theorem below_filter {a : Nat} {m : List Host.Cell} (p : Host.Cell → Bool) (h : below a m) : below a (m.filter p) :=
  fun e he => h e (List.mem_filter.1 he).1

/-- Dropping entries keeps the canonical form. -/
theorem memWf_filter {m : List Host.Cell} (p : Host.Cell → Bool) (h : memWf m = true) : memWf (m.filter p) = true := by
  induction m with
  | nil => rfl
  | cons e m ih =>
    obtain ⟨a, b⟩ := e
    have hh := memWf_cons.1 h
    by_cases g : p (a, b) = true
    · rw [List.filter_cons_of_pos g]
      exact memWf_cons.2 ⟨hh.1, below_filter p hh.2.1, ih hh.2.2⟩
    · rw [List.filter_cons_of_neg g]
      exact ih hh.2.2

end Sys2Proof.Machine
end

