-- ==== Sys2Proof/Laws/Service.lean ====
section
/-!
SUPPORT. What a service call can answer: the call at the head of its queue runs its body, or is refused for a
reserved bit of word 0 or for its caller.
-/
namespace Sys2Proof.Machine

variable {s : State} {q n : Nat} {c c0 : Call}

/-- A call from a caller that may make it, with word 0 well formed, does what its body says. -/
theorem call_body (hq : s.arg 0 = q) (hl : headCall s q = some c0) (ho : openCall s c0 = some c) (hn : c.num = n)
    (hr : fld (c.words.getD 0 0).toNat 31 8 = 0) {who : Caller} (hw : (who = .host → c.host = true) ∧ (who = .any → c.host = false))
    (body : Svc → State → SvcOut) :
    call s n who body = .next (match body ⟨q, c⟩ (turned s q c) with
      | .done s res code detail => respond s q c res code detail
      | .wait s ph work => { s with calls := putT s.calls q ({ c with phase := ph, work := work } :: (s.callList q).tail) }) := by
  subst hq
  simp only [call, service, hl, ho, hn, decide_true, Bool.not_true, Bool.false_eq_true, if_false, perform, hr, ne_eq, not_true_eq_false]
  rw [if_neg (by cases who <;> simp_all)]
  all_goals (cases body ⟨_, c⟩ (turned s (s.arg 0) c) <;> rfl)

/-- A call with a reserved bit of word 0 set is answered SVC_RANGE, and its body does not run. -/
theorem call_reserved (hq : s.arg 0 = q) (hl : headCall s q = some c0) (ho : openCall s c0 = some c) (hn : c.num = n)
    (hr : fld (c.words.getD 0 0).toNat 31 8 ≠ 0) (who : Caller) (body : Svc → State → SvcOut) :
    call s n who body = .next (respond (turned s q c) q c [] vRANGE 0) := by
  subst hq
  simp only [call, service, hl, ho, hn, decide_true, Bool.not_true, perform]
  rw [if_pos hr]
  simp

/-- A call from a caller that may not make it is answered SVC_PERM, and its body does not run. -/
theorem call_denied (hq : s.arg 0 = q) (hl : headCall s q = some c0) (ho : openCall s c0 = some c) (hn : c.num = n)
    (hr : fld (c.words.getD 0 0).toNat 31 8 = 0) {who : Caller} (hw : (who = .host ∧ c.host = false) ∨ (who = .any ∧ c.host = true))
    (body : Svc → State → SvcOut) : call s n who body = .next (respond (turned s q c) q c [] vPERM 0) := by
  subst hq
  simp only [call, service, hl, ho, hn, decide_true, Bool.not_true, ne_eq, perform, hr, not_true_eq_false, if_false, Bool.false_eq_true]
  rw [if_pos hw]

/-- A turn for a call that is not the head of its queue changes nothing. -/
theorem call_other (hq : s.arg 0 = q) (hl : headCall s q = some c0) (ho : openCall s c0 = some c) (hn : c.num ≠ n)
    (who : Caller) (body : Svc → State → SvcOut) : call s n who body = .next s := by
  subst hq
  simp [call, service, hl, ho, hn]

end Sys2Proof.Machine
end

