-- ==== Sys2Proof/Tests/Slice0.lean ====
section
/-!
SUPPORT. The author's own tests: an ill-formed term for each check of WellFormed; a word written out from the spec's encodings for each family;
a few results worked out by hand; and, for every statement that has hypotheses, a concrete state and operands that meet them.
-/
open Sys2Proof Sys2Proof.Machine Sys2Proof.Claim

namespace Sys2Proof.Tests

set_option Elab.async false

/-! ### Ill-formed terms are refused -/

theorem test_wf_signed_double : Instr.wf (.ld 1 2 .d true .normal 0) = false ∧ Instr.wf (.ldAcq 1 2 .d .mod true) = false := by decide
theorem test_wf_special_register : Instr.wf (.srd 1 6) = false ∧ Instr.wf (.swr 1 4) = false := by decide
theorem test_wf_command_base : Instr.wf (.sin 0 0 0 false) = false ∧ Instr.wf (.sout 0 5 0) = false ∧ Instr.wf (.cpy 0 0 0 false) = false ∧
    Instr.wf (.red 6 0 0) = false ∧ Instr.wf (.gath 0 31 0 false) = false ∧ Instr.wf (.scat 0 7 0 false) = false ∧
    Instr.wf (.pld 0 2 0) = false ∧ Instr.wf (.pldF 0 0 0 0) = false ∧ Instr.wf (.pdr 0 9 0 false) = false := by decide
theorem test_wf_accumulator : Instr.wf (.sin 8 4 0 true) = false ∧ Instr.wf (.sin 8 4 0 false) = true := by decide
theorem test_wf_gate_source : Instr.wf (.sgate 1 2 0 false) = false := by decide
theorem test_wf_retain_ways : Instr.wf (.retain 1 2 0 0) = false := by decide
theorem test_wf_format_code : Instr.wf (.vcvt 0 0 0 0 .rne) = false ∧ Instr.wf (.vcvt 0 0 13 0 .rne) = false ∧ Instr.wf (.vsrnd 0 0 0 24 0) = false := by decide
theorem test_wf_predicate_zero : Instr.wf (.cmpeq 0 1 1) = false ∧ Instr.wf (.cmplt 0 1 1) = false ∧ Instr.wf (.cmpltu 0 1 1) = false ∧
    Instr.wf (.qand 0 1 1 false false) = false ∧ Instr.wf (.qor 0 1 1 false false) = false := by decide
theorem test_wf_mask_zero : Instr.wf (.vcmp 0 1 1 0 0) = false := by decide
theorem test_wf_partition : Instr.wf (.podKeyRequest ⟨0, true, false⟩ ⟨0, 12, none⟩ []) = false ∧ Instr.wf (.moveStart 12 0 0) = false := by decide
theorem test_wf_host_port : Instr.wf (.getVersion 2) = false ∧ Instr.wf (.serviceDoorbell 2 none 0) = false := by decide

/-! ### Words that the spec writes out (R94 to R108 and the rules of their families) -/

theorem test_decode_addi : decodeK 0x10A50001 = .ok (.addi 5 5 1) := rfl
theorem test_decode_add : decodeK 0x04642800 = .ok (.add 3 4 5) := rfl
theorem test_decode_sari : decodeK 0x2C640085 = .ok (.sari 3 4 5) := rfl
theorem test_decode_movk : decodeK 0x34B07F10 = .ok (.movk 5 2 0x7F10) := rfl
theorem test_decode_bne : decodeK 0x4440FFFD = .ok (.bne 2 0 (-3)) := rfl
theorem test_decode_jr : decodeK 0x601E0000 = .ok (.jr 30) := rfl
theorem test_decode_call : decodeK 0x5C000064 = .ok (.call 100) := rfl
theorem test_decode_st : decodeK 0x844787FF = .ok (.st 2 7 .w .normal (-1)) := rfl
theorem test_decode_ld : decodeK 0x807FC002 = .ok (.ld 3 31 .d false .normal 2) := rfl
theorem test_decode_ldAcq : decodeK 0x8867C600 = .ok (.ldAcq 3 7 .d .pod false) := rfl
theorem test_decode_stRel : decodeK 0x88A4D400 = .ok (.stRel 5 4 .d .mod) := rfl
theorem test_decode_ldsyn : decodeK 0x88C8E400 = .ok (.ldsyn 6 8 .mod) := rfl
theorem test_decode_ldsynK : decodeK 0x88C8F400 = .ok (.ldsynK 6 8 .mod) := rfl
theorem test_decode_aadd : decodeK 0x90A7301B = .ok (.aadd 5 7 6 .pod .acqRel) := rfl
theorem test_decode_acas : decodeK 0x90642A51 = .ok (.acas 3 4 5 .mod .acq) := rfl
theorem test_decode_waita : decodeK 0x94235FFC = .ok (.waita 1 3 .mod (-4)) := rfl
theorem test_decode_wait : decodeK 0x98003FFC = .ok (.wait 0 0 63 63) := rfl
theorem test_decode_spawn : decodeK 0xA0A63800 = .ok (.spawn 5 6 7) := rfl
theorem test_decode_jdec : decodeK 0xA0810002 = .ok (.jdec 4 1) := rfl
theorem test_decode_cwait : decodeK 0xA4A80803 = .ok (.cwait 5 8 1) := rfl
theorem test_decode_qpost : decodeK 0xA8053000 = .ok (.qpost 5 6) := rfl
theorem test_decode_putt : decodeK 0xC0690000 = .ok (.putt 3 9) := rfl
theorem test_decode_takt : decodeK 0xC04A0110 = .ok (.takt 2 10) := rfl
theorem test_decode_ctok : decodeK 0xC0A00340 = .ok (.ctok 5) := rfl
theorem test_decode_ctwait : decodeK 0xC0470350 = .ok (.ctwait 2 7) := rfl
theorem test_decode_cpy : decodeK 0xC4680220 = .ok (.cpy 3 8 2 false) := rfl
theorem test_decode_pldF : decodeK 0xC4686460 = .ok (.pldF 3 8 12 0) := rfl
theorem test_decode_sopen : decodeK 0xC8030000 = .ok (.sopen 3 0 false) := rfl
theorem test_decode_sqry : decodeK 0xC8A30051 = .ok (.sqry 5 3 0 1) := rfl
theorem test_decode_sgate : decodeK 0xC8033161 = .ok (.sgate 3 6 1 true) := rfl
theorem test_decode_oalloc : decodeK 0xCCA60401 = .ok (.oalloc 5 6 4 false true) := rfl
theorem test_decode_ofree : decodeK 0xCCA60010 = .ok (.ofree 5 6) := rfl
theorem test_decode_retain : decodeK 0xD0053204 = .ok (.retain 5 6 2 4) := rfl
theorem test_decode_cflush : decodeK 0xD0053421 = .ok (.cflush 5 6 .sys true) := rfl
theorem test_decode_rcinvRange : decodeK 0xD0053031 = .ok (.rcinvRange 5 6) := rfl
theorem test_decode_trap : decodeK 0x00030001 = .ok (.trap 3) := rfl
theorem test_decode_srd : decodeK 0x00801004 = .ok (.srd 4 2) := rfl
theorem test_decode_swr : decodeK 0x00062805 = .ok (.swr 6 5) := rfl
theorem test_decode_svc : decodeK 0x00870003 = .ok (.svc 4 7) := rfl
theorem test_decode_setprec : decodeP 0x0800C00000000000 = .ok ⟨false, 0, .setprec 3, .vnop⟩ := rfl
theorem test_decode_getprec : decodeP 0x0854000200000000 = .ok ⟨false, 0, .getprec 5 2, .vnop⟩ := rfl
theorem test_decode_pair : decodeP 0x2044480024842800 = .ok ⟨false, 2, .sAdd 1 1 2, .vadd 4 4 5 0 .rne⟩ := rfl
theorem test_decode_takes : decodeP 0x0504000804200000 = .ok ⟨false, 0, .takes 1 0, .take 1 0 0⟩ := rfl
theorem test_decode_mma : decodeV 0xA0200800 = .ok (.mma 1 0 1 false false) ∧ decodeV 0xA0020801 = .ok (.mma 0 2 1 true false) := ⟨rfl, rfl⟩
theorem test_decode_mmas : decodeV 0xA4021A40 = .ok (.mmas 0 2 3 9) := rfl
theorem test_decode_mz : decodeV 0xA8400000 = .ok (.mz 2) := rfl
theorem test_decode_mrd : decodeV 0xACA11000 = .ok (.mrd 5 1 2 0) := rfl
theorem test_decode_manch : decodeV 0xB0060000 = .ok (.manch 0 6) := rfl
theorem test_decode_pfill : decodeV 0xB4871800 = .ok (.pfill 4 7 3 0) := rfl
theorem test_decode_pemit : decodeV 0xB8A20000 = .ok (.pemit 5 2) := rfl
theorem test_decode_prel : decodeV 0xBC020000 = .ok (.prel 2) := rfl
theorem test_decode_vmrg : decodeV 0xC0801000 = .ok (.vmrg 2 0 1) := rfl
theorem test_decode_reserved : decodeK 0xD8000000 = .error .opcodeUnassigned ∧ decodeK 0x04000018 = .error .functionUnassigned ∧
    decodeK 0x04640810 = .error .reservedField ∧ decodeK 0x00002806 = .error .badScope := ⟨rfl, rfl, rfl, rfl⟩

/-! ### Results worked out from the rules -/

/-- R182: the corners of division. -/
theorem test_div_corners : div64 5 0 = 0xFFFFFFFFFFFFFFFF ∧ div64 0x8000000000000000 0xFFFFFFFFFFFFFFFF = 0x8000000000000000 ∧
    rem64 0x8000000000000000 0xFFFFFFFFFFFFFFFF = 0 ∧ rem64 (-7) 2 = -1 := by decide
/-- R55, R229: 1 + 1 = 2, and an exact zero sum is −0 under RD alone. -/
theorem test_fabric_sums : fwAdd .rne 0x200080000000 0x200080000000 = 0x200180000000 ∧ fwSub .rd 0x200080000000 0x200080000000 = 0x800000000000 ∧
    fwSub .rne 0x200080000000 0x200080000000 = 0 := by decide
/-- R57: ∞ − ∞ is the canonical NaN, and the first NaN operand is quieted. -/
theorem test_fabric_nan : fwSub .rne 0x400000000000 0x400000000000 = 0x6000C0000000 ∧ fwAdd .rne 0x600000000001 0x6000C0000002 = 0x6000C0000001 := by decide
/-- R67's example: a TB4 T = 11 value halfway between 4 and 6 rounds to 4 (code 4). -/
theorem test_tb4_tie : (storeVal ⟨4, .tb4, true⟩ 3 (.det .rne) (.fin false 5 0)).code = 4 := by decide
/-- R240's neighbour R243: at WA = WB = 8 the product of 1 and 1 is 128 × 128 at 2^−14. -/
theorem test_product : product 8 8 0x200080000000 0x200080000000 = .fin false 16384 (-14) := by decide

/-! ### The hypotheses of the statements are met

`kState r`: core 0 executes r, for the one instance of partition 0, whose code has 8 words and whose first 2 MiB are mapped. -/

def tPage : Page := { va := 0, size := 2 ^ 21, ga := 0, r := true, w := true }
def tPart : Part := { cores := 3, pages := [tPage] }
def tImg : Image := { ncode := 1 }
def kState (r : Run) : State :=
  { State.reset with parts := [(0, tPart)], insts := [(0, { img := tImg })], cores := [(0, { run := some r })] }
/-- The run at a word with general registers set. -/
def runAt (pc : Nat) (g : List (Reg × Word)) : Run := g.foldl (fun r x => r.set x.1 x.2) { pc := pc }

/-- The last word at which a run goes on, and the last word of the code. -/
theorem meets_On_anywhere : On (kState (runAt 6 [])) 0 (runAt 6 []) := by simp only [On]; decide

theorem meets_On : On (kState (runAt 7 [])) 0 (runAt 7 []) := by simp only [On]; decide

theorem meets_TwoOperandAluWords : On (kState (runAt 0 [(4, -1), (5, 63)])) 0 (runAt 0 [(4, -1), (5, 63)]) := by simp only [On]; decide

theorem meets_MultiplyAndDivideWords : On (kState (runAt 0 [(4, 0x8000000000000000), (5, 0)])) 0 (runAt 0 [(4, 0x8000000000000000), (5, 0)]) := by simp only [On]; decide

/-- A branch to the first word, to the last, and to the words just outside. -/
theorem meets_BranchesGoToTheirTargetOrOn : let t (d : Int) := ((6 : Nat) : Int) + 1 + d
    0 ≤ t (-7) ∧ t 0 < ((kState (runAt 6 [])).image (runAt 6 [])).words ∧ t (-8) < 0 ∧ ((kState (runAt 6 [])).image (runAt 6 [])).words ≤ t 1 := by decide
theorem meets_JumpRegister : ((runAt 0 [(3, 7)]).get 3).toNat < ((kState {}).image {}).words ∧ ¬((runAt 0 [(3, 8)]).get 3).toNat < ((kState {}).image {}).words := by
  decide
theorem meets_LeavingTheCode : On (kState (runAt 7 [])) 0 (runAt 7 []) ∧ (runAt 7 []).pc + 1 = ((kState (runAt 7 [])).image (runAt 7 [])).words ∧
    (runAt 7 []).get 1 = (runAt 7 []).get 2 := by simp only [On]; decide

/-- An address that is misaligned, one in no space, one that is not mapped, one that is. -/
theorem meets_AddressesAreChecked : (kState {}).part (partOf (({} : Run).rc).inst) = some tPart ∧ (2 ^ 57 - 8 : Nat) < 2 ^ 57 ∧ (2 ^ 57 : Nat) < 2 ^ 63 ∧
    (∀ q ∈ tPart.pages, ¬(q.va ≤ 2 ^ 21 ∧ 2 ^ 21 < q.va + q.size)) ∧ tPart.pages = [] ++ tPage :: [] ∧ tPage.va ≤ 2 ^ 21 - 8 ∧ 2 ^ 21 - 8 < tPage.va + tPage.size := by decide
/-- The last word of the page may be read and written. -/
theorem meets_accesses : accessAddr (kState {}) {} (2 ^ 21 - 8) 8 true true = .ok (2 ^ 21 - 8, some tPage) := rfl
theorem meets_LoadsIssue : On (kState { ldc := 62 }) 0 { ldc := 62 } ∧ (some tPage).isSome ∧ gaKind (2 ^ 21 - 8) = 0 ∧ wrongBank (kState { ldc := 62 }) { ldc := 62 } (2 ^ 21 - 8) = false := by simp only [On]; decide

theorem meets_StoresIssue : On (kState { stc := 62 }) 0 { stc := 62 } ∧ On (kState {}) 0 {} ∧ ({} : Run).ldc = 0 ∧ ({} : Run).stc = 0 := by simp only [On]; decide

theorem meets_AtomicsIssue : On (kState { ldc := 62 }) 0 { ldc := 62 } ∧ On (kState {}) 0 {} ∧ gaKind (2 ^ 21 - 8) ≠ 3 ∧ wrongBank (kState {}) {} (2 ^ 21 - 8) = false := by simp only [On]; decide

theorem meets_RefusedAddresses : accessAddr (kState {}) {} 4 8 true false = .error (0x02, 0) ∧ accessAddr (kState {}) {} (2 ^ 21) 8 false true = .error (0x04, 1) ∧
    ((runAt 0 [(1, 4)]).get 1).toNat % 8 ≠ 0 ∧ ((runAt 0 [(1, 0x8000000000000000)]).get 1).toNat % 8 = 0 ∧ 2 ^ 63 ≤ ((runAt 0 [(1, 0x8000000000000000)]).get 1).toNat :=
  ⟨rfl, rfl, by decide, by decide, by decide⟩
theorem meets_SystemWords : On (kState {}) 0 {} ∧ (kState {}).part (partOf (({} : Run).rc).inst) = some tPart ∧
    (kState {}).inst (keyOf (({} : Run).rc).inst) = some { img := tImg } ∧ ({} : Run).ldc ≤ (0 : Fin 64).val := by simp only [On]; decide

theorem meets_SystemWordsWait : On (kState { ldc := 1 }) 0 { ldc := 1 } ∧ (0 : Fin 64).val < ({ ldc := 1 } : Run).ldc ∧ 5 < (6 : Fin 32).val ∧ (4 : Fin 32).val ≠ 5 := by simp only [On]; decide

theorem meets_ServiceCallWord : reachable (kState {}) 0 0 64 true true = some (0, tPage) ∧ reachable (kState {}) 0 (2 ^ 21) 64 true true = none ∧
    ((kState {}).callList 0).length < 64 ∧ 64 ≤ (({ kState {} with calls := [(0, List.replicate 64 { part := 0 })] } : State).callList 0).length := by decide
/-- The last code index, the widest scope and the last aligned frame. -/
theorem meets_goodRec : goodRec tImg 0x100007 (2 ^ 57 - 8) ∧ fld (0x100007 : Word).toNat 63 48 = 0 := by simp only [goodRec]; decide

theorem meets_RunEndingWords : On (kState {}) 0 {} ∧ ((0 : Nat) : Int) + 1 + 6 < ((kState {}).image {}).words ∧ gaKind (2 ^ 21 - 8) ≠ 3 ∧ wrongBank (kState {}) {} (2 ^ 21 - 8) = false := by simp only [On]; decide

theorem meets_RecordWords : On (kState {}) 0 {} ∧ (kState {}).part 0 = some tPart ∧ goodRec ((kState {}).image {}) 0x40007 0 ∧ fld (0x40007 : Word).toNat 63 48 = 0 ∧
    goodRec ((kState {}).image {}) 0x0001000000000000 0 ∧ 0 < fld (0x0001000000000000 : Word).toNat 63 48 ∧ tPart.poolFree = true := by simp only [goodRec, On]; decide

theorem meets_JdecOfAParkedRecord : let x : Part := { tPart with pool := [(65535, { gen := 65535, rc := some { join := 1 } })] }
    (0xFFFFFFFF : Word).toNat = 65535 * 2 ^ 16 + 65535 ∧ getT x.pool 65535 = some { gen := 65535, rc := some { join := 1 } } ∧ occOf ({ join := 1 } : Rec).inst = x.cur ∧
      2 ^ 32 ≤ (0x100000000 : Word).toNat := by decide
theorem meets_CaravanWords : On (kState { ldc := 62 }) 0 { ldc := 62 } := by simp only [On]; decide

theorem meets_PostingAChild : let r := runAt 0 [(1, 2 ^ 21 - 64), (2, 63)]
    let s : State := { kState r with vfs := [(63, {})] }
    On s 0 r ∧ (r.get 1).toNat % 64 = 0 ∧ getT s.vfs (r.get 2).toNat = some {} ∧ ({} : Vf).part = partOf r.rc.inst ∧ ({} : Vf).kids.length < 256 ∧
      s.inst (keyOf r.rc.inst) = some { img := tImg } := by simp only [On]; decide

theorem meets_PostingAChildsPacket : let r := runAt 0 [(1, 2 ^ 21 - 64), (2, 63)]
    accessAddr (kState r) r (r.get 1) 64 true false = .ok (2 ^ 21 - 64, some tPage) ∧ homeRead (kState r) 0 (2 ^ 21 - 64) 64 = .ok 0 ∧ tPage.attr ≠ 1 ∧ gaKind (2 ^ 21 - 64) = 0 ∧
      gaModule (2 ^ 21 - 64) = (kState r).boot.modnum ∧ (kState r).flipping (2 ^ 21 - 64) = false := ⟨rfl, rfl, by decide, by decide, by decide, by decide⟩
/-- A port with 15 values takes one more; a full one that no command drains traps. -/
theorem meets_PortWords : let f (n : Nat) : PortFile := { vs := [(15, List.replicate n 7)] }
    (getTD (f 15).vs 15 []).length < 16 ∧ 16 ≤ (getTD (f 16).vs 15 []).length ∧ getTD ({ vk := [(15, [7])] } : PortFile).vk 15 [] = 7 :: [] ∧
      namesPort (kState {}) 0 {} false 15 = false ∧ namesPort (kState {}) 0 {} true 15 = false := by decide
theorem meets_PortWordsWait : let c : Cmd := { id := 1, core := 0, rid := 0, part := 0, key := 0, num := 0, op := 1, port := 15 }
    let d : Cmd := { c with op := 0 }
    namesPort { kState {} with cmds := [c] } 0 {} false 15 = true ∧ namesPort { kState {} with cmds := [d] } 0 {} true 15 = true := by decide
theorem meets_ControlTokenWait : let i : Inst := { img := tImg, lines := [(7, 65535)] }
    let r := runAt 0 [(1, 65535)]
    0 < (r.get 1).toNat ∧ (r.get 1).toNat ≤ 65535 ∧ (r.get 1).toNat ≤ getTD i.lines 7 0 ∧ r.queued = false ∧ (∀ c ∈ i.ctreqs, c.line ≠ 7 ∧ c.rid ≠ r.rid) ∧
      65535 < ((runAt 0 [(1, 65536)]).get 1).toNat := by decide
theorem meets_CacheWords : On (kState { cpc := 62 }) 0 { cpc := 62 } ∧ (2 ^ 57 - 2 ^ 40) + 2 ^ 40 ≤ 2 ^ 57 ∧ On (kState {}) 0 {} ∧ 2 ^ 40 < ((runAt 0 [(2, 2 ^ 40 + 1)]).get 2).toNat := by simp only [On]; decide

theorem meets_StreamWords : let r := { runAt 0 [(1, 0x8000000000000000)] with cpc := 62 }
    let s : State := { kState r with parts := [(0, { tPart with stable := some (2 ^ 22, 1), streams := [(0, {})] })] }
    On s 0 r ∧ 2 ^ 63 ≤ (r.get 1).toNat ∧ (s.stream 0 (streamNo (r.get 1).toNat)).isSome ∧ r.ldc = 0 := by simp only [On]; decide

/-! `fState img t f`: tile 0 of the one instance of partition 0 stands at t and runs firing f. -/

def fInst (img : Image) (t : Tile) (f : Firing) : Inst := { img := img, tiles := [(0, { t with firing := some f })] }
def fState (img : Image) (t : Tile) (f : Firing) : State :=
  { State.reset with parts := [(0, tPart)], insts := [(0, fInst img t f)] }
/-- An endpoint: its port, channel, slot and RATE, in a frame record of tile 0. -/
def epFrame (p ch slot rate : Nat) : Nat × Nat := ((9 + p / 2) * 2 ^ 14, (2 ^ 127 + ch * 2 ^ 117 + slot * 2 ^ 114 + rate * 2 ^ 110) * 2 ^ (128 * (p % 2)))
/-- The actor of slot 0 begins at word 4 and has 8 words. -/
def slot0 : Nat × Nat := (2 ^ 14, 4 * 2 ^ 248 + 8 * 2 ^ 240)

theorem meets_Fires : Fires (fState {} {} { pc := 4 }) 0 0 (fInst {} {} { pc := 4 }) { ({} : Tile) with firing := some { pc := 4 } } { pc := 4 } := ⟨⟨rfl, rfl, rfl, rfl⟩, rfl, rfl⟩
theorem meets_FiringControl : let i : Image := { frames := [slot0] }
    i.slotEntry 0 0 = 4 ∧ i.slotLen 0 0 = 8 ∧ ((4 : Nat) : Int) ≤ (11 : Nat) + 1 + (-8) ∧ ((10 : Nat) : Int) + 1 + 0 < (4 : Nat) + (8 : Nat) := by decide
theorem meets_TakingWords : let i : Image := { frames := [epFrame 15 0 0 1, epFrame 3 1 0 1] }
    let t : Tile := { fifo := [(3, [.wide zeroLanes 3]), (15, [.narrow 7 0])] }
    t.acted = false ∧ getTD t.fifo 15 [] = .narrow 7 0 :: [] ∧ getTD t.fifo 3 [] = .wide zeroLanes 3 :: [] ∧ epV (i.ep 0 15) = true ∧ epSlot (i.ep 0 15) = ({} : Firing).slot ∧
      i.unitPort 0 15 = false ∧ getTD ({} : Firing).taken 15 0 < epRate (i.ep 0 15) ∧ epV (i.ep 0 3) = true ∧ epRate (i.ep 0 3) = 1 ∧ (15 : Nat) = 8 + (7 : Fin 8).val := by decide
theorem meets_PuttingWords : let i : Image := { frames := [epFrame 23 0 0 0, epFrame 7 1 0 2] }
    0 < getTD ({ demand := [(7, 1), (23, 1)] } : Tile).demand 23 0 ∧ epV (i.ep 0 23) = true ∧ i.unitPort 0 23 = false ∧ epRate (i.ep 0 23) = 0 ∧
      getTD ({ puts := [(7, 1)] } : Firing).puts 7 0 < epRate (i.ep 0 7) := by decide
theorem meets_PortRules : let i : Image := { frames := [epFrame 15 0 0 1] }
    (fState i {} {}).part (0 / 8) = some tPart ∧ bit tPart.fmask 0x0B = false ∧ epV (i.ep 0 14) = false ∧ epV (i.ep 0 15) = true ∧ i.unitPort 0 15 = false ∧
      epRate (i.ep 0 15) ≤ getTD ({ taken := [(15, 1)] } : Firing).taken 15 0 ∧ getTD ({} : Tile).fifo 15 [] = [] := by decide
theorem meets_PortRulesOfOutputs : let i : Image := { frames := [epFrame 23 0 0 0] }
    epV (i.ep 0 22) = false ∧ epV (i.ep 0 23) = true ∧ i.unitPort 0 23 = false ∧ epRate (i.ep 0 23) = 0 ∧ getTD ({} : Tile).demand 23 0 = 0 ∧
      (fInst i {} {}).fbActed (epCh (i.ep 0 23)) = none := by decide
/-- A chain of one level that counts to 2, at its first index, and one that is not running. -/
theorem meets_CounterWords : let i : Image := { frames := [(21 * 2 ^ 14, 2 ^ 252 + 2)] }
    let c : Chain := { running := true, idx := [0] }
    c.running = true ∧ 0 < i.nlev 0 0 ∧ (c.full (i.nlev 0 0)).getD 0 0 + 1 < i.count 0 0 0 ∧ ({} : Chain).running = false := by decide
/-- The last word of the last bank, and the first address beyond. -/
theorem meets_SramWords : (fState {} {} {}).mons = [] ∧ ({} : Tile).bad = [] ∧ 0xFFFFF ∈ [0xFFFFF] ∧ 0xFFFFF / 128 = (2 ^ 20 - 8) / 128 ∧ memWf ({} : Tile).sram = true ∧ bit tPart.fmask 0x02 = false ∧ (2 ^ 20 - 8) % 8 = 0 ∧ 2 ^ 20 - 8 < 2 ^ 20 ∧
    ({} : Image).bankUse 0 15 = 0 ∧ ((0xFFFF8 : Word) + BitVec.ofInt 64 (0 * 8)).toNat = 2 ^ 20 - 8 ∧ ((0xFFFFC : Word)).toNat % 8 ≠ 0 := by decide
theorem meets_AtomicsOfASlot : atomNew .cas 5 7 5 = some 7 ∧ atomNew .cas 5 7 6 = none := by decide
theorem meets_VectorWords : (7 : MReg).val ≠ 0 := by decide
/-- A row of 64 words that ends at the last byte of the SRAM. -/
theorem meets_VectorSramWords : ∀ j < 64, ((0xFFE00 : Word).toNat + 8 * j) % 2 ^ 64 % 8 = 0 ∧ ((0xFFE00 : Word).toNat + 8 * j) % 2 ^ 64 < 2 ^ 20 ∧
    ({} : Image).bankUse 0 (((0xFFE00 : Word).toNat + 8 * j) % 2 ^ 64 / 2 ^ 16) % 3 = 0 := by decide
theorem meets_VectorSramFault : (∀ j < 64, ((4 : Word).toNat + 8 * j) % 2 ^ 64 % 8 ≠ 0) ∧ mOf ({} : Tile) 0 0 = true := by decide
theorem meets_MatrixWords : ({ ops := 1 } : Firing).ops = 1 ∧ (∀ e ∈ [({ op := .mz 0, firing := false } : MEntry)], e.firing = false) ∧
    (∃ e ∈ [({ op := .mz 0 } : MEntry)], e.firing = true ∧ e.ended = false) ∧ View.scratchBad ⟨0, 0, fInst {} {} {}, {}, {}, 0⟩ (.panel 7) = none ∧ precLegal 0x2020 = true ∧ precLegal 0x2021 = false := by decide
/-- A list of one coordinate; a coordinate that does not rise is no list. -/
theorem meets_SparseMatrixWord : let i : Image := { frames := [epFrame 15 0 0 1] }
    8 ≤ (15 : Fin 32).val ∧ (15 : Fin 32).val < 16 ∧ getTD ({ fifo := [(15, [.narrow 0xFFFFFFFFFFFFFF00 0])] } : Tile).fifo 15 [] = .narrow 0xFFFFFFFFFFFFFF00 0 :: [] ∧
      epV (i.ep 0 15) = true ∧ epSlot (i.ep 0 15) = 0 ∧ i.unitPort 0 15 = false ∧ 0 < epRate (i.ep 0 15) := by decide
theorem meets_SparseList : (sparse {} (toBytes 8 0xFFFFFFFFFFFFFF00)).isSome = true ∧ (sparse {} (toBytes 8 0)).isSome = false := by decide
theorem meets_PanelWords : let i : Image := { frames := [epFrame 7 0 0 0] }
    let t : Tile := { demand := [(7, 1)], panels := [(7, { st := .ready })] }
    (t.panel 7).st ≠ .fillE ∧ (t.panel 7).st ≠ .draining ∧ epV (i.ep 0 (4 + 3)) = true ∧ epSlot (i.ep 0 7) = 0 ∧ i.unitPort 0 7 = false ∧ epRate (i.ep 0 7) = 0 ∧
      0 < getTD t.demand 7 0 ∧ (t.panel 7).st = .ready ∧ ({ rows := 63 } : Firing).rows = 63 := by decide
theorem meets_PanelFillFromAPort : let i : Image := { frames := [epFrame 3 0 0 1] }
    (3 : Fin 32).val < 4 ∧ getTD ({ fifo := [(3, [.wide zeroLanes 0])] } : Tile).fifo 3 [] = .wide zeroLanes 0 :: [] ∧ epV (i.ep 0 3) = true ∧ 0 < epRate (i.ep 0 3) ∧
      (({} : Tile).panel 0).st ≠ .fillE ∧ (({} : Tile).panel 0).st ≠ .draining := by decide

/-! `cState ws x`: a run of partition 0, which is x, has submitted the call whose block holds ws at address 0; `hState ws x`: function 0 has, in host memory. -/

def block (ws : List Nat) : List Word := ((ws ++ List.replicate 8 0).take 8).map (BitVec.ofNat 64)
def blockBytes (ws : List Nat) : List Byte := (block ws).flatMap fun w => toBytes 8 w.toNat
def hostBase : Nat := 4 * 2 ^ 46
def cState (ws : List Nat) (x : Part) : State :=
  { State.reset with
    boot := { State.reset.boot with stage := 15 }, sched := { args := [0] }, parts := [(0, x)], calls := [(0, [{ part := 0 }])], mem := memPuts [] 0 (blockBytes ws) }
def hState (ws : List Nat) (x : Part) : State :=
  { cState [] x with sched := { args := [12] }, calls := [(12, [{ part := 12, host := true }])], hports := [(0, { ide := [(0, [], true)] })], mem := memPuts [] hostBase (blockBytes ws) }
def cCall (ws : List Nat) : Call := { part := 0, words := block ws }
def hCall (ws : List Nat) : Call := { part := 12, host := true, ga := hostBase, words := block ws }
def tVf : Vf := { nports := 4 }
/-- What Heads and Asks say, for a queue of one call c0 that begins now. -/
def asks (s : State) (q : Nat) (c0 c : Call) (n : Nat) : Bool :=
  decide (s.arg 0 = q) && decide (headCall s q = some c0) && decide (openCall s c0 = some c) && decide (c.num = n) && decide (c.phase = 0)
theorem heads_of_asks {s : State} {q n : Nat} {c0 c : Call} (h : asks s q c0 c n = true) : Heads s q c n := by
  simp only [asks, Bool.and_eq_true, decide_eq_true_eq] at h
  obtain ⟨⟨⟨⟨h1, h2⟩, h3⟩, h4⟩, _⟩ := h
  exact ⟨h1, ⟨c0, h2, h3⟩, h4⟩
theorem asks_of_asks {s : State} {q n : Nat} {c0 c : Call} (h : asks s q c0 c n = true) (hr : fld (c.words.getD 0 0).toNat 31 8 = 0) : Asks s q c n := by
  have h' := h
  simp only [asks, Bool.and_eq_true, decide_eq_true_eq] at h'
  exact ⟨heads_of_asks h, h'.2, hr⟩
/-- The call of a run, and of function 0, before it is read. -/
def c0 : Call := { part := 0 }
def h0 : Call := { part := 12, host := true }

theorem meets_ServiceCallsAreCheckedFirst :
    Heads (cState [0x100] tPart) 0 (cCall [0x100]) 0 ∧ fld ((cCall [0x100]).words.getD 0 0).toNat 31 8 ≠ 0 ∧
    Heads (hState [0x03] tPart) 12 (hCall [0x03]) 3 ∧ (hCall [0x03]).host = true ∧ Heads (cState [0x05] tPart) 0 (cCall [0x05]) 5 ∧
    Heads (cState [0x30] tPart) 0 (cCall [0x30]) 0x30 ∧ 0x30 ≤ 0x30 :=
  ⟨heads_of_asks (c0 := c0) (by decide +kernel), by decide +kernel, heads_of_asks (c0 := h0) (by decide +kernel), rfl, heads_of_asks (c0 := c0) (by decide +kernel), heads_of_asks (c0 := c0) (by decide +kernel), by decide +kernel⟩

/-- MAP of the last page below the oasis window; the range 0 to 4096 for UNMAP, PROT, QUERY and INVAL. -/
def mapWords : List Nat := [0x00, 0x00F0000000000000 - 2 ^ 21, 2 ^ 21, 2 ^ 21, 0xE]
def mapPart : Part := { tPart with slices := 1, colours := 0xFFFF, tpages := 8 }
theorem meets_Map : Asks (cState mapWords mapPart) 0 (cCall mapWords) 0 ∧ (cState mapWords mapPart).part 0 = some mapPart ∧ (cCall mapWords).host = false :=
  ⟨asks_of_asks (c0 := c0) (by decide +kernel) rfl, rfl, rfl⟩
/-- A page of partition 1 moves onto the frame that MAP names. -/
def movesOnto (ws : List Nat) : State := { cState ws mapPart with moves := [{ id := 0, part := 1, va := 0, src := 2 ^ 30, dst := 2 ^ 21, size := 2 ^ 21 }] }
theorem meets_MapChecks : let w := argOf (cCall mapWords)
    let size := pageSize (w 4)
    let page : Page := { va := w 1, size := size, ga := w 2, r := true, w := true }
    w 1 % size = 0 ∧ w 2 % size = 0 ∧ w 3 % size = 0 ∧ w 3 ≤ 2 ^ 40 ∧ w 1 + w 3 ≤ 2 ^ 57 ∧ w 2 + w 3 ≤ 2 ^ 56 ∧ fld (w 4) 6 4 < 4 ∧ w 1 + w 3 ≤ 0x00F0000000000000 ∧
      fld (w 4) 6 4 ≠ 1 ∧ w 3 / size = 1 ∧ frameOkNow (cState mapWords mapPart) 0 mapPart size page.ga = true ∧ (cState mapWords mapPart).inMove (w 2) (w 3) = false ∧
      frameOkNow (movesOnto mapWords) 0 mapPart size page.ga = true ∧ (movesOnto mapWords).inMove (w 2) (w 3) = true ∧ (∀ p ∈ mapPart.pages, p.hits (w 1) (w 3) = false) ∧
      tablePages (mapPart.pages ++ [page]) ≤ mapPart.tpages := by decide +kernel
theorem meets_MemoryMapCalls :
    Asks (cState [0x01, 0, 2 ^ 21] tPart) 0 (cCall [0x01, 0, 2 ^ 21]) 1 ∧ Asks (cState [0x02, 0, 2 ^ 21, 1] tPart) 0 (cCall [0x02, 0, 2 ^ 21, 1]) 2 ∧
    Asks (cState [0x03, 2 ^ 21 - 1] tPart) 0 (cCall [0x03, 2 ^ 21 - 1]) 3 ∧ Asks (cState [0x04] tPart) 0 (cCall [0x04]) 4 ∧ Asks (cState [0x07] tPart) 0 (cCall [0x07]) 7 ∧
    (∀ p ∈ tPart.pages, p.hits 0 (2 ^ 21) = true → p.inside 0 (2 ^ 21) = true) ∧ findPage tPart.pages (2 ^ 21 - 1) = some tPage ∧ findPage tPart.pages (2 ^ 21) = none :=
  ⟨asks_of_asks (c0 := c0) (by decide +kernel) rfl, asks_of_asks (c0 := c0) (by decide +kernel) rfl, asks_of_asks (c0 := c0) (by decide +kernel) rfl,
    asks_of_asks (c0 := c0) (by decide +kernel) rfl, asks_of_asks (c0 := c0) (by decide +kernel) rfl, by decide +kernel, by decide +kernel, by decide +kernel⟩
theorem meets_Setroot : Asks (hState [0x05, 0, 65536] {}) 12 (hCall [0x05, 0, 65536]) 5 ∧ (hState [0x05, 0, 65536] {}).part 0 = some {} ∧ ({} : Part).pages = [] :=
  ⟨asks_of_asks (c0 := h0) (by decide +kernel) rfl, rfl, rfl⟩
theorem meets_InvalidationComplete : let c : Call := { cCall [0x01, 0, 4096] with phase := 1, work := [0, 4096] }
    let s : State := { cState [] tPart with calls := [(0, [c])] }
    s.arg 0 = 0 ∧ s.callList 0 = c :: [] ∧ c.phase = 1 ∧ c.num = 0x01 ∧ c.work = [0, 4096] ∧ inFlight s 0 0 4096 = false := by decide

/-- The last counter slot and the last event; a bias page of partition 0. -/
theorem meets_CounterAndBiasCalls :
    Asks (cState [0x26, 15, 0x17] tPart) 0 (cCall [0x26, 15, 0x17]) 0x26 ∧ Asks (cState [0x27, 2 ^ 21 - 128] tPart) 0 (cCall [0x27, 2 ^ 21 - 128]) 0x27 ∧
    Asks (cState [0x28, 0xFFFF] tPart) 0 (cCall [0x28, 0xFFFF]) 0x28 ∧ Asks (cState [0x25, 1] tPart) 0 (cCall [0x25, 1]) 0x25 ∧
    Asks (cState [0x2D, 0, 1, 4096] tPart) 0 (cCall [0x2D, 0, 1, 4096]) 0x2D ∧ Asks (cState [0x2E, 0, 512] tPart) 0 (cCall [0x2E, 0, 512]) 0x2E ∧
    Asks (cState [0x2F, 0, 1] tPart) 0 (cCall [0x2F, 0, 1]) 0x2F ∧ (svcOf 0 (cCall [0x25, 1])).only [(1, 1), (2, 2 ^ 64 - 1), (3, 2 ^ 64 - 1)] = true ∧
    (Config.ptmOn 1 0 = true ∨ Config.ptmOn 1 0 = false) :=
  ⟨asks_of_asks (c0 := c0) (by decide +kernel) rfl, asks_of_asks (c0 := c0) (by decide +kernel) rfl, asks_of_asks (c0 := c0) (by decide +kernel) rfl,
    asks_of_asks (c0 := c0) (by decide +kernel) rfl, asks_of_asks (c0 := c0) (by decide +kernel) rfl, asks_of_asks (c0 := c0) (by decide +kernel) rfl,
    asks_of_asks (c0 := c0) (by decide +kernel) rfl, rfl, by cases Config.ptmOn 1 0 <;> simp⟩
theorem meets_CounterRead : ((svcOf 0 (cCall [])).write (cState [] tPart) (2 ^ 21 - 8) (toBytes 8 7)).isSome = true := by decide
theorem meets_BiasFrames : biasFrames (cState [] tPart) tPart 0 2 = some [0, 1] ∧ (cState [] tPart).hostBias 0 = false := by decide
theorem meets_BiasFlipDone : let c : Call := { cCall [0x2E] with phase := 1, work := [511] }
    let s : State := { cState [] tPart with sched := { args := [511] }, calls := [(0, [c])] }
    s.arg 0 = 511 ∧ s.calls = [(0, c :: [])] ∧ c.phase = 1 ∧ c.work = [511] ∧ c.num = 0x2E ∧ flipWaits s 511 = false ∧
      flipWaits { s with bias := [(511, true, 2)], pends := [{ id := 1, core := 0, rid := 0, part := 0, inst := 0, cls := .ldc, act := .load 8 false false, va := 511 * 4096, ga := 511 * 4096 }] } 511 = true := by decide

/-- Words of a block beyond the k-th are 0. -/
theorem clear_of {w : Nat → Nat} {k : Nat} (h : ((List.range 8).all fun i => decide (i ≤ k) || decide (w i = 0)) = true) : ∀ i, k < i → i < 8 → w i = 0 := by
  intro i h1 h2
  have := List.all_eq_true.mp h i (List.mem_range.mpr h2)
  simp only [Bool.or_eq_true, decide_eq_true_eq] at this
  omega

/-! Streams: partition 0 has a stream table beyond its page, and reader VF 5. -/
def sPart : Part := { tPart with slices := 1, byy := 0, stable := some (2 ^ 22, 2) }
/-- A 4 KiB array of edge tile 0 at GA 0, with slot 7 attached by VF 5. -/
def tStream : Machine.Stream := { bk := 1, f := 10, wm1 := 3, sc := 4, stoe := 0, crest := 0, slots := [(7, { att := true, host := true, own := 5 })] }
def s1Part : Part := { sPart with streams := [(1, tStream)] }
def w2 : Nat := 1 * 2 ^ 61 + 10 * 2 ^ 56 + 3 * 2 ^ 40 + 4
theorem meets_Stable : Asks (hState [0x08, 0, 2 ^ 22, 32768] { tPart with slices := 1 }) 12 (hCall [0x08, 0, 2 ^ 22, 32768]) 0x08 ∧
    (svcOf 12 (hCall [0x08, 0, 2 ^ 22, 32768])).only [(1, 2 ^ 64 - 1), (2, 2 ^ 64 - 1), (3, 2 ^ 64 - 1)] = true ∧ gaKind (2 ^ 22) = 0 ∧ gaModule (2 ^ 22) = 0 ∧ gaLegal (2 ^ 22) = true ∧
    ({ tPart with slices := 1 } : Part).mapsSlice (fld (2 ^ 22) 39 30) = true ∧ (∀ p ∈ tPart.pages, 2 ^ 22 + 2 ^ 22 ≤ p.ga ∨ p.ga + p.size ≤ 2 ^ 22) ∧ tPart.streams = [] ∧
    (hState [] { tPart with slices := 1 }).inMove (2 ^ 22) (2 ^ 22) = false ∧ (hState [] { tPart with slices := 1 }).resizing 0 = none :=
  ⟨asks_of_asks (c0 := h0) (by decide +kernel) rfl, by decide +kernel, by decide +kernel, by decide +kernel, by decide +kernel, by decide +kernel, by decide +kernel, rfl,
    by decide +kernel, by decide +kernel⟩
theorem meets_Sdef : let ws := [0x09, 1, w2, 0, 0, 0]
    Asks (cState ws sPart) 0 (cCall ws) 0x09 ∧ (∀ i, 5 < i → i < 8 → argOf (cCall ws) i = 0) ∧ getT sPart.streams 1 = none ∧
    w2 = fld w2 62 61 * 2 ^ 61 + fld w2 60 56 * 2 ^ 56 + fld w2 55 40 * 2 ^ 40 + w2 % 8 ∧ fld w2 60 56 = 10 ∧ (fld w2 55 40 + 1) * 2 ^ 10 = 4096 ∧
    contiguous sPart (4096 / 4096 + 2) 0 4096 = some 0 ∧ backingOk (cState ws sPart) 0 sPart 1 4 0 0 4096 none = true :=
  ⟨asks_of_asks (c0 := c0) (by decide +kernel) rfl, clear_of (by decide +kernel), by decide +kernel, by decide +kernel, by decide +kernel, by decide +kernel, by decide +kernel, by decide +kernel⟩
theorem meets_StreamCalls : getT s1Part.streams 1 = some tStream ∧ tStream.waits = [] ∧ tStream.held = [] ∧
    Asks (cState [0x0B, 1, 0, 5, 0, 8 + 7] { sPart with streams := [(1, { tStream with slots := [] })] }) 0 (cCall [0x0B, 1, 0, 5, 0, 8 + 7]) 0x0B ∧
    ({ tStream with slots := [] } : Machine.Stream).sc = 4 ∧ hostSlot ([] : Tab Slot) 5 = none ∧ getT [(5, tVf)] 5 = some tVf ∧ tVf.part = 0 ∧
    Asks (cState [0x0A, 1] { sPart with streams := [(1, { tStream with slots := [] })] }) 0 (cCall [0x0A, 1]) 0x0A ∧
    Asks (cState [0x0C, 1, 7] s1Part) 0 (cCall [0x0C, 1, 7]) 0x0C ∧ Asks (cState [0x06, 1, 5] s1Part) 0 (cCall [0x06, 1, 5]) 0x06 ∧
    Asks (cState [0x0D, 1, 5] s1Part) 0 (cCall [0x0D, 1, 5]) 0x0D ∧ Asks (cState [0x0E, 1, 40] s1Part) 0 (cCall [0x0E, 1, 40]) 0x0E ∧
    Asks (cState [0x0F, 1, 2 ^ 21 - 128] s1Part) 0 (cCall [0x0F, 1, 2 ^ 21 - 128]) 0x0F :=
  ⟨by decide +kernel, rfl, rfl, asks_of_asks (c0 := c0) (by decide +kernel) rfl, rfl, rfl, rfl, rfl, asks_of_asks (c0 := c0) (by decide +kernel) rfl,
    asks_of_asks (c0 := c0) (by decide +kernel) rfl, asks_of_asks (c0 := c0) (by decide +kernel) rfl, asks_of_asks (c0 := c0) (by decide +kernel) rfl,
    asks_of_asks (c0 := c0) (by decide +kernel) rfl, asks_of_asks (c0 := c0) (by decide +kernel) rfl⟩
theorem meets_Sstat : ((svcOf 0 (cCall [])).write (cState [] s1Part) (2 ^ 21 - 128) (toBytes 128 tStream.encode)).isSome = true := by decide +kernel

/-- The whole of a die as a quota, and as what it leaves for others; an allocation with two copies. -/
theorem meets_Oquota : Asks (hState [0x10, 0, 3, 32768] tPart) 12 (hCall [0x10, 0, 3, 32768]) 0x10 ∧ (hState [0x10, 0, 3, 32768] tPart).oused 0 3 ≤ 32768 ∧
    ((List.range 12).filter fun k => decide (k ≠ 0)).foldl (fun a k => a + (hState [0x10, 0, 3, 32768] tPart).oquota k 3) 0 + 32768 ≤ 32768 :=
  ⟨asks_of_asks (c0 := h0) (by decide +kernel) rfl, by decide +kernel, by decide +kernel⟩
def tAlloc : OAlloc := { part := 0, die := 3, gas := [2 ^ 46 + 3 * 2 ^ 36], va := 0x00F0000000000000, copies := [0, 1] }
theorem meets_OasisCalls : Asks (cState [0x11, 3] tPart) 0 (cCall [0x11, 3]) 0x11 ∧ Asks (cState [0x12, 4096, 0] tPart) 0 (cCall [0x12, 4096, 0]) 0x12 ∧
    Asks (cState [0x13, 0x00F0000000000000] tPart) 0 (cCall [0x13, 0x00F0000000000000]) 0x13 ∧
    ({ cState [] tPart with oasis := { allocs := [tAlloc] } } : State).allocAt 0 0x00F0000000000000 = some tAlloc ∧ tAlloc.copies.length = 2 ∧
    (svcOf 0 (cCall [])).pieces (cState [] tPart) 4096 1024 false true = some [(4096, 1024, 4096, some tPage)] :=
  ⟨asks_of_asks (c0 := c0) (by decide +kernel) rfl, asks_of_asks (c0 := c0) (by decide +kernel) rfl, asks_of_asks (c0 := c0) (by decide +kernel) rfl, by decide +kernel, rfl, by decide +kernel⟩
theorem meets_Losses : (0, 3) ∉ State.reset.oasis.lost ∧ State.reset.pends = [] ∧ State.reset.cmds = [] ∧ State.reset.patStores = [] ∧ State.reset.insts = [] := by decide

/-- The smallest image: no tiles, eight words of code; its digest is SHA-384's as another program computes it. -/
def imgHead : List Byte := toBytes 4 0x59544D42 ++ toBytes 2 1 ++ [1, 1] ++ toBytes 4 0 ++ toBytes 4 1 ++ List.replicate 48 0
def imgBytes : List Byte := imgHead ++ toBytes 48 0x24118e4b1e5dd8f07b3d38b6cbf0b54b0ebbbf2f917fca83eed318c1196432172d89ce6db17dec4ab784e3832c00dd0f
theorem test_smallest_image_passes : imageFails (parseImage imgBytes) = none := by decide +kernel
theorem test_wrong_digest_fails : imageFails (parseImage (imgHead ++ toBytes 48 0)) = some 0x01 := by decide +kernel
def bindWords : List Nat := [0x14, 63, 1, 64, 112]
/-- What BIND asks, but for the room of the control area, which is open; and a length one past the header's. -/
theorem meets_Bind : let s : State := { cState bindWords tPart with vfs := [(63, tVf)], mem := memPuts (memPuts [] 0 (blockBytes bindWords)) 64 imgBytes }
    Asks s 0 (cCall bindWords) 0x14 ∧ getT s.vfs 63 = some tVf ∧ ((svcOf 0 (cCall bindWords)).read s 64 112).map (·.2) = some imgBytes ∧ 112 = headerLength imgBytes ∧
      fits tPart (parseImage imgBytes).image = true ∧ fitsNow s 0 tPart (parseImage imgBytes).image = true ∧ tVf.table.length < 1024 ∧
      ((svcOf 0 (cCall bindWords)).read s 64 113).isSome = true ∧ 113 ≠ headerLength (imgBytes ++ [0]) :=
  ⟨asks_of_asks (c0 := c0) (by decide +kernel) rfl, rfl, by decide +kernel, by decide +kernel, by decide +kernel, by decide +kernel, by decide +kernel, by decide +kernel, by decide +kernel⟩
def bVf : Vf := { tVf with table := [(2 ^ 32 - 1, { img := tImg, id := 0 })] }
theorem meets_BindingCalls : Asks (hState [0x17, 63, 2 ^ 32 - 1] tPart) 12 (hCall [0x17, 63, 2 ^ 32 - 1]) 0x17 ∧
    Asks (cState [0x15, 63, 2 ^ 32 - 1] tPart) 0 (cCall [0x15, 63, 2 ^ 32 - 1]) 0x15 ∧ (getT bVf.table (2 ^ 32 - 1)).isSome = true ∧
    Asks (cState [0x16, 63, 1] tPart) 0 (cCall [0x16, 63, 1]) 0x16 ∧ Asks (cState [0x18, 63, 2 ^ 32 - 1] tPart) 0 (cCall [0x18, 63, 2 ^ 32 - 1]) 0x18 ∧
    Asks (cState [0x19, 63, 0] tPart) 0 (cCall [0x19, 63, 0]) 0x19 ∧ bVf.part = 0 ∧
    ∃ t k, place (cState [] { tPart with placing := some 0 }) 0 { img := tImg, id := 0 } = .ready t k ∧ (t.part 0).isSome = true :=
  ⟨asks_of_asks (c0 := h0) (by decide +kernel) rfl, asks_of_asks (c0 := c0) (by decide +kernel) rfl, rfl, asks_of_asks (c0 := c0) (by decide +kernel) rfl,
    asks_of_asks (c0 := c0) (by decide +kernel) rfl, asks_of_asks (c0 := c0) (by decide +kernel) rfl, rfl, ⟨_, _, rfl, rfl⟩⟩
theorem meets_VirtualFunctionCalls : Asks (hState [0x1D, 63, 0, 1, 3] tPart) 12 (hCall [0x1D, 63, 0, 1, 3]) 0x1D ∧ (hState [] tPart).vfs = [] ∧
    Asks (hState [0x1E, 63, 1000] tPart) 12 (hCall [0x1E, 63, 1000]) 0x1E ∧
    Asks (hState [0x1F, 0, 0, 10000, 0, 4096] tPart) 12 (hCall [0x1F, 0, 0, 10000, 0, 4096]) 0x1F ∧
    Asks (hState [0x1F, 0, 0, 2 ^ 63 + 2 ^ 20, 10000, 2 ^ 24] tPart) 12 (hCall [0x1F, 0, 0, 2 ^ 63 + 2 ^ 20, 10000, 2 ^ 24]) 0x1F ∧ 0 < tPart.occs :=
  ⟨asks_of_asks (c0 := h0) (by decide +kernel) rfl, rfl, asks_of_asks (c0 := h0) (by decide +kernel) rfl, asks_of_asks (c0 := h0) (by decide +kernel) rfl,
    asks_of_asks (c0 := h0) (by decide +kernel) rfl, by decide +kernel⟩
theorem meets_DrainTimeout : let v : Vf := { tVf with closing := some 0 }
    let c : Call := { hCall [0x1E, 63] with phase := 1, work := [63] }
    let s : State := { hState [] tPart with sched := { args := [63] }, vfs := [(63, v)], calls := [] }
    s.arg 0 = 63 ∧ getT s.vfs 63 = some v ∧ v.closing = some 0 ∧ 0 ≤ s.cyc ∧ (vfEnd s 63 v).callList 12 = [] ∧
      (vfEnd { s with calls := [(12, [c])] } 63 v).callList 12 = [c] ∧ c.num = 0x1E ∧ c.work.head? = some 63 := by decide +kernel

/-! Partitions, keys and moves: PDEF gives partition 0 the first block, colour, slice and core; its slice list is at host address 128. -/

def pdefWords : List Nat := [0x1A, 0, 1, 128, 1, 0, 0, 0]
def pdefMem : List Host.Cell := memPuts (memPuts [] hostBase (blockBytes pdefWords)) (hostBase + 128) (toBytes 128 3)
def pdefMasks' : List (Nat × Nat) := [(1, 0xF7F70F), (2, 2 ^ 32 - 1), (3, 2 ^ 64 - 1), (4, 2 ^ 64 - 1), (5, 2 ^ 64 - 1), (6, 7), (7, 2 ^ 64 - 1)]
theorem meets_Pdef : let s : State := { hState pdefWords {} with parts := [], mem := pdefMem }
    let c := hCall pdefWords
    let y := ({} : Part).sized c.words 3
    Asks s 12 c 0x1A ∧ (svcOf 12 c).only pdefMasks' = true ∧ ((svcOf 12 c).read (taken s 12) 128 128).map (·.2) = some (toBytes 128 3) ∧ ofBytes (toBytes 128 3) = 3 ∧ s.part 0 = none ∧
      sizeOk s 0 y = true ∧ s.others = [] :=
  ⟨asks_of_asks (c0 := h0) (by decide +kernel) rfl, by decide +kernel, by decide +kernel, by decide +kernel, rfl, by decide +kernel, rfl⟩
def presizeWords : List Nat := [0x1C, 0, 1, 128, 1, 0, 0, 0]
theorem meets_Presize : let s : State := { hState presizeWords mapPart with mem := memPuts (memPuts [] hostBase (blockBytes presizeWords)) (hostBase + 128) (toBytes 128 3) }
    let c := hCall presizeWords
    let y := mapPart.sized c.words 3
    Asks s 12 c 0x1C ∧ s.part 0 = some mapPart ∧ ((svcOf 12 c).read (taken s 12) 128 128).map (·.2) = some (toBytes 128 3) ∧ sizeOk s 0 y = true ∧ keptTable mapPart y = true ∧ s.vfs = [] ∧ s.insts = [] ∧ mapPart.queue = [] :=
  ⟨asks_of_asks (c0 := h0) (by decide +kernel) rfl, rfl, by decide +kernel, by decide +kernel, by decide +kernel, rfl, rfl, rfl⟩
/-- The later phases of PRESIZE, and both of PTEAR. -/
theorem meets_PresizePhases : let c : Call := { hCall presizeWords with phase := 1, work := 3 :: List.replicate 15 0 }
    let x : Part := { mapPart with pages := [] }
    let s : State := { hState [] x with calls := [(12, [c])] }
    Heads s 12 c 0x1C ∧ s.part 0 = some x ∧ x.front = none ∧
      keptPages s 0 x (x.sized c.words (ofWords (c.work.map fun n => BitVec.ofNat 64 n))) = true ∧
      Heads { s with calls := [(12, [{ c with phase := 2 }])] } 12 { c with phase := 2 } 0x1C :=
  ⟨⟨rfl, ⟨_, rfl, rfl⟩, by decide +kernel⟩, rfl, rfl, by decide +kernel, ⟨rfl, ⟨_, rfl, rfl⟩, by decide +kernel⟩⟩
theorem meets_Ptear : let c : Call := { hCall [0x1B] with phase := 1, work := [0] }
    Heads (hState [0x1B, 0] tPart) 12 (hCall [0x1B, 0]) 0x1B ∧ Heads { hState [] tPart with calls := [(12, [c])] } 12 c 0x1B ∧ c.phase = 1 ∧
      ((hState [] tPart).vfs.filter fun f => decide (f.2.part = 0)).map (·.1) = [] :=
  ⟨heads_of_asks (c0 := h0) (by decide +kernel), ⟨rfl, ⟨_, rfl, rfl⟩, by decide +kernel⟩, rfl, rfl⟩
/-- Modules 0 and 1 form the pod; link 0 leads to module 1. -/
def podState (x : Part) : State :=
  { hState [] x with boot := { State.reset.boot with stage := 15, pod := [0, 1], accepted := [[7]] }, links := [(0, { peer := some 1, key := some 5 })], peers := [(1, 77)], calls := [] }
theorem meets_Comes : let s := podState {}
    let l : LLink := { peer := some 1, key := some 5 }
    Comes s ⟨0, true, false⟩ l ∧ Sound ⟨0, true, false⟩ l ∧ ¬Sound ⟨0, false, false⟩ l ∧ ¬Sound ⟨0, true, true⟩ l ∧ Sound ⟨0, true, true⟩ { l with oldKey := some 4 } := by
  simp only [Comes, Sound]; decide +kernel
/-- Module 1 asks inside its session; another secret; a partition that module 1 defined, which asked for its key, with a PDEF that waits and without one. -/
theorem meets_PodKeys : let x : Part := { tPart with podKey := some 9 }
    let y : Part := { tPart with podWait := true, podAsked := true, definer := some 1 }
    let c : Call := { hCall [0x1A] with phase := 1, work := [0] }
    let l : LLink := { peer := some 1, key := some 5 }
    (podState x).part 0 = some x ∧ x.podKey = some 9 ∧ x.definer = none ∧ (podState x).pod.contains 1 = true ∧ (podState x).boot.accepted.contains [7] = true ∧
      l.peer = some 1 ∧ (podState x).linkWhere 1 (fun _ => true) = some (0, l) ∧ getT (podState x).peers 1 = some 77 ∧ (⟨76, 0, none⟩ : PodSay).secret ≠ 77 ∧
      (podState x).pod.contains 2 = false ∧ y.podKey = none ∧ y.podWait = true ∧ y.podAsked = true ∧ y.definer = l.peer ∧ tPart.podAsked = false ∧
      (podState y).callList 12 = [] ∧ ({ podState y with calls := [(12, [c])] } : State).callList 12 = [c] ∧ c.num = 0x1A ∧ c.phase = 1 ∧ c.work.head? = some 0 := by
  decide +kernel
theorem meets_MoveStart : let x : Part := { mapPart with pages := [tPage] }
    let s := cState [] x
    s.part 0 = some x ∧ moveSource s x 0 = some (0, tPage.size) ∧ s.inMove 0 tPage.size = false ∧ s.inMove (2 ^ 21) tPage.size = false ∧ gaKind tPage.ga = 0 ∧ gaModule tPage.ga = s.boot.modnum ∧ 2 ^ 21 % tPage.size = 0 ∧
      (∀ r ∈ x.pages, 0 + tPage.size ≤ r.ga ∨ r.ga + r.size ≤ 0 ∨ (0 ≤ r.ga ∧ r.ga + r.size ≤ 0 + tPage.size)) ∧
      gaKind (2 ^ 21) = 0 ∧ gaModule (2 ^ 21) = s.boot.modnum ∧ frameOkNow s 0 x tPage.size (2 ^ 21) = true ∧
      (∀ r ∈ x.pages, 2 ^ 21 + tPage.size ≤ r.ga ∨ r.ga + r.size ≤ 2 ^ 21) ∧ s.moves = [] ∧ x.streams = [] := by decide +kernel
theorem meets_Moves : let m : Move := { id := 1, part := 0, va := 0, src := 0, dst := 2 ^ 21, size := 2 ^ 21 }
    let s : State := { cState [] tPart with sched := { args := [1] }, moves := [m] }
    s.moves = [m] ∧ s.arg 0 = m.id ∧ m.moved = false ∧ s.mons = [] ∧ s.part 0 = some tPart ∧ inFlightGa { s with moves := [{ m with moved := true }] } m.src m.size = false := by
  decide +kernel

/-! Faults: instance 0 of partition 0, with a frozen tile and a frozen pattern. -/

/-- A fault queue of 64 entries at the last frame that holds it. -/
theorem meets_Fqset : Asks (cState [0x20, 0, 6] tPart) 0 (cCall [0x20, 0, 6]) 0x20 ∧
    argPieces tPart true true (2 ^ 6 / 64 + 3) 0 (64 + 64 * 2 ^ 6) = some [(0, 64 + 64 * 2 ^ 6, 0, some tPage)] ∧ stashBad (cState [] tPart) 0 (some tPage) = false ∧ gaKind 0 = 0 ∧ (cState [] tPart).hostBias 0 = false ∧ (cState [] tPart).insts = [] ∧
    Asks (cState [0x24, 0xFFFF] tPart) 0 (cCall [0x24, 0xFFFF]) 0x24 :=
  ⟨asks_of_asks (c0 := c0) (by decide +kernel) rfl, by decide +kernel, by decide +kernel, by decide +kernel, by decide +kernel, rfl, asks_of_asks (c0 := c0) (by decide +kernel) rfl⟩
def frozenTile : Tile := { frozen := some { frozen := true, code := 0x0B, widx := 4, src := 0, unit := 3 } }
def frozenPat : Tile := { pats := [(1, { frozen := some { frozen := true, code := 0x04, src := 3, unit := 1, y := 0, x := 0x40 } })] }
def faultInst : Inst := { img := tImg, tiles := [(0, frozenTile), (0x40, frozenPat)] }
theorem meets_FaultCalls : let s : State := { cState [] tPart with insts := [(0, faultInst)] }
    s.instNum 0 = some faultInst ∧ faultInst.part = 0 ∧ frozenNodes ({} : Inst) = [] ∧ (frozenNodes faultInst).length = 2 ∧
      Asks (cState [0x22, 0] tPart) 0 (cCall [0x22, 0]) 0x22 ∧ Asks (cState [0x23, 0] tPart) 0 (cCall [0x23, 0]) 0x23 :=
  ⟨rfl, rfl, by decide +kernel, by decide +kernel, asks_of_asks (c0 := c0) (by decide +kernel) rfl, asks_of_asks (c0 := c0) (by decide +kernel) rfl⟩
/-- Word 1 of the two fault records, and of a run stopped by BRK on core 127 at word 6. -/
theorem meets_Fresume : let w : Nat := 4 * 2 ^ 48 + 3 * 2 ^ 24
    let v : Nat := 3 * 2 ^ 45 + 1 * 2 ^ 24 + 0x40 * 2 ^ 8
    let b : Nat := 6 * 2 ^ 48 + 1 * 2 ^ 45 + 127
    let u : SavedRun := { core := 3, run := { pc := 6 }, brk := some 127 }
    fld w 47 45 = 0 ∧ faultInst.tiles.find? (fun t => t.2.frozenAt w) = some (0, frozenTile) ∧ fld v 47 45 = 3 ∧
      (faultInst.tiles.find? fun t => t.2.pats.any fun p => p.2.frozenAt v) = some (0x40, frozenPat) ∧ ((frozenPat.pats.find? fun p => p.2.frozenAt v).map (·.1)) = some 1 ∧
      fld b 47 45 = 1 ∧ u.brk = some (b % 128) ∧ u.run.rc.inst = faultInst.num ∧ u.run.pc = fld b 63 48 ∧ u.run.pc + 1 < tImg.words := by decide +kernel
theorem meets_FresumeCalls : Asks (cState [0x21, 0, 4 * 2 ^ 48 + 3 * 2 ^ 24] tPart) 0 (cCall [0x21, 0, 4 * 2 ^ 48 + 3 * 2 ^ 24]) 0x21 :=
  asks_of_asks (c0 := c0) (by decide +kernel) rfl

/-! Measurement calls and key wrapping. -/

theorem meets_Attestation : let s : State := { cState [0x29, 7, 63, 2 ^ 32 - 1] tPart with vfs := [(63, bVf)] }
    Asks s 0 (cCall [0x29, 7, 63, 2 ^ 32 - 1]) 0x29 ∧ getT s.vfs 63 = some bVf ∧ bVf.part = 0 ∧ getT bVf.table (2 ^ 32 - 1) = some { img := tImg, id := 0 } ∧
      Asks (cState [0x2A, 4096, 64, 0] tPart) 0 (cCall [0x2A, 4096, 64, 0]) 0x2A ∧ Asks (cState [0x2B, 64, 4096] tPart) 0 (cCall [0x2B, 64, 4096]) 0x2B :=
  ⟨asks_of_asks (c0 := c0) (by decide +kernel) rfl, rfl, rfl, rfl, asks_of_asks (c0 := c0) (by decide +kernel) rfl, asks_of_asks (c0 := c0) (by decide +kernel) rfl⟩
theorem meets_AttestationBuffers : (svcOf 0 (cCall [])).pieces (cState [] tPart) 4096 64 false true = some [(4096, 64, 4096, some tPage)] ∧
    ((svcOf 0 (cCall [])).write (cState [] tPart) 4096 ((cState [] tPart).boot.log.drop 0).flatten).isSome = true ∧
    ((svcOf 0 (cCall [])).read (cState [] tPart) 64 32).map (·.2) = some (List.replicate 32 0) := by decide +kernel
/-- The shortest value to wrap and the shortest to open. -/
theorem meets_Kwrap : let x : Part := { tPart with podKey := some 9 }
    Asks (cState [0x2C, 0, 64, 1, 4096] x) 0 (cCall [0x2C, 0, 64, 1, 4096]) 0x2C ∧ Asks (cState [0x2C, 1, 64, 29, 4096] x) 0 (cCall [0x2C, 1, 64, 29, 4096]) 0x2C ∧
      x.podKey = some 9 ∧ ((svcOf 0 (cCall [])).read (cState [] x) 64 29).isSome = true ∧ ((svcOf 0 (cCall [])).pieces (cState [] x) 4096 1 false true).isSome = true ∧
      (svcOf 0 (cCall [0x2C, 0, 64, 1, 4096])).pieces (cState [] x) 4096 29 false true = some [(4096, 29, 4096, some tPage)] :=
  ⟨asks_of_asks (c0 := c0) (by decide +kernel) rfl, asks_of_asks (c0 := c0) (by decide +kernel) rfl, rfl, by decide +kernel, by decide +kernel, by decide +kernel⟩

/-! Boot, SPDM and links. -/

def goodImage : BootImage := { digest := 1, ecdsaOk := true, lmsOk := true }
def goodSlot : FwSlot := { images := List.replicate 4 goodImage, svn := 3, commit := true }
def tFlash : Flash := { slotA := goodSlot, slotB := { goodSlot with svn := 2 }, settings := { image := goodImage, modnum := 31, capw := 6000, pod := [], accepted := [] }, msvn := 3 }
def bootAt (n : Nat) (b : Bool) : Boot := { stage := n, slotB := b, flash := tFlash }
/-- Stages 0 and 3 of slot A pass; slot B is older than MSVN, and a bad LMS signature fails any. -/
theorem meets_BootStages : (bootAt 0 false).stage < 4 ∧ (bootAt 0 false).fails = none ∧ (bootAt 3 false).fails = none ∧ (bootAt 0 true).fails = some 3 ∧
    imageCause { goodImage with lmsOk := false } = some 2 ∧ imageCause (bootAt 4 false).flash.settings.image = none ∧ tFlash.settings.signer = (bootAt 4 false).fw.owner ∧
    tFlash.settings.signer ≠ ({ goodSlot with owner := 1 } : FwSlot).owner ∧ (bootAt 5 false).stage = 5 := by decide +kernel
theorem meets_Mismatches : (bootAt 3 false).stage ≠ 0xF ∧ (bootAt 3 false).stage ≠ 0xE ∧ ({ bootAt 3 false with mismAll := 1 } : Boot).mismAll < 2 ∧ 2 ≤ ({ bootAt 3 false with mismAll := 2 } : Boot).mismAll ∧
    1000000 * ((bootAt 15 false).window + 1) ≤ ({ State.reset with cyc := 1000000 } : State).cyc := by decide
theorem meets_RecoveryDoorbell : let h : HPort := { ide := [(0, ([], true))] }
    ({ State.reset with hports := [(0, h)] } : State).ideUp 0 = true ∧ State.reset.ideUp 0 = false := by decide
theorem meets_Spdm : 3 ≤ (bootAt 3 false).stage ∧ ({ secret := some 4 } : Spdm).secret = some 4 ∧ ({ secret := some 4, open_ := true } : Spdm).open_ = true ∧
    getT ({ ide := [(255, ([1], false))] } : HPort).ide 255 = some ([1], false) := by decide
def tLink : LLink := { peer := some 1, key := some 5 }
/-- Link 0 to module 1, whose die is lost, while a token for it waits, and one for module 2. -/
theorem meets_LinkStart : let w : LlWait := { module := 1, plane := 0, part := 0, tag := 0x80, req := .read 0 8 }
    let s : State := { podState tPart with links := [], outbox := [w] }
    (podState {}).boot.stage = 0xF ∧ 127 < 128 ∧ (podState {}).pod.contains 1 = true ∧ 1 ≠ (podState {}).boot.modnum ∧ (podState {}).outbox = [] ∧
      s.outbox = [w] ∧ s.part w.part = some tPart ∧ w.module = 1 ∧ w.plane = 0 / 32 ∧ s.linkOn 1 0 = none ∧ { w with module := 2 }.module ≠ 1 ∧ s.linkOn 2 0 = none ∧
      (Config.shareSigned 1 [] = true ∨ Config.shareSigned 1 [] = false) :=
  ⟨rfl, by decide, by decide, by decide, rfl, rfl, rfl, rfl, rfl, by decide, by decide, by decide, by cases Config.shareSigned 1 [] <;> simp⟩
theorem meets_LinkRekey : let s : State := { podState {} with sched := { args := [0] } }
    s.arg 0 = 0 ∧ getT s.links 0 = some tLink ∧ tLink.key = some 5 ∧ s.outbox = [] := by decide
/-- Tokens on link 0 from module 1 for module 0: with the key, without it, with a wrong tag, under the key before a re-key, and of a DEST that is no memory token's. -/
theorem meets_ArrivingTokens : let x : Part := { tPart with podKey := some 9 }
    let l : LLink := { tLink with count := 2 ^ 32 - 1 }
    let tok (k : Option Nat) (ok : Bool) (r : LlReq) : LlToken := { source := 1, part := 0, key := k, tagOk := ok, tag := 0, req := r }
    let s : State := { podState x with links := [(0, l)] }
    Comes s ⟨0, true, false⟩ l ∧ l.peer = some (tok none true (.read 0 8)).source ∧ fld (0 : BitVec 12).toNat 11 7 = s.boot.modnum ∧
      fld (0 : BitVec 12).toNat 6 5 = 0 / 32 ∧ s.part 0 = some x ∧ (¬ ∃ k, x.podKey = some k ∧ (tok none true (.read 0 8)).key = some (trafficKey k 0)) ∧
      (∃ k, x.podKey = some k ∧ (tok (some (trafficKey 9 0)) true (.write 0 8 7 (2 ^ 64 - 1) 0)).key = some (trafficKey k 0)) ∧ s.mons = [] ∧
      ¬Sound ⟨0, false, false⟩ l ∧ ¬Sound ⟨0, true, true⟩ l ∧ Sound ⟨0, true, false⟩ l ∧ (0 : BitVec 12).toNat % 32 = 0 ∧
      arriveOk s 0 = true ∧ s.shut 0 8 = false ∧ s.bad = [] ∧ gaKind (fwdGa s 0) ≠ 2 ∧ oasisLost s (fwdGa s 0) = false ∧ mirrorOf s 0 = none := by
  refine ⟨⟨rfl, rfl, by decide⟩, rfl, by decide, by decide, rfl, by simp, ⟨9, rfl, rfl⟩, rfl, ?_, ?_, ?_, by decide, by decide, by decide, rfl, by decide, by decide, by decide⟩ <;>
    simp [Sound, tLink]
/-- A granule of switch die 0 that module 1 mirrors, while no link leads there. -/
theorem meets_MirroredWrite : let a : OAlloc := { part := 0, die := 0, gas := [2 ^ 46], va := 0, copies := [0, 1] }
    let s : State := { podState tPart with links := [], oasis := { allocs := [a] } }
    mirrorOf s (2 ^ 46) = some 1 ∧ s.linkOn 1 (planeOf (2 ^ 46)) = none ∧ arriveOk s (2 ^ 46) = true ∧ s.shut (2 ^ 46) 8 = false ∧
      gaKind (fwdGa s (2 ^ 46)) = 1 ∧ oasisLost s (fwdGa s (2 ^ 46)) = false := by decide
/-- A rim port of edge tile 0 whose head token is for module 1, die 0, for this module, granted and not, or has a tag that names no route. -/
theorem meets_RimPort : let img : Image := { frames := [(0x40, 2 * 2 ^ 254), ((9 + 15 / 2) * 2 ^ 14 + 0x40, 2 ^ 127 * 2 ^ 128), ((9 + 23 / 2) * 2 ^ 14 + 0x40, 2 ^ 127 * 2 ^ 128)] }
    let t (tag : Nat) : Tile := { woken := true, demand := [(23, 1)], fifo := [(15, [.narrow 7 tag])] }
    let i (tag : Nat) : Inst := { img := img, tiles := [(0x40, t tag)] }
    let s (tag : Nat) : State := { podState tPart with sched := { args := [0, 0x40, 1] }, insts := [(0, i tag)], rim := [(0, 0)], grants := [{ recv := 0, part := 0, op := rimOp 0 0x40, tag := 0, units := 1 }] }
    (s 0x81).sched.args = [0, 0x40, 1] ∧ (s 0x81).inst 0 = some (i 0x81) ∧ getT (i 0x81).tiles 0x40 = some (t 0x81) ∧ img.rim 0x40 = true ∧ (t 0x81).frozen = none ∧ (t 0x81).woken = true ∧ (t 0x81).acted = false ∧ tPart.cur = 0 % 8 ∧
      (t 0x81).fifoOf 15 = .narrow 7 0x81 :: [] ∧ 0x81 % 32 = 1 ∧ (s 0x81).pod.contains (fld 0x81 11 7) = true ∧ fld 0x81 11 7 ≠ (s 0x81).boot.modnum ∧ fld 1 11 7 = (s 1).boot.modnum ∧ (s 1).pod.contains 0 = true ∧
      (∃ g ∈ (s 1).grants, g.op = rimOp 0 0x40) ∧ (∀ g ∈ ({ s 1 with grants := [] } : State).grants, g.op ≠ rimOp 0 0x40) ∧
      getT (s 1).rim ((0x40 % 128 - 0x40) * 128 + (i 1).y0 + 0x40 / 128) = some (0 / 8) ∧ 0 < (t 1).demandOf 23 ∧
      (s 0x81).linkOn (fld 0x81 11 7) (fld 0x81 6 5) = some (0, tLink) ∧
      2 % 32 ≠ 1 ∧ bit tPart.fmask 0x03 = false := by decide +kernel
/-- Partition 3 was visited first in the round before; partition 0 has an access of oasis die 0 to make. -/
theorem meets_GrantRound : let x : Part := { tPart with pages := [{ tPage with ga := 2 ^ 46 }] }
    let q : Pend := { id := 1, core := 0, rid := 0, part := 0, inst := 0, ga := 2 ^ 46, cls := .ldc, act := .load 8 false false }
    let s : State := { cState [] x with rot := [(0, 3)], pends := [q] }
    s.arg 0 = 0 ∧ getT s.rot 0 = some 3 ∧
      ((((List.range 12).map fun j => (3 + 1 + j) % 12).filter fun q => (List.range 4).any fun c => demands (pruneGrants s (recvOf 0)) (recvOf 0) q c)) = [0] ∧
      ((((List.range 12).map fun j => (3 + 1 + j) % 12).filter fun q => (List.range 4).any fun c => demands { s with pends := [] } (recvOf 0) q c)) = [] := by decide +kernel

/-! Packets, instances and the host. -/

/-- VF 63 is assigned, and stream 0 of port 0 is protected. -/
def ideState (ws : List Nat) (x : Part) : State := { cState ws x with hports := [(0, { ide := [(0, ([], true))] })], vfs := [(63, tVf)], calls := [] }
theorem meets_Doorbells : let s := ideState [] tPart
    let c : Call := { part := 0, vf := some 63, va := 2 ^ 21 - 64 }
    s.ideUp 0 = true ∧ getT s.vfs 63 = some tVf ∧ tVf.hport = 0 ∧ tVf.closing = none ∧ blockGa s { c with va := 2 ^ 21 } = none ∧ (blockGa s c).isSome = true ∧
      (s.callList 0).length < 64 ∧ 64 ≤ (({ s with calls := [(0, List.replicate 64 c)] } : State).callList 0).length ∧ s.boot.stage = 15 ∧ (2 ^ 45 - 64) % 64 = 0 ∧
      (2 ^ 45 - 64) + 64 ≤ 2 ^ 45 ∧ (s.callList 12).length < 64 := by decide +kernel
theorem meets_IngressStores : let s := ideState [] tPart
    getT s.vfs (255 / 4) = some tVf ∧ 255 % 4 < tVf.nports ∧ s.ideUp 0 = true ∧ (s.port 255).full.length < 16 ∧ (s.port 255).toks = [] ∧
      16 ≤ ({ full := List.replicate 16 [] } : IPort).full.length ∧ (List.replicate 64 0).length = 64 ∧ (List.replicate 8 0).length = 8 ∧
      56 = 8 * ({ toks := List.replicate 7 0 } : IPort).toks.length := by decide +kernel
def goodPacket : List Word := [1, 0, hostBase, 5, 0xFFFFFFFF, 7, 0, 0].map (BitVec.ofNat 64)
theorem meets_PacketAcceptance : let s : State := { ideState [] tPart with sched := { args := [255] }, ports := [(255, { full := [goodPacket], eseq := 7 })] }
    let pk := mkPacket goodPacket 63 false
    s.arg 0 = 255 ∧ getT s.vfs (255 / 4) = some tVf ∧ (s.port 255).full = goodPacket :: [] ∧ s.part tVf.part = some tPart ∧ tPart.queue.length < 1024 ∧ pk.rsv = none ∧
      cgaOk pk.cga = true ∧ pk.seq = (s.port 255).eseq ∧ pk.seq ≠ ({ eseq := 8 } : IPort).eseq ∧ getT tVf.table pk.cfg = none ∧ tVf.park.length < 256 ∧
      getT ({ tVf with table := [(1, { img := tImg, id := 0 })] } : Vf).table pk.cfg = some { img := tImg, id := 0 } ∧
      256 ≤ ({ tVf with park := List.replicate 256 {} } : Vf).park.length ∧ (mkPacket (goodPacket.set 6 1) 63 false).rsv = some 6 ∧
      cgaOk (mkPacket (goodPacket.set 2 8) 63 false).cga = false := by decide +kernel
theorem meets_ChildAcceptance : let pk := { mkPacket goodPacket 63 true with parent := 0 }
    let v : Vf := { tVf with kids := [pk], table := [(1, { img := tImg, id := 0 })] }
    let s : State := { ideState [] tPart with sched := { args := [63] }, vfs := [(63, v)] }
    s.arg 0 = 63 ∧ getT s.vfs 63 = some v ∧ v.kids = pk :: [] ∧ pk.vf = 63 ∧ s.part v.part = some tPart ∧ v.closing = none ∧ cgaOk pk.cga = true ∧ pk.rsv = none ∧
      getT v.table pk.cfg = some { img := tImg, id := 0 } := by decide +kernel
theorem meets_BindingTimeout : let pk := { mkPacket goodPacket 63 false with until_ := 1000 }
    let v : Vf := { tVf with park := [pk] }
    let s : State := { ideState [] tPart with sched := { args := [63] }, cyc := 1000, vfs := [(63, v)] }
    s.arg 0 = 63 ∧ getT s.vfs 63 = some v ∧ (v.park.find? fun q => q.bind.isNone && decide (q.until_ ≤ s.cyc)) = some pk := by decide +kernel
/-- The head of partition 0's queue finds an idle instance of its binding in slot 0, or an empty slot that holds the rectangle. -/
theorem meets_Placement : let b : Binding := { img := tImg, id := 3 }
    let pk := { mkPacket goodPacket 63 false with bind := some b }
    let x : Part := { tPart with queue := [pk] }
    let i : Inst := { img := tImg, cfg := 1, bindId := 3, phase := .idle }
    let s : State := { cState [] x with insts := [(0, i)] }
    s.arg 0 = 0 ∧ s.part 0 = some x ∧ x.queue = pk :: [] ∧ pk.bind = some b ∧ 0 < x.occs ∧ s.inst (0 * 8 + 0) = some i ∧ i.phase = .idle ∧ i.cfg = pk.cfg ∧ i.bindId = b.id ∧
      placementWaits s 0 x = false ∧ x.entryRoom = true ∧ placementWaits s 0 { x with ready := [{}] } = false ∧ ({ x with ready := [{}] } : Part).entryRoom = false := by
  decide +kernel
theorem meets_PlacementInAReadySlot : let b : Binding := { img := tImg, id := 3 }
    let x : Part := { tPart with queue := [{ mkPacket goodPacket 63 false with bind := some b }], placing := some 0 }
    (∀ j, j < x.occs → (match (cState [] x).inst (0 * 8 + j) with | some i => decide (i.phase = .idle) | none => false) = false) ∧
      placementWaits (cState [] x) 0 x = false ∧ ∃ t, place (cState [] x) 0 b = .ready t 0 ∧ (t.part 0).isSome = true := ⟨by decide +kernel, by decide +kernel, ⟨_, rfl, rfl⟩⟩
theorem meets_InstanceStartAndComplete : let i : Inst := { img := tImg, phase := .loading, tiles := [(0, { woken := true })] }
    let j : Inst := { img := tImg, cga := some hostBase, cval := 5 }
    let s : State := { ideState [] tPart with insts := [(0, j)], vfs := [(0, tVf)] }
    i.phase = .loading ∧ (∀ t ∈ i.tiles, t.2.woken = true ∧ t.2.takesAt ≤ s.cyc) ∧ i.keep = false ∧ tPart.entryRoom = true ∧ ({ tPart with rheld := [{}] } : Part).entryRoom = false ∧ complete_ s (0 / 8) tPart j = true ∧ isCurrent s j = false ∧ j.keep = false ∧
      isCurrent { s with vfs := [(0, { tVf with table := [(0, { img := tImg, id := 0 })] })] } { j with keep := true } = true ∧ j.parent = none ∧ gaKind hostBase ≠ 2 ∧
      s.moves = [] ∧ s.mons = [] ∧ s.compls = [] ∧ s.shut hostBase 16 = false ∧ cgaOk hostBase = true ∧ oasisLost s hostBase = false := by decide +kernel
theorem meets_HostAccesses : let s := ideState [] tPart
    s.ideUp 0 = true ∧ gaKind (2 ^ 40 - 64) = 0 ∧ gaModule (2 ^ 40 - 64) = s.boot.modnum ∧ s.shut (2 ^ 40 - 64) 64 = false ∧ gaKind (fwdGa s (2 ^ 40 - 64)) = 0 := by decide +kernel
/-- The last 64 bytes of an HBM page in host bias. -/
theorem meets_HostBias : let s : State := { ideState [] tPart with bias := [(2 ^ 28 - 1, (true, 0))] }
    fwdGa s (2 ^ 40 - 64) = 2 ^ 40 - 64 ∧ ∀ g, g < (2 ^ 40 - 64) + 64 → (2 ^ 40 - 64) < g + 128 → s.hostBias g = true := by
  refine ⟨by decide +kernel, fun g h h' => ?_⟩
  have e : g / 4096 = 2 ^ 28 - 1 := by omega
  show (getTD [(2 ^ 28 - 1, (true, 0))] (g / 4096) (false, 0)).1 = true
  rw [e]; rfl
/-- A snoop of the last half of a Modified line whose sector 7 has one half only. -/
theorem meets_Snoops : let y : L2Line := { ga := hostBase, valid := 128, dirty := 128, half := [(15, 2)] }
    let s : State := { ideState [] tPart with caches := { l2 := [(gaDie hostBase, [y])] } }
    s.ideUp 0 = true ∧ s.ideUp 1 = false ∧ ((s.l2 (gaDie (hostBase / 64 * 64))).filter fun z => decide (z.ga = hostBase / 64 / 16 * 1024)).length ≤ 1 ∧
      halfGet s (hostBase / 64 + 15) = 2 := by decide +kernel
theorem meets_StashRecall : let t : Tile := { stash := [(15 * 512 + 511, (1, 3))] }
    let i : Inst := { tiles := [(1, t)] }
    let s : State := { State.reset with sched := { args := [0, 1, 15, 511] }, insts := [(0, i)] }
    s.sched.args = [0, 1, 15, 511] ∧ s.inst 0 = some i ∧ getT i.tiles 1 = some t := by decide
/-- A VF with an alias window and a control page of stream 1, whose slot 7 it holds; 4 KiB behind it are committed. -/
def aStream : Machine.Stream := { tStream with wm1 := 0, f := 12, crest := 4096 }
def aVf (ctl : Bool) : Vf := { tVf with windows := [{ offset := 4096, stream := 1, size := 4096, ctl := ctl }] }
def aState (ctl : Bool) : State := { ideState [] { sPart with streams := [(1, aStream)] } with vfs := [(5, aVf ctl)] }
theorem meets_AliasWindows : let s := aState false
    let w : Window := { offset := 4096, stream := 1, size := 4096 }
    getT s.vfs 5 = some (aVf false) ∧ s.ideUp (aVf false).hport = true ∧ findWindow (aVf false).windows 8191 = some w ∧ s.stream 0 1 = some aStream ∧ aStream.bk ≠ 0 ∧
      streamDown s 0 aStream = none ∧ w.ctl = false ∧ w.size = 2 ^ 12 ∧ hostSlot aStream.slots 5 = some 7 ∧ hostSlot aStream.slots 6 = none ∧ (aStream.slot 7).toe < 2 ^ 48 ∧
      noKey s 0 aStream.fbase = false ∧ s.remoteStream aStream = false ∧ (∀ i, i < 8 → s.shut (aStream.addr ((4088 + i) % 2 ^ 48)) 1 = false) ∧ behind 4088 (aStream.slot 7).toe = false ∧ atOrBefore (4088 + 8) (aStream.vc 7) = true ∧ atOrBefore (4096 + 8) (aStream.vc 7) = false ∧
      atOrBefore (4088 + 8) aStream.wend = true ∧ atOrBefore (4096 + 8) aStream.wend = false := by decide +kernel
theorem meets_ControlPages : let s := aState true
    let w : Window := { offset := 4096, stream := 1, size := 4096, ctl := true }
    findWindow (aVf true).windows 4096 = some w ∧ s.stream 0 1 = some aStream ∧ w ∈ (aVf true).windows ∧ aStream.waits = [] ∧ aStream.held = [] ∧ behind 0 aStream.crest = true ∧
      behind 4096 aStream.crest = false ∧ ahead 4097 aStream.wend = true ∧ ahead 4096 aStream.wend = false ∧ hostSlot aStream.slots 5 ≠ some 6 ∧
      ahead 4096 (aStream.slot 7).toe = true ∧ atOrBefore 4096 (aStream.vc 7) = true := by decide +kernel

/-! A-tiles: edge tile 0 of the one instance runs pattern 0, through chain 0 of one level of 1. -/

/-- V, DIR, FMT 1 and data port 0. -/
def patWord (store : Bool) : Nat := 2 ^ 127 + (if store then 2 ^ 126 else 0) + 1 * 2 ^ 120
def patImg (store : Bool) : Image := { frames := [(0x40, 2 * 2 ^ 254 + 2 ^ 242), (21 * 2 ^ 14 + 0x40, 2 ^ 255 + 2 ^ 252 + 15 * 2 ^ 244 + 1), (27 * 2 ^ 14 + 0x40, patWord store)] }
def patInst (store : Bool) (t : Tile) : Inst := { img := patImg store, tiles := [(0x40, t)] }
def patState (store : Bool) (t : Tile) : State := { cState [] tPart with sched := { args := [0, 0x40, 0, if store then 1 else 0] }, insts := [(0, patInst store t)], calls := [] }
/-- A chain that runs, and a pattern that holds base 0x1000. -/
def runs : Tile := { woken := true, chains := [(0, { running := true, idx := [0] })], pats := [(0, { base := some 0x1000 })], demand := [(4, 1)] }
def acc0 : PAcc := { op := 1, run := 1, va := 0x1000, n := 256 }
def f32 : Fmt := (fmtOf 1).getD ⟨0, .fw64, false⟩
theorem meets_OnPattern : OnPattern (patState false runs) 0 0x40 0 0 (patInst false runs) runs f32 ∧
    OnPattern (patState true runs) 0 0x40 0 1 (patInst true runs) runs f32 :=
  ⟨⟨rfl, rfl, rfl, by decide +kernel, by decide, by decide +kernel, rfl, rfl, rfl⟩, ⟨rfl, rfl, rfl, by decide +kernel, by decide, by decide +kernel, rfl, rfl, rfl⟩⟩
theorem meets_PatternBaseTake : let t : Tile := { fifo := [(8, [.narrow 0x1000 0]), (9, [.narrow 0 0])], chains := [(0, { pending := 14 })] }
    (t.pat 0).base = none ∧ (t.pat 0).frozen = none ∧ (getTD t.chains 0 {}).pending < 15 ∧ t.fifoOf 8 = .narrow 0x1000 0 :: [] ∧ t.fifoOf (8 + 1) = .narrow 0 0 :: [] := by decide
theorem meets_Steps : Steps (patInst false runs) 0x40 0 runs 0x1000 ∧ (runs.pat 0).accs.length < runs.demandOf (patPort (patWord false)) ∧ (0x1000 : Word).toNat % (32 / 8) = 0 ∧
    (0x1001 : Word).toNat % (32 / 8) ≠ 0 ∧ bit tPart.fmask 0x02 = false ∧ Steps (patInst true runs) 0x40 0 runs 0x1000 :=
  ⟨⟨rfl, rfl, rfl, by decide, by decide +kernel, Or.inl (by decide +kernel)⟩, by decide +kernel, by decide, by decide, by decide,
    ⟨rfl, rfl, rfl, by decide, by decide +kernel, Or.inl (by decide +kernel)⟩⟩
theorem meets_PatternRead : let t : Tile := { runs with pats := [(0, { accs := [acc0] })] }
    (t.pat 0).accs = [acc0] ∧ (t.pat 0).frozen = none ∧ (t.pat 0).stuck = none ∧ acc0.head = false ∧ acc0.data = none ∧ acc0.eddy = false ∧ acc0.op ∉ (t.pat 0).bad ∧ t.eddy = [] ∧ patDom (patWord false) = 0 ∧
      atStream (patState false t) (0 / 8) acc0.op = false ∧ 0 < t.demandOf (patPort (patWord false)) ∧ ({ acc0 with data := some 7 } : PAcc).data = some 7 := by decide +kernel
/-- The last 256 bytes of the page. -/
theorem meets_Plain : Plain (patState false runs) tPart (2 ^ 21 - 256) 256 (2 ^ 21 - 256) false ∧ Plain (patState true runs) tPart (2 ^ 21 - 256) 256 (2 ^ 21 - 256) true :=
  ⟨⟨tPage, rfl, by decide, by decide, by decide, by decide, rfl, by decide +kernel, by decide, rfl, by decide, by decide +kernel, rfl, rfl⟩, ⟨tPage, rfl, by decide, by decide, by decide, by decide, rfl, by decide +kernel, by decide, rfl, by decide, by decide +kernel, rfl, rfl⟩⟩
theorem meets_PatternStores : let y : Tok := .wide zeroLanes 0
    let t : Tile := { runs with fifo := [(0, [y])] }
    let u : Tile := { runs with pats := [(0, { base := some 0x1000, latch := some y })] }
    let v : Tile := { runs with pats := [(0, { accs := [{ acc0 with data := some 7 }] })] }
    patStore (patWord true) = true ∧ t.fifoOf (patPort (patWord true)) = y :: [] ∧ (t.pat 0).latch = none ∧ (u.pat 0).latch = some y ∧ patRnd (patWord true) = 0 ∧
      patRaw (patWord true) = false ∧ (v.pat 0).accs = [{ acc0 with data := some 7 }] ∧ (v.pat 0).frozen = none ∧ (v.pat 0).stuck = none ∧ acc0.stage = 0 ∧ acc0.blocks = [] ∧
      atStream (patState true v) (0 / 8) acc0.op = false ∧ y.mark % 2 = 0 ∧ (Tok.wide zeroLanes 3).mark = 3 ∧ (Tok.wide zeroLanes 1).mark = 1 :=
  ⟨by decide +kernel, by decide +kernel, rfl, rfl, by decide +kernel, by decide +kernel, rfl, rfl, rfl, rfl, rfl, by decide +kernel, rfl, rfl, rfl⟩
theorem meets_PatternRunEnd : let t : Tile := { pats := [(0, { ends := [1] })] }
    (t.pat 0).ends = 1 :: [] ∧ (∀ a ∈ (t.pat 0).accs, a.run ≠ 1) ∧ (patImg false).chainDone 0x40 0 = 15 := by decide +kernel
theorem meets_StreamStall : let w : StreamWait := { op := 1, since := 0 }
    let z : Machine.Stream := { tStream with stalle := 10, waits := [w] }
    let q : Pend := { id := 1, core := 0, rid := 0, part := 0, inst := 0, va := 0x8001000000000000, cls := .ldc, act := .load 8 false false, st := .waiting }
    let s : State := { cState [] { sPart with streams := [(1, z)] } with sched := { args := [0, 1] }, cyc := 1024, pends := [q] }
    s.sched.args = [0, 1] ∧ s.stream 0 1 = some z ∧ z.waits = [w] ∧ z.held = [] ∧ s.remoteStream z = false ∧ w.via = none ∧ s.pend w.op = some q ∧ z.stalle ≠ 0 ∧ z.moved + 2 ^ z.stalle ≤ s.cyc ∧ w.since + 2 ^ z.stalle ≤ s.cyc ∧
      s.cyc < ({ w with since := 1 } : StreamWait).since + 2 ^ z.stalle := by decide +kernel

/-! Engine commands of core 0's run at edge tile 0. -/

def eTile : Tile := { woken := true }
def eInst : Inst := { img := tImg, tiles := [(0, {}), (0x40, eTile)] }
/-- One row of one element of format 1 at 0x1000, to 0x2000. -/
def eCmd (op : Nat) (k : Option Chunk) : Cmd :=
  { id := 1, core := 0, rid := 0, part := 0, key := 0, num := 0, op := op, src := 0x1000, dst := 0x2000, shape := 0x0001000000000001, ctl := 0x410000, pos := 0x40, acc := true, chunk := k }
def eState (c : Cmd) : State :=
  { cState [] tPart with sched := { args := [1] }, insts := [(0, eInst)], cores := [(0, { run := some {} })], cmds := [c], calls := [] }
theorem meets_CommandAcceptance : let c := { eCmd 0 none with acc := false }
    (eState c).arg 0 = c.id ∧ (eState c).cmd c.id = some c ∧ (eState c).inst c.key = some eInst ∧ eInst.num = c.num ∧ getT eInst.tiles c.pos = some eTile ∧ eTile.acted = false ∧ eTile.woken = true ∧ (eState c).part c.part = some tPart ∧ c.draws = false ∧ ({ c with ctl := 0x818000 } : Cmd).draws = true ∧
      c.st = .issued ∧ c.acc = false ∧ (∀ d ∈ (eState c).cmds, d.rid = c.rid → d.key = c.key → d.pos = c.pos → d.id < c.id → d.acc = true) := by decide +kernel
theorem meets_Moves' (op : Nat) (k : Option Chunk) : Moves (eState (eCmd op k)) (eCmd op k) eInst eTile tPart :=
  ⟨rfl, rfl, rfl, rfl, rfl, rfl, rfl, rfl, rfl, rfl, rfl, rfl, rfl, rfl⟩
def k0 : Chunk := { r := 0, c := 0, n := 1 }
theorem meets_CommandsMoveElements : let c := eCmd 2 (some k0)
    k0.n = 1 ∧ k0.idx = none ∧ k0.redo = false ∧ k0.inq = none ∧ k0.whole = false ∧ k0.outs = [] ∧ k0.rnd = [] ∧ c.gather = [] ∧ c.back = [] ∧ c.cur = none ∧ c.curs = false ∧ k0.codes = [] ∧
      c.block false = false ∧ c.block true = false ∧ c.stream true = false ∧ c.rlen = 1 ∧ ({ c with shape := 0x0001000000000002 } : Cmd).rlen = 2 ∧ ({ k0 with whole := true, codes := [7] } : Chunk).codes.length = k0.n ∧ c.bits false = 32 ∧ c.bits true = 32 ∧ c.src.toNat % 4 = 0 ∧ c.dst.toNat % 4 = 0 ∧
      elemVa c.src (k0.r * c.spitch + k0.c) 32 = 0x1000 ∧ elemVa c.dst (k0.r * c.dpitch + k0.c) 32 = 0x2000 ∧ (fmtOf c.sfmt).isSome = true ∧ c.sfmt = c.dfmt ∧ c.raw = false ∧
      c.rnd_ = 0 ∧ (getTD ({} : PortFile).vk c.port []).length < 16 ∧ 7 < 2 ^ 32 := by decide +kernel
theorem meets_CommandPlaces : Plain (eState (eCmd 2 (some k0))) tPart 0x1000 4 0x1000 false ∧ Plain (eState (eCmd 2 (some k0))) tPart 0x2000 4 0x2000 true ∧
    translate tPart 0x2000 true true = .ok (0x2000, tPage) ∧ (eState (eCmd 3 (some k0))).shut 0x2000 8 = false :=
  ⟨⟨tPage, rfl, by decide, by decide, by decide, by decide, rfl, by decide +kernel, by decide, rfl, by decide, by decide +kernel, rfl, rfl⟩, ⟨tPage, rfl, by decide, by decide, by decide, by decide, rfl, by decide +kernel, by decide, rfl, by decide, by decide +kernel, rfl, rfl⟩,
    rfl, by decide +kernel⟩
theorem meets_Reductions : let c := { eCmd 3 (some { k0 with codes := [7] }) with ctl := 0 }
    c.op = 3 ∧ c.sfmt = 0 ∧ c.bits true = 64 ∧ c.dst.toNat % 8 = 0 := by decide +kernel
/-- A fill of slot 7 of tile 0. -/
def fCmd : Cmd := { eCmd 6 none with dst := 7, resv := true, rows := [(63, zeroLanes)], fill := 63 }
theorem meets_Fills : let c := fCmd
    (eState c).cmds = [c] ∧ (eState c).inst c.key = some eInst ∧ getT eInst.tiles c.target.1 = some {} ∧ c.target.2 = 7 ∧ c.op = 6 ∧ c.acc = true ∧ c.st = .issued ∧
      (({} : Tile).panel 7).st = .empty ∧ (({ panels := [(7, { st := .ready })] } : Tile).panel 7).st = .ready ∧ (({ panels := [(7, { st := .draining })] } : Tile).panel 7).st = .draining ∧
      c.resv = true ∧ c.rows = (63, zeroLanes) :: [] ∧ c.desc = none ∧ ({ c with desc := some 0 } : Cmd).desc = some 0 ∧ c.fill = 63 ∧ ({} : Tile).fwait = [] ∧ eTile.woken = true ∧
      ((({} : Tile).mq.filter fun e => !e.firing).length < 8) ∧ 8 ≤ ((List.replicate 8 ({ op := .mz 0, firing := false } : MEntry)).filter fun e => !e.firing).length := by decide +kernel
theorem meets_CommandCompletion : let c := { eCmd 2 none with r := 1 }
    (eState c).arg 0 = c.id ∧ (eState c).cmds = [c] ∧ ((eState c).core c.core).run = some {} ∧ ({} : Run).rid = c.rid ∧ (eState c).inst c.key = some eInst ∧
      getT eInst.tiles c.pos = some eTile ∧ eTile.eddy = [] ∧ c.nrows ≤ c.r ∧ c.chunk = none ∧ c.back = [] ∧ c.gather = [] ∧ mirrorOwed (eState c) c.part = false ∧ c.acc = true ∧ c.st = .issued ∧ c.rows = [] ∧ c.op ≠ 6 ∧ c.desc = none ∧
      ({ c with st := .faulted {} } : Cmd).st = .faulted {} ∧ ({} : Run).defer = none := by decide +kernel

/-! The matrix issue point. -/

def mState (l : List MEntry) : State :=
  { cState [] tPart with sched := { args := [0, 1] }, insts := [(0, { img := tImg, tiles := [(1, { woken := true, mq := l, panels := [(0, { st := .ready }), (1, { st := .fillE })] })] })] }
theorem meets_MatrixOpStart : let e : MEntry := { op := .mma 0 (.panel 0) (.panel 0) }
    let f : MEntry := { op := .mma 0 (.panel 0) (.panel 1) }
    let t (l : List MEntry) : Tile := { woken := true, mq := l, panels := [(0, { st := .ready }), (1, { st := .fillE })] }
    (mState [e]).arg 0 = 0 ∧ (mState [e]).arg 1 = 1 ∧ ((mState [e]).inst 0).map (fun i => getT i.tiles 1) = some (some (t [e])) ∧ (t [e]).mq = e :: [] ∧
      (∀ m ∈ [e], m.started = false ∧ m.ended = false) ∧ (t [e]).firing = none ∧ (t [e]).woken = true ∧ (t [e]).frozen = none ∧ (t [e]).acted = false ∧ (∀ n ∈ e.op.slots, ((t [e]).panel n).st = .ready) ∧
      (∃ n ∈ f.op.slots, ((t [f]).panel n).st = .fillE) := by decide +kernel
theorem meets_MatrixOpStartIsNoFollowOn : ∀ d sl c, MOp.mma 0 (.panel 0) (.panel 0) ≠ .follow d sl c := by intros; simp
/-- A follow-on that may start, which is one without PSET; its command is the last one left. -/
theorem meets_FollowOn : followLegal (0x101 * 2 ^ 40) = true ∧ ({ eCmd 6 none with desc := some 0 } : Cmd).id = 1 ∧ (eState (eCmd 6 none)).cmds = [eCmd 6 none] := by decide +kernel
theorem meets_MatrixOpFinish : let e : MEntry := { op := .mz 3, started := true }
    ((mState [e]).inst 0).map (fun i => (getTD i.tiles 1 {}).mq) = some [{ op := .mz 3, firing := true, started := true }] := by decide +kernel

/-! Operations at their homes. -/

def q0 (act : Act) : Pend := { id := 1, core := 0, rid := 0, part := 0, inst := 0, va := 0x1000, ga := 0x1000, dst := 5, cls := .ldc, act := act }
def qState (q : Pend) : State := { cState [] tPart with sched := { args := [1] }, cores := [(0, { run := some { ldc := 1 } })], pends := [q], calls := [] }
theorem shut_here (act : Act) : (qState (q0 act)).shut (q0 act).ga 8 = false := by
  show State.shut State.reset 0x1000 8 = false
  decide +kernel
theorem meets_AtHome (act : Act) : AtHome (qState (q0 act)) (q0 act) :=
  ⟨rfl, rfl, rfl, rfl, by show (0x1000 : Nat) < 2 ^ 57; decide, by show gaKind 0x1000 = 0; decide, by show gaModule 0x1000 = 0; decide, by show gaLegal 0x1000 = true; decide, rfl, shut_here act, by show runSaved (qState (q0 act)) (q0 act) = false; exact Bool.and_false _, rfl, rfl⟩
/-- A line of the fabric cache that holds the word, a full word, and one that is not. -/
theorem meets_AccessesAtHome : let y : FLine := { part := 0, ga := 0x1000, data := List.replicate 128 0 }
    (0x1000 + 120) % 128 + 8 ≤ 128 ∧ ((qState (q0 (.load 8 false true))).fab 0).find? (fun y => decide (y.part = 0) && decide (y.ga = 0x1000)) = none ∧
      (({ qState (q0 (.load 8 false true)) with caches := { fab := [(0, [y])] } } : State).fab 0).find? (fun y => decide (y.part = 0) && decide (y.ga = 0x1000)) = some y ∧
      0x1000 % 8 = 0 ∧ 0x107F ∈ [0x107F] ∧ 0x107F / 128 = 0x1000 / 128 ∧ 0x1000 ∈ ({ qState (q0 (.sync true)) with full := [0x1000] } : State).full ∧ 0x1000 ∉ (qState (q0 (.sync true))).full := by decide +kernel
theorem meets_Returns (st : OpSt) : Returns (qState { q0 (.load 8 false false) with st := st }) { q0 (.load 8 false false) with st := st } { ldc := 1 } := ⟨rfl, rfl, rfl, rfl⟩
theorem meets_Completions : (q0 (.load 8 false false)).cls = .ldc ∧ (q0 (.load 8 false false)).dst = (5 : Reg).val ∧ (qState (q0 (.cache 0 0 1024 8 .mod false))).part 0 = some tPart := by decide
theorem meets_Caravans : let x : Part := { tPart with caravans := [(255, { inst := 0, members := [8], arrived := [] })] }
    let s : State := { qState (q0 .cnew) with parts := [(0, x)] }
    s.arg 0 = 1 ∧ s.pends = [q0 .cnew] ∧ (q0 .cnew).st = .issued ∧ s.part 0 = some x ∧ (∃ c < 256, getT x.caravans c = none) ∧ (255 : Word).toNat ≤ 255 ∧ 255 < (256 : Word).toNat ∧
      (getT x.caravans 255).isSome = true ∧ (q0 (.cleave 255)).inst = 0 ∧ (q0 (.cleave 255)).fp ∉ ({ inst := 0, members := [8] } : Caravan).members ∧
      (8 : Word) ∈ ({ inst := 0, members := [8] } : Caravan).members ∧ ({ inst := 0 } : Caravan).arrived = [] ∧ ({ inst := 0 } : Caravan).members.length < 4096 := by decide +kernel
theorem meets_ParkedWaits : memRead (qState (q0 (.waita 0 {}))).mem 0x1000 8 = 0 ∧ BitVec.ofNat 64 0 = (0 : Word) ∧ BitVec.ofNat 64 0 ≠ (1 : Word) ∧ tPart.poolFree = true ∧ (qState (q0 (.waita 0 {}))).mons = [] := by
  decide +kernel

/-- Stream 1, of a 4 KiB frame with 64 bytes committed, with slot 0 attached by the occupant at toe 8. -/
def hStream : Machine.Stream := { bk := 1, f := 12, sc := 4, stoe := 8, crest := 64, slots := [(0, { att := true, toe := 8 })] }
def vPend (off : Nat) (act : Act) : Pend := { q0 act with va := BitVec.ofNat 64 (0x8001000000000000 + off) }
def vState (off : Nat) (act : Act) : State := { qState (vPend off act) with parts := [(0, { sPart with streams := [(1, hStream)] })] }
theorem meets_StreamHome : let s := vState 8 (.load 8 false false)
    let q := vPend 8 (.load 8 false false)
    s.arg 0 = q.id ∧ s.pends = [q] ∧ q.st = .issued ∧ 2 ^ 63 ≤ q.va.toNat ∧ runSaved s q = false ∧ s.stream 0 (streamNo q.va.toNat) = some hStream ∧ hStream.bk ≠ 0 ∧
      streamDown s 0 hStream = none ∧ hStream.waits = [] ∧ hStream.held = [] ∧ s.cmds = [] ∧ s.remoteStream hStream = false ∧ noKey s 0 hStream.fbase = false ∧ s.flipping (hStream.addr 8) = false ∧ s.bad = [] ∧ occSlot hStream.slots (occOf q.inst) = some 0 ∧ occSlot ({ hStream with slots := [] } : Machine.Stream).slots 0 = none := by decide +kernel
theorem meets_StreamReads : behind 0 (hStream.slot 0).toe = true ∧ behind 8 (hStream.slot 0).toe = false ∧ atOrBefore (56 + 8) (hStream.vc 0) = true ∧
    atOrBefore (64 + 8) (hStream.vc 0) = false := by decide +kernel
theorem meets_StreamStores : behind 0 hStream.stoe = true ∧ behind 8 hStream.stoe = false ∧ atOrBefore (4088 + 8) hStream.wend = true ∧ atOrBefore (4096 + 8) hStream.wend = false := by
  decide +kernel
theorem meets_StreamOperations : (hStream.slot 0).att = true ∧ (hStream.slot 1).att = false ∧ occSlot hStream.slots 1 = none ∧ atOrBefore 64 hStream.crest = true ∧
    atOrBefore 65 hStream.crest = false ∧ atOrBefore 4096 hStream.wend = true ∧ atOrBefore 4097 hStream.wend = false ∧ ahead (smin 64 (hStream.vc 0)) (hStream.slot 0).toe = true ∧
    ahead (smin 8 (hStream.vc 0)) (hStream.slot 0).toe = false ∧ behind 8 (hStream.slot 0).toe = false ∧ sdist (8 + 2 ^ 36 - 1) (hStream.slot 0).toe < 2 ^ 36 ∧
    (hStream.slot 0).host = false ∧ (hStream.slot 0).own = 0 ∧ (7 : Word).toNat % 8 ≠ 0 ∧ (8 : Word).toNat % 8 = 0 := by decide +kernel

/-! Runs, fault posts, fronts, firings and steps. -/

/-- Core 1 of partition 0 moves; core 0 and core 1 hold the deques given. -/
def rState (x : Part) (d0 d1 : Deque) : State :=
  { cState [] x with sched := { args := [1] }, cores := [(0, { deques := [(0, d0)] }), (1, { deques := [(0, d1)] })], calls := [] }
theorem meets_RunsStart : let s := rState tPart {} { hw := [({} : Rec), ({} : Rec)] }
    let v : SavedRun := { core := 1, run := {} }
    s.arg 0 = 1 ∧ coreParts 1 s.parts = some 0 ∧ s.part 0 = some tPart ∧ (s.core 1).run = none ∧ (s.core 1).held = [] ∧ tPart.front = none ∧ tPart.ready = [] ∧ tPart.rheld = [] ∧
      tPart.saved.find? (resumesOn tPart 1) = none ∧ ((s.core 1).deque tPart.cur).hw = [({} : Rec)] ++ [({} : Rec)] ∧
      ({ tPart with saved := [v] } : Part).saved.find? (resumesOn { tPart with saved := [v] } 1) = some v ∧
      ((rState tPart {} { spill := [({} : Rec)] }).core 1).deque 0 = { spill := [] ++ [({} : Rec)] } ∧ [({} : Rec)].find? (fun r => decide (occOf r.inst = tPart.cur)) = some {} := by decide +kernel
/-- Core 0 is the last of its die that core 1 visits. -/
theorem meets_Steals : let s := rState tPart { hw := [({} : Rec)] } {}
    stealOrder 1 = ((stealOrder 1).take 14) ++ 0 :: (stealOrder 1).drop 15 ∧ 0 ≠ 1 ∧ bit tPart.cores 0 = true ∧ (∀ m ∈ (stealOrder 1).take 14, bit tPart.cores m = true → ((s.core m).deque tPart.cur).steal = none) ∧
      ((s.core 0).deque tPart.cur).steal = some ({}, {}) ∧ ((s.core 1).deque tPart.cur).hw = [] ∧ ((s.core 1).deque tPart.cur).spill = [] ∧ (∀ r ∈ tPart.inj, occOf r.inst ≠ tPart.cur) := by decide +kernel
def endState (e : Ending) : State := { kState { ending := some e } with sched := { args := [0] } }
theorem meets_RunsEnd (e : Ending) : (endState e).arg 0 = 0 ∧ ((endState e).core 0).run = some { ending := some e } ∧ (endState e).part (partOf (({} : Run).rc).inst) = some tPart ∧
    ({ ending := some e } : Run).ldc = 0 ∧ ({ ending := some e } : Run).stc = 0 ∧ ({ ending := some e } : Run).defer = none ∧ 0 < ({ ending := some e, ldc := 1 } : Run).ldc ∧
    ({ ending := some e, defer := some {} } : Run).defer = some {} := ⟨rfl, rfl, rfl, rfl, rfl, rfl, Nat.zero_lt_one, rfl⟩
/-- A caravan of two strands, the other of which has not arrived, and one without the run's. -/
theorem meets_CaravanArrival : let v : Caravan := { inst := 0, members := [0, 8] }
    let x : Part := { tPart with caravans := [(255, v)] }
    x.poolFree = true ∧ getT x.caravans (255 : Word).toNat = some v ∧ v.inst = (({} : Run).rc).inst ∧ ({} : Run).get 31 ∈ v.members ∧ (∀ a ∈ v.arrived, a.1 ≠ ({} : Run).get 31) ∧
      (∃ m ∈ v.members, m ≠ ({} : Run).get 31 ∧ ∀ a ∈ v.arrived, a.1 ≠ m) ∧ ({} : Run).get 31 ∉ ({ v with members := [8] } : Caravan).members ∧
      ((endState (.yieldRun {})).core 0).deque 0 = {} := 
  ⟨by decide, by decide, rfl, by decide +kernel, by simp, ⟨8, by decide +kernel, by decide +kernel, by simp⟩, by decide +kernel, rfl⟩
theorem meets_MaximumRunLength : let x : Part := { tPart with front := some { dst := 0, mrl := 4096 } }
    let s : State := { kState {} with sched := { args := [0] }, cyc := 4096, parts := [(0, x)] }
    s.arg 0 = 0 ∧ (s.core 0).run = some {} ∧ s.part 0 = some x ∧ x.front = some { dst := 0, mrl := 4096 } ∧ 4096 ≤ s.cyc - ({} : Run).began ∧ s.pends = [] ∧
      s.inst 0 = some { img := tImg } ∧ ({ img := tImg } : Inst).ctreqs = [] ∧ x.streams = [] := by decide +kernel
/-- A queue of 64 entries at address 0: empty, with one entry free, and full. -/
theorem meets_FaultPosts : let q : Post := { fr := { code := 0x0B } }
    let x : Part := { tPart with fq := some (0, 6), posts := [q] }
    let s : State := { cState [] x with mem := [] }
    s.arg 0 = 0 ∧ s.part 0 = some x ∧ x.fq = some (0, 6) ∧ x.posts = [q] ∧ q.cont = none ∧ q.fr.ext = [] ∧ s.flipping 0 = false ∧ s.bad = [] ∧ s.moves = [] ∧ memRead s.mem 0 8 = 0 ∧ memRead s.mem (0 + 8) 8 = 0 ∧
      (0 + 2 ^ 64 - 0) % 2 ^ 64 + 1 ≤ 2 ^ 6 ∧ (63 + 2 ^ 64 - 0) % 2 ^ 64 + 1 ≤ 2 ^ 6 ∧ 2 ^ 6 < (64 + 2 ^ 64 - 0) % 2 ^ 64 + 1 ∧ q.wait = false ∧ ({ q with wait := true } : Post).wait = true := by
  decide +kernel
theorem meets_FaultQueueIsMapped : ∀ o, o < 64 + 64 * 2 ^ 6 → ∃ pg, ∀ rd wr, translate tPart (0 + o) rd wr = .ok (0 + o, pg) := by
  intro o ho
  have h : o < 2 ^ 21 := by omega
  have hf : findPage tPart.pages o = some tPage := by
    first | (simp [findPage, tPart, tPage, h]; done) | (simp [findPage, tPart, tPage]; omega)
  refine ⟨tPage, fun rd wr => ?_⟩
  rw [Nat.zero_add]
  cases rd <;> cases wr <;> (delta Sys2Proof.Machine.translate; rw [hf]; simp [tPage])
theorem meets_FaultQueueIsHere : ∀ o, o < 64 + 64 * 2 ^ 6 → gaKind (0 + o) = 0 ∧ gaModule (0 + o) = 0 ∧ gaLegal (0 + o) = true := by
  intro o ho
  simp only [gaLegal, gaKind, gaModule, fld, Nat.zero_add]
  refine ⟨by omega, by omega, ?_⟩
  rw [show o / 2 ^ 46 % 2 ^ (49 + 1 - 46) = 0 by omega]
  exact decide_eq_true (Nat.lt_of_le_of_lt (Nat.mod_le _ _) (by omega))
theorem meets_SliceEnd : let x : Part := { tPart with occs := 8 }
    let s : State := { cState [] x with cyc := 1000000, insts := [(7, {})] }
    s.arg 0 = 0 ∧ s.part 0 = some x ∧ x.front = none ∧ x.sliceNow.mode = 0 ∧ x.sliceNow.len ≤ s.cyc - x.sliceAt ∧ (s.cyc - 1) - x.sliceAt < x.sliceNow.len ∧ 6 < x.occs - 1 ∧
      hasWork s 0 x ((x.cur + 1 + 6) % x.occs) = true ∧ (∀ m, m < 6 → hasWork s 0 x ((x.cur + 1 + m) % x.occs) = false) ∧
      (∀ j, j < x.occs - 1 → hasWork { s with insts := [] } 0 x ((x.cur + 1 + j) % x.occs) = false) := by decide +kernel
def frontPart : Part := { tPart with occs := 2, front := some { dst := 1, mrl := 65536 } }
/-- Tile 0 with an input of channel 3, and tile 1 without an input. -/
def frontInst : Inst := { img := { frames := [epFrame 0 3 0 1] }, tiles := [(0, { fronts := [0], acted := false }), (1, {})], links := [(3, { fwd := [.front] })] }
def frontState (a : List Nat) : State := { cState [] frontPart with sched := { args := a }, insts := [(0, frontInst)] }
theorem meets_FrontArrival : (frontState [0, 1025]).sched.args = [0, 1024 + 1] ∧ (frontState []).inst 0 = some frontInst ∧ (frontState []).part (0 / 8) = some frontPart ∧ frontPart.front.isSome = true ∧
    frontPart.cur = 0 % 8 ∧ getT frontInst.tiles 1 = some {} ∧ hasInput frontInst.img 1 = false ∧ 31 ∉ ({} : Tile).fronts ∧ 3 < 1024 ∧
    getT frontInst.links 3 = some { fwd := .front :: [] } ∧ frontInst.img.endOf 3 true = some (0, 0) := by decide +kernel
theorem meets_TileAct : let t : Tile := { fronts := [0] }
    (frontState [0, 0]).sched.args = [0, 0] ∧ getT frontInst.tiles 0 = some t ∧ frontInst.img.kind 0 ≠ 2 ∧ 0 % 128 < 0x40 ∧ t.acted = false ∧ t.firing = none ∧
      (∀ e ∈ t.mq, e.started = false) ∧ frontIn frontInst.img 0 t = true := by decide +kernel
theorem meets_SweepComplete : let i : Inst := { img := tImg, tiles := [(0, { acted := true })] }
    let s : State := { cState [] frontPart with insts := [(0, i), (1, { i with num := 2 ^ 25 })] }
    s.arg 0 = 0 ∧ s.part 0 = some frontPart ∧ frontPart.front = some { dst := 1, mrl := 65536 } ∧ 1 ≠ frontPart.cur ∧ s.inst (0 * 8 + frontPart.cur) = some i ∧ sweptAll i = true ∧
      s.inst (0 * 8 + 1) = some { i with num := 2 ^ 25 } ∧ (∀ n, n < 128 → bit frontPart.cores n = true → (s.core n).run = none) ∧ s.mons = [] ∧ frontPart.wsaved = [] ∧ frontPart.streams = [] := by
  decide +kernel
theorem meets_WaveStep : let i : Inst := { img := tImg, tiles := [(0, {})] }
    let x := tPart
    let s : State := { State.reset with parts := [(11, x)], insts := [(88, i)], boot := { State.reset.boot with waveRot := 11 } }
    s.part 11 = some x ∧ 11 < 12 ∧ s.inst (11 * 8 + x.cur) = some i ∧ (∃ t ∈ i.tiles, t.2.woken = false ∧ t.2.acted = false ∧ t.1 % 128 < 64) ∧ s.boot.waveRot = 11 ∧ x.front = none ∧ i.x0 ≤ 64 ∧
      s.boot.waveAt = none ∧ (99 < 0 + 100 ∧ 0 + 100 ≤ 100) := by decide +kernel
/-- Slot 0 is used and asks nothing; the last to fire was slot 7, or none is used. -/
theorem meets_FiringSelect : let img : Image := { frames := [(0, 2 ^ 246), (2 ^ 14, 2 ^ 255)] }
    let t : Tile := { woken := true, lastSlot := some 7 }
    let i : Inst := { img := img, tiles := [(0, t)] }
    let s : State := { cState [] tPart with sched := { args := [0, 0] }, insts := [(0, i)] }
    s.sched.args = [0, 0] ∧ s.inst 0 = some i ∧ getT i.tiles 0 = some t ∧ s.part (0 / 8) = some tPart ∧ tPart.cur = 0 % 8 ∧ tPart.front = none ∧ t.frozen = none ∧ t.acted = false ∧
      t.firing = none ∧ i.phase ≠ .loading ∧ eligible img 0 t ((7 + 1 + 0) % 8) = true ∧ (∀ j, j < 8 → eligible {} 0 t j = false) := by decide +kernel
theorem meets_GeneratorFiring : let img : Image := { frames := [(2 ^ 14, 2 ^ 255 + 2 ^ 235 + 3 * 2 ^ 232), epFrame 7 0 0 1] }
    let t : Tile := { woken := true, firing := some {}, demand := [(7, 1)] }
    t.firing = some {} ∧ img.isGen 0 0 = true ∧ 4 + fld (img.frame (1 + 0) 0) 233 232 = 7 ∧ 0 < t.demandOf 7 := by decide +kernel
/-- A token and a request on channel 3, which ends at port 0 of tile 0 and begins at port 4 of tile 1. -/
theorem meets_Arrivals : let img : Image := { frames := [epFrame 0 3 0 1, (11 * 2 ^ 14 + 1, 2 ^ 127 + 3 * 2 ^ 117)] }
    let t : Tile := { woken := true }
    let i : Inst := { img := img, tiles := [(0, t), (1, t)], links := [(3, { fwd := [.tok (.wide zeroLanes 0)], req := 1 })] }
    img.endOf 3 true = some (0, 0) ∧ img.endOf 3 false = some (1, 4) ∧ getT i.links 3 = some { fwd := .tok (.wide zeroLanes 0) :: [], req := 1 } ∧ 0 < 1 ∧ getT i.tiles 0 = some t ∧
      img.isSnake 0 = false ∧ t.acted = false ∧ t.woken = true ∧ t.takesAt ≤ State.reset.cyc := by decide +kernel
theorem meets_ControlTokens : let img : Image := { frames := [(0, 15 * 2 ^ 242), (24 * 2 ^ 14, 2 ^ 255 + 7 * 2 ^ 248 + 2 ^ 243)] }
    let t : Tile := { woken := true, chains := [(3, { pending := 15 })] }
    let i : Inst := { img := img, tiles := [(0, t)], lineMsgs := [(7, some 0), (7, none)], lines := [(7, 65535)] }
    (7, some 0) ∈ i.lineMsgs ∧ (7, none) ∈ i.lineMsgs ∧ 3 < 4 ∧ img.hasChain 0 3 = true ∧ img.chainStart 0 3 = 7 ∧ img.chainRepeat 0 3 = true ∧ (getTD t.chains 3 {}).running = false ∧
      0 < (getTD t.chains 3 {}).pending ∧ t.acted = false ∧ t.woken = true ∧ t.takesAt ≤ State.reset.cyc ∧ (getTD t.chains 3 {}).ran = false := by decide +kernel
/-- A key/value tile with LIMIT 5 whose next tile hangs on channel 3, and requests above, across and below the limit. -/
theorem meets_KvRequests : let img : Image := { frames := [(20 * 2 ^ 14, 2 ^ 127 + 3 * 2 ^ 117), (27 * 2 ^ 14, 2 ^ 191 + 3 * 2 ^ 181)] }
    let t : Tile := { woken := true, acted := false, limit := 5, kv := [.narrow 0x0000000700000006 0], demand := [(22, 1)] }
    t.kv = .narrow 0x0000000700000006 0 :: [] ∧ bit (img.frame 27 0) 191 = true ∧ fld (img.frame 27 0) 190 181 = 3 ∧ img.endOf 3 false = some (0, 22) ∧ epCh (img.ep 0 22) = 3 ∧
      0 < t.demandOf 22 ∧ t.limit < 0x0000000700000006 % 2 ^ 32 ∧ 0x0000000700000005 % 2 ^ 32 ≤ t.limit ∧ t.limit < 0x0000000700000005 / 2 ^ 32 ∧ 0x0000000500000005 / 2 ^ 32 ≤ t.limit := by
  decide +kernel
theorem meets_PeerTokens : let img : Image := { frames := [(0x40, 2 * 2 ^ 254), ((9 + 15 / 2) * 2 ^ 14 + 0x40, 2 ^ 127 * 2 ^ 128), ((9 + 23 / 2) * 2 ^ 14 + 0x40, 2 ^ 127 * 2 ^ 128)] }
    let t : Tile := { woken := true, demand := [(23, 1)] }
    let i : Inst := { img := img, tiles := [(0x40, t)] }
    let s : State := { cState [] tPart with insts := [(0, i)], rim := [(0, 0)] }
    s.occupant 0 = some (0, i) ∧ getT s.rim (0 * 128 + i.y0 + 0) = some 0 ∧ getT s.rim (0 * 128 + i.y0 + 1) ≠ some 0 ∧ t.acted = false ∧ t.woken = true ∧ t.frozen = none ∧ getT i.tiles (tkey 0 (0x40 + 0)) = some t ∧ img.rim 0x40 = true ∧ epV (img.ep 0x40 23) = true ∧ 1 % 32 < 2 ∧ 2 ≤ 2 % 32 ∧ bit tPart.fmask 0x03 = false ∧ img.rim 0x41 = false ∧ 0 < t.demandOf 23 ∧ ({} : Tile).demandOf 23 = 0 := by
  decide +kernel

/-- A core at ADDI g5, g5, 1; a tile at a pair word with one slot NOP; and a machine step. -/
theorem meets_StepOfACore : let i : Inst := { img := { ncode := 1, code := List.replicate 8 0x10A50001 } }
    let s : State := { kState {} with sched := { turns := [{ dt := 1, what := .core 0 }] }, insts := [(0, i)] }
    s.turn.what = .core 0 ∧ 0 < 128 ∧ (s.core 0).run = some {} ∧ ({} : Run).ending = none ∧ ({} : Run).defer = none ∧ (∀ x, s.part 0 = some x → x.front = none) ∧
      s.codeWord {} ({} : Run).pc = 0x10A50001 ∧ ({} : Run).locks = [] ∧ ({} : Run).hold = [] :=
  ⟨rfl, by decide, rfl, rfl, rfl, fun x h => by injection h with h; subst h; rfl, by decide +kernel, rfl, rfl⟩
theorem meets_StepOfATile : let img : Image := { frames := [slot0, (33 * 2 ^ 14, 0x0800C00000000000)] }
    let f : Firing := { pc := 4 }
    let s : State := { fState img {} f with sched := { turns := [{ dt := 1, what := .tile 0 0 }], tile := (0, 0) } }
    s.turn.what = .tile 0 0 ∧ img.isGen 0 0 = false ∧ f.words < 512 ∧ img.slotEntry 0 0 ≤ f.pc ∧ f.pc < img.slotEntry 0 0 + img.slotLen 0 0 ∧ img.pword 0 f.pc = 0x0800C00000000000 ∧
      qOf ({} : Tile) 0 ≠ false ∧ (encodeS (.setprec 3)).isSome = true ∧ qOf ({} : Tile) 1 = false := by decide +kernel
theorem meets_StepOfTheMachine : let s : State := { State.reset with sched := { turns := [{ dt := 1, what := .event .waveStep [] }] } }
    s.turn.what = .event .waveStep [] ∧ Instr.waveStep.wf = true ∧ encodeK .waveStep = none ∧ encodeS .waveStep = none ∧ encodeV .waveStep = none := 
  ⟨rfl, by decide +kernel, by decide +kernel, by decide +kernel, by decide +kernel⟩
theorem meets_BothSlots : let w : PWord := ⟨false, 0, .movi 1 5, .vbc 2 1 0⟩
    qOf ({} : Tile) w.pred ≠ w.neg ∧ w.scalar = .movi 1 5 ∧ w.vector = .vbc 2 1 0 := by decide
theorem meets_Encoding : Instr.wf (.addi 5 5 1) = true ∧ encodeK (.addi 5 5 1) = some 0x10A50001 ∧ Instr.wf (.mz 2) = true ∧ encodeV (.mz 2) = some 0xA8400000 ∧
    Instr.wf (.setprec 3) = true ∧ (encodeS (.setprec 3)).isSome = true ∧ 0x10A50001 < 2 ^ 32 := by decide +kernel
/-- A canonical memory that a step keeps: the turn writes a register of the recovery page, which ignores it. -/
theorem meets_StepsKeepMemory : let s : State := { State.reset with mem := [(0, 1)], insts := [(0, { tiles := [(0, { sram := [(7, 255)] })] })], sched := { turns := [{ dt := 1, what := .event (.registerWrite 0 0) [] }] } }
    memWf s.mem = true ∧ (s.insts.all fun i => i.2.wf) = true ∧ step s = .next { s with cyc := 1, sched := { ticks := 1 } } := ⟨rfl, rfl, rfl⟩
/-- 1.0 and the smallest finite magnitude; the widest exponent and significand. -/
theorem meets_FabricWords : fwVal 0x200080000000 = .fin false (2 ^ 31) (-31) ∧ (-4096 : Int) ≤ -4096 ∧ (4095 : Int) ≤ 4095 ∧ (2 ^ 32 - 1 : Nat) < 2 ^ 32 ∧
    fwVal 0x000000000005 = fwVal 0x000000000000 := by decide +kernel
theorem meets_Formats : (fmtOf 1).isSome = true ∧ (1 : Nat) ≠ 0 := by decide
/-- A magnitude of 32 bits, and one of 33 that is rounded. -/
theorem meets_Rounding : 0 < 2 ^ 32 + 1 ∧ 2 ^ 32 ≤ 2 ^ 32 + 1 ∧ 2 ^ 32 + 1 < 2 ^ (32 + 1) ∧ 31 < 32 := by decide

/-! Engine words and oasis allocations. -/

/-- g4 to g7 of a copy of one row of one element of format 1. -/
def engineRun : Run := runAt 0 [(4, 0x1000), (5, 0x2000), (6, 0x0001000000000001), (7, 0x410000)]
theorem meets_EngineWords : let s : State := { kState engineRun with insts := [(0, eInst)] }
    let c := cmdOf s 0 engineRun 2 4 0 false 0 (some (engineRun.get 0)) none
    s.inst (keyOf engineRun.rc.inst) = some eInst ∧ (4 : Reg).val ≠ 0 ∧ (28 : Reg).val % 4 = 0 ∧ (4 : Reg).val % 4 = 0 ∧ c.legal = true ∧ (c.where_ eInst).isSome = true := by decide +kernel
theorem meets_EngineWordsRun : On { kState engineRun with insts := [(0, eInst)] } 0 engineRun := by simp only [On]; decide
def oasisPart : Part := { tPart with pages := [], tpages := 8 }
def oasisState : State := { kState (runAt 0 [(4, 2 ^ 21)]) with parts := [(0, oasisPart)], oasis := { quota := [(3, 1)] } }
/-- The largest size of one granule, where the quota of die 3 is one granule. -/
theorem meets_OasisAllocation : let r := runAt 0 [(4, 2 ^ 21)]
    let page (g i : Nat) : Page := { va := 0x00F0000000000000 + i * 2 ^ 21, size := 2 ^ 21, ga := g, r := true, w := true }
    0 < (r.get 4).toNat ∧ (r.get 4).toNat ≤ 2 ^ 36 ∧ ((r.get 4).toNat + 2 ^ 21 - 1) / 2 ^ 21 = 1 ∧ oasisState.part 0 = some oasisPart ∧ oasisState.dieLost 3 = false ∧
      windowRun oasisPart (1 * 2 ^ 21) = some 0x00F0000000000000 ∧ (∀ gas : List Nat, oasisPart.canMap 0x00F0000000000000 (1 * 2 ^ 21) ((List.range 1).map fun i => page (gas.getD i 0) i) = true) ∧
      oasisState.oused 0 3 + 1 ≤ oasisState.oquota 0 3 :=
  ⟨by decide +kernel, by decide +kernel, by decide +kernel, rfl, rfl, by decide +kernel, fun _ => rfl, by decide +kernel⟩
theorem meets_OasisAllocationOfNoSize : ((runAt 0 [(4, 0)]).get 4).toNat = 0 ∧ 2 ^ 36 < ((runAt 0 [(4, 0x1000000001)]).get 4).toNat := by decide +kernel
/-- An address of no allocation, one that a stream lies in, and one that no stream of oasis uses. -/
theorem meets_OasisFree : let s : State := { oasisState with oasis := { allocs := [tAlloc] } }
    let z : Machine.Stream := { bk := 2, fbase := 2 ^ 46 + 3 * 2 ^ 36 + 2 ^ 21 - 4, f := 2 }
    s.allocAt 0 0 = none ∧ s.allocAt 0 0x00F0000000000000 = some tAlloc ∧ z.bk = 2 ∧ (∃ g ∈ tAlloc.gas, g < z.fbase + z.w * 2 ^ z.f ∧ z.fbase < g + 2 ^ 21) ∧
      (∀ w ∈ oasisPart.streams, w.2.bk ≠ 2) := by decide +kernel

/-! Clauses of their own: closings and aborts, queued packets, posts with a continuation, waiting loads, window banks, far streams and stalled words. -/

/-- VF 63 has one packet in its partition's queue, and its partition's instance is another VF's; its completion cannot be written, for its port has no IDE. -/
def closeState : State :=
  { cState [] { tPart with queue := [mkPacket goodPacket 63 false] } with insts := [(0, { img := tImg, num := 5 })], vfs := [(63, tVf)] }
theorem meets_Closings : let s := closeState
    let q := mkPacket goodPacket 63 false
    getT s.vfs 63 = some tVf ∧ (∀ e ∈ s.insts, e.2.vf ≠ 63) ∧ tVf.park = [] ∧ tVf.kids = [] ∧ tVf.stopped = [] ∧ (∀ i, i < 4 → (s.port (4 * 63 + i)).full = []) ∧
      (s.part 0).map (fun x => x.queue.filter fun q => decide (q.vf = 63)) = some [q] ∧ (∀ p ∈ tPart.queue, p.vf ≠ 63) ∧ q.child = false ∧ cgaOk q.cga = true ∧
      s.shut q.cga 16 = true ∧ (∀ e ∈ s.vfs, ∀ q ∈ e.2.park, q.bind = none) := by decide +kernel
theorem meets_ClosingVfStillStands : ∃ w, getT (unpark ((([].foldl (stopInst 97) (packetEnds { closeState with vfs := putT closeState.vfs 63 { tVf with closing := some 9 } }
    (mkPacket goodPacket 63 false) 5 0, ([] : List Owed))) : State × List Owed)).1 0).vfs 63 = some w := ⟨_, rfl⟩
/-- An instance without children in any queue, whose closing VF owes nothing or the record of a child of it. -/
theorem meets_Aborts : let i : Inst := { img := tImg, num := 5, phase := .running }
    let s : State := { closeState with insts := [(0, i)] }
    let o : Owed := { num := 8, cga := some hostBase, cval := 1, parent := some 5 }
    let v : Vf := { tVf with stopped := [o] }
    s.inst 0 = some i ∧ (∀ e ∈ s.insts, e.2.parent ≠ some i.num) ∧ (∀ x ∈ s.parts, ∀ q ∈ x.2.queue, q.child = true → q.parent ≠ i.num) ∧
      (∀ v ∈ s.vfs, ∀ q ∈ v.2.kids ++ v.2.park, q.child = true → q.parent ≠ i.num) ∧ (∀ v ∈ s.vfs, ∀ q ∈ v.2.park, q.bind = none) ∧ i.phase ≠ .idle ∧
      ({ i with phase := .idle } : Inst).phase = .idle ∧ (∀ v ∈ s.vfs, ∀ o ∈ v.2.stopped, o.parent ≠ some i.num) ∧
      ([(63, v)].find? fun v => v.2.stopped.any fun o => decide (o.parent = some i.num)) = some (63, v) := by decide +kernel
theorem meets_AbortOwed : let i : Inst := { img := tImg, num := 5, phase := .running }
    let s : State := { closeState with insts := [(0, i)], vfs := [(63, { tVf with stopped := [{ num := 8, cga := none, cval := 1, parent := some 5 }] })] }
    ((unload (purge s 0 5) 0).vfs.find? fun v => v.2.stopped.any fun o => decide (o.parent = some i.num)).isSome = true := by decide +kernel
/-- A parked packet that is bound enters the queue; a full queue takes none. -/
theorem meets_ParkedAndBound : let q : Packet := { mkPacket goodPacket 63 false with bind := some { img := tImg, id := 3 } }
    let v : Vf := { tVf with park := [q] }
    let s : State := { cState [] tPart with vfs := [(63, v)] }
    (∀ e ∈ s.vfs, getT s.vfs e.1 = some e.2) ∧ s.part v.part = some tPart ∧ tPart.queue.length < 1024 ∧ v.park = [q] ∧ q.bind.isSome = true ∧
      1024 ≤ (List.replicate 1024 ({} : Packet)).length := by decide +kernel
/-- A STREAM_STALL, which takes two entries of the queue, with a continuation for core 0, and one whose run has ended. -/
theorem meets_PostsWithContinuations : let q : Post := { fr := { code := 0x06, ext := List.replicate 8 7 }, cont := some {}, core := some 0 }
    let x : Part := { tPart with fq := some (0, 6), posts := [q] }
    let s : State := { cState [] x with mem := [] }
    q.held x = false ∧ ({ q with core := none } : Post).held x = false ∧ q.fr.ext.length = 8 * 1 ∧ fqHeld s 0 x = false ∧ fqHeld { s with bias := [(1, (true, 9))] } 0 x = true ∧
      bit x.cores 0 = true ∧ ((s.core 0).deque 0).hw.length < 256 ∧ x.inj.length < 1024 ∧ x.ready = [] ∧ tPage.attr ≠ 1 ∧ s.mons = [] ∧
      (62 + 2 ^ 64 - 0) % 2 ^ 64 + 2 ≤ 2 ^ 6 ∧ 2 ^ 6 < (63 + 2 ^ 64 - 0) % 2 ^ 64 + 2 := by decide +kernel
/-- A home at which 256 synchronising loads of another module wait. -/
theorem meets_WaitingLoads : let w : FarSync := { stamp := 1, link := 0, part := 0, ga := 0x1000, keep := false, bias := false }
    let s : State := { qState (q0 (.sync true)) with syncs := List.replicate 256 w }
    256 ≤ (s.syncs.filter fun w => decide (syncHome w.ga = syncHome 0x1000)).length ∧
      ((qState (q0 (.sync true))).syncs.filter fun w => decide (syncHome w.ga = syncHome 0x1000)).length < 256 := by decide +kernel
/-- Stream 1 in window bank 3 of M-tile (0, 1), of an occupant that holds the rectangle, or is out. -/
def bankStream : Machine.Stream := { hStream with bk := 0, fbase := 2 * 2 ^ 46 + 1 * 2 ^ 20 + 3 * 2 ^ 16 }
def bankState (cur : Nat) : State :=
  { vState 8 (.load 8 false false) with
    parts := [(0, { sPart with streams := [(1, bankStream)], cur := cur })], insts := [(0, { img := { frames := [(1, 2 ^ 254), (27 * 2 ^ 14 + 1, 2 * 2 ^ 230)] }, tiles := [(1, {})] })] }
theorem meets_WindowBanks : let s := bankState 0
    let q := vPend 8 (.load 8 false false)
    s.stream 0 1 = some bankStream ∧ streamDown s q.part bankStream = none ∧ s.remoteStream bankStream = false ∧ noKey s q.part bankStream.fbase = false ∧
      s.flipping (bankStream.addr 8) = false ∧ bankStream.bk = 0 ∧ (s.part q.part).map (·.cur) = some bankStream.hsel ∧ ((bankState 1).part 0).map (·.cur) = some 1 ∧ bankStream.hsel ≠ 1 ∧
      (s.inst (q.part * 8 + bankStream.hsel)).isSome = true ∧ (s.inst 0).map (fun i => getT i.tiles (tkey (gaY bankStream.fbase - i.y0) (gaX bankStream.fbase - i.x0))) = some (some {}) := by
  decide +kernel
/-- A stream of switch module 1's oasis, reached by a link, and streams that have lost their frames. -/
theorem meets_FarStreams : let z : Machine.Stream := { tStream with bk := 2, fbase := 2 ^ 50 + 2 ^ 46 }
    let s : State := { podState { sPart with podKey := some 9, streams := [(1, z)] } with boot := { (podState {}).boot with stage := 15 }, calls := [(0, [{ part := 0 }])] }
    s.remoteStream z = true ∧ streamDown s 0 z = none ∧ noKey s 0 z.fbase = false ∧ (s.linkOn (gaModule z.fbase) (planeOf z.fbase)).isSome = true ∧
      streamDown { s with oasis := { lost := [(1, 0)] } } 0 z = some 0x08 ∧ ({ tStream with bk := 0, lost := true } : Machine.Stream).lost = true ∧
      streamDown s 0 { tStream with bk := 0, lost := true } ≠ none := by decide +kernel
/-- A word that does not decode, a word that reads an interlocked register, and an END behind an acquire. -/
def codeAt (w : Nat) : State := { kState {} with insts := [(0, { img := { ncode := 1, code := List.replicate 8 w } })] }
theorem meets_StalledWords : (codeAt 0xFC000000).codeWord {} 0 = 0xFC000000 ∧ encodeK (.addi 5 5 1) = some ((codeAt 0x10A50001).codeWord {} 0) ∧
      (∃ l ∈ ({ locks := [(5, 1)] } : Run).locks, l.1 ∈ regsOf (.addi 5 5 1)) ∧ waitsAcquire .endRun = true ∧ ({ hold := [1] } : Run).hold ≠ [] ∧
      ({ defer := some {} } : Run).defer = some {} ∧ (encodeK .endRun).isSome = true := by decide +kernel
theorem meets_StalledCores : let x : Part := { tPart with front := some { dst := 0, mrl := 4096 } }
    let s : State := { kState {} with cyc := 4096, parts := [(0, x)], sched := { turns := [{ dt := 1, what := .core 0 }] } }
    s.part 0 = some x ∧ x.front = some { dst := 0, mrl := 4096 } ∧ 4096 ≤ s.cyc + 1 - ({} : Run).began ∧ ({ held := [{}] } : Core).held ≠ [] ∧ (s.core 1).run = none := by decide +kernel
/-- Under `any`, die 1 has the most free quota of the dies that are not lost; a partition without page-table pages maps nothing. -/
theorem meets_AnyDie : let s : State := { oasisState with oasis := { quota := [(1, 2), (3, 1)], lost := [(0, 0)] } }
    let room (j : Nat) : Nat := s.oquota 0 j - s.oused 0 j
    s.dieLost 1 = false ∧ (∀ j < 4, s.dieLost j = false → room j ≤ room 1) ∧ (∀ j < 1, s.dieLost j = false → room j < room 1) ∧ s.dieLost 0 = true ∧
      (∀ j < 4, ({ oasisState with oasis := { lost := [(0, 0), (0, 1), (0, 2), (0, 3)] } } : State).dieLost j = true) ∧
      ({ tPart with tpages := 0 } : Part).canMap 0x00F0000000000000 (2 ^ 21) [{ va := 0x00F0000000000000, size := 2 ^ 21, ga := 2 ^ 46 }] = false ∧
      ({ oasisState with oasis := {} } : State).oquota 0 3 < ({ oasisState with oasis := {} } : State).oused 0 3 + 1 := by decide +kernel

/-! ### One step each, with results worked out from the rules -/

/-- What a step leaves of a state, or nothing where it stops. -/
def left? {α : Type} (f : State → α) : Out → Option α
  | .next t => some (f t)
  | _ => none
/-- The general register g of core 0's run. -/
def gOf (g : Reg) (s : State) : Option Word := (s.core 0).run.map fun r => r.get g
/-- The code of the trap that core 0's run ends with. -/
def trapOf (s : State) : Option Nat := match (s.core 0).run with
  | some r => (match r.ending with | some (.trap f) => some f.code | _ => none)
  | none => none

/-- R183: ADDI g5, g5, 1 from 0. -/
theorem test_step_addi : left? (gOf 5) (step (State.reset.withFetchWord 32 0x10A50001)) = some (some 1) := by decide +kernel
/-- R185: MOVK g5 replaces bits 47 to 32. -/
theorem test_step_movk : left? (gOf 5) (exec (.movk 5 2 0x7F10) (kState (runAt 0 [(5, 0x1111222233334444)]))) = some (some 0x11117F1033334444) := by decide +kernel
/-- R182: −7 divided by 2 is −3, and by 0 all ones. -/
theorem test_div : left? (gOf 5) (exec (.div 5 3 4) (kState (runAt 0 [(3, -7), (4, 2)]))) = some (some (-3)) ∧
    left? (gOf 5) (exec (.div 5 3 4) (kState (runAt 0 [(3, -7), (4, 0)]))) = some (some (-1)) := by decide +kernel
/-- R187: CALL at word 2 writes 3 to g30 and goes 2 words on from there. -/
theorem test_call : left? (fun s => ((s.core 0).run.map fun r => (r.pc, r.get 30))) (exec (.call 2) (kState (runAt 2 []))) = some (some (5, 3)) := by decide +kernel
/-- R101: a branch out of the code traps with ILLEGAL. -/
theorem test_branch_out : left? trapOf (exec (.beq 0 0 (-1)) (kState (runAt 7 []))) = some none ∧ left? trapOf (exec (.beq 0 0 0) (kState (runAt 7 []))) = some (some 0x01) := by decide +kernel
/-- R188: a word load at 2 MiB finds no page; at a byte it is misaligned. -/
theorem test_load_traps : left? trapOf (exec (.ld 5 4 .w false .normal 0) (kState (runAt 0 [(4, 0x200000)]))) = some (some 0x04) ∧
    left? trapOf (exec (.ld 5 4 .w false .normal 0) (kState (runAt 0 [(4, 1)]))) = some (some 0x02) := by decide +kernel
/-- R188: a signed half at its home, low byte first. -/
theorem test_load_signed_half : left? (fun s => s.pends.map (·.st)) (exec .accessAtHome { qState (q0 (.load 2 true false)) with mem := [(0x1000, 0x34), (0x1001, 0x92)] }) =
    some [.done 0xFFFFFFFFFFFF9234] := by decide +kernel
/-- R368: AFADD adds 1.0 to 2.0 in the low half and keeps the high half. -/
theorem test_afadd : atomNew .fadd 0xDEADBEEF40000000 0x3F800000 0 = some 0xDEADBEEF40400000 := by decide +kernel
/-- R218, R219: the tile's scalar add wraps, and a signed comparison of −1 with 0 holds. -/
theorem test_scalar_slot : left? (fun s => (s.inst 0).map fun i => (getTD i.tiles 0 {}).s[1]) (exec (.sAdd 1 1 2)
      (fState {} { s := ((Vector.replicate 16 (0 : Word)).set 1 (-1)).set 2 3 } { pc := 4 })) = some (some 2) ∧
    left? (fun s => (s.inst 0).map fun i => (getTD i.tiles 0 {}).q[1]) (exec (.cmplt 1 1 2) (fState {} { s := (Vector.replicate 16 (0 : Word)).set 1 (-1) } { pc := 4 })) =
      some (some true) := by decide +kernel
/-- R215: in one word, MOVI s1, 5 beside VBC v1, s1 broadcasts the old s1. -/
theorem test_pair : left? (fun s => (s.inst 0).map fun i => ((getTD i.tiles 0 {}).s[1], (getTD (getTD i.tiles 0 {}).v 1 zeroLanes)[63])) (execWord ⟨false, 0, .movi 1 5, .vbc 1 1 0⟩
      (fState {} { s := (Vector.replicate 16 (0 : Word)).set 1 9 } { pc := 4 })) = some (some (5, 9)) := by decide +kernel
/-- R142: a completion record for the packet of a full park has status 1. -/
theorem test_completion : (complRecord (hState [] tPart) (some hostBase) 5 1 0 0).mem = memPuts (hState [] tPart).mem hostBase (toBytes 8 5 ++ toBytes 8 1) := by decide +kernel
/-- R24: after a reset, boot stands at stage 0 and nothing is defined. -/
theorem test_reset : State.reset.boot.stage = 0 ∧ State.reset.parts = [] ∧ State.reset.mem = [] ∧ State.reset.cyc = 0 := ⟨rfl, rfl, rfl, rfl⟩
/-- A load from a sector in error faults (R269). -/
theorem test_load_of_a_bad_sector : left? (fun s => s.pends.map fun q => match q.st with | .faulted f => f.code | _ => 0)
    (exec .accessAtHome { qState (q0 (.load 8 false false)) with bad := [0x107F] }) = some [3] := by decide +kernel
/-- A word in error is good again once it has been overwritten (R269). -/
theorem test_overwritten_word_is_good : left? (fun s => s.bad) (exec .accessAtHome { qState (q0 (.store 8 1)) with bad := [0x1000, 0x1007, 0x1008] }) = some [0x1008] := by
  decide +kernel

end Sys2Proof.Tests
end

section
/-!
PROOFS. Fabric words as numbers (R54, R55) and Round (R58): the fields of an assembled word, the value
that each class stands for, and what RoundInt gives in each direction.
-/
namespace Sys2Proof.Machine

/-! ### The fields of a fabric word (R54) -/

section Fields

variable (neg : Bool) {cls : Nat} (e : Int) (s : Nat)

theorem b2n_le_one : b2n neg ≤ 1 := by cases neg <;> decide

/-- The layout of R54: a class of two bits leaves nothing to be cut off at 48 bits. -/
theorem packFW_toNat (hc : cls < 4) :
    (packFW neg cls e s).toNat = b2n neg * 2 ^ 47 + cls * 2 ^ 45 + (e % 8192).toNat * 2 ^ 32 + s % 2 ^ 32 := by
  have hn := b2n_le_one neg
  simp only [packFW, BitVec.toNat_ofNat]
  omega

theorem sign_packFW (hc : cls < 4) : bit (packFW neg cls e s).toNat 47 = neg := by
  have hn : (b2n neg * 2 ^ 47 + cls * 2 ^ 45 + (e % 8192).toNat * 2 ^ 32 + s % 2 ^ 32) / 2 ^ 47 % 2 = b2n neg := by
    have := b2n_le_one neg
    omega
  rw [bit, packFW_toNat neg e s hc, hn]
  cases neg <;> decide

theorem class_packFW (hc : cls < 4) : fld (packFW neg cls e s).toNat 46 45 = cls := by
  rw [fld, packFW_toNat neg e s hc]
  omega

theorem exponent_packFW (hc : cls < 4) : fld (packFW neg cls e s).toNat 44 32 = (e % 8192).toNat := by
  rw [fld, packFW_toNat neg e s hc]
  omega

theorem significand_packFW (hc : cls < 4) : fld (packFW neg cls e s).toNat 31 0 = s % 2 ^ 32 := by
  rw [fld, packFW_toNat neg e s hc]
  omega

end Fields

theorem fld_lt (w hi lo : Nat) : fld w hi lo < 2 ^ (hi + 1 - lo) := Nat.mod_lt _ (Nat.two_pow_pos _)

/-- The range of the exponent field, 13 bits of two's complement (R7, R54). -/
theorem sx_13_bounds (v : Nat) : -4096 ≤ sx 13 v ∧ sx 13 v ≤ 4095 := by
  simp only [sx]
  split <;> omega

/-- The exponent field of 13 bits reads back every exponent in range. -/
theorem sx_exponent {e : Int} (hlo : -4096 ≤ e) (hhi : e ≤ 4095) : sx 13 (e % 8192).toNat = e := by
  simp only [sx]
  split <;> omega

/-! ### The value of each class (R55) -/

section Classes

variable {x : FW}

theorem fwVal_class0 (h : fld x.toNat 46 45 = 0) : fwVal x = .zero (bit x.toNat 47) := by simp [fwVal, h]

theorem fwVal_class1 (h : fld x.toNat 46 45 = 1) : fwVal x =
    if fld x.toNat 31 0 = 0 then .zero (bit x.toNat 47)
    else .fin (bit x.toNat 47) (fld x.toNat 31 0) (sx 13 (fld x.toNat 44 32) - 31) := by simp [fwVal, h]

theorem fwVal_class2 (h : fld x.toNat 46 45 = 2) : fwVal x = .inf (bit x.toNat 47) := by simp [fwVal, h]

theorem fwVal_class3 (h : fld x.toNat 46 45 = 3) : fwVal x = .nan (bit x.toNat 47) (fld x.toNat 31 0) := by
  simp [fwVal, h]

theorem fwClass_cases (x : FW) :
    fld x.toNat 46 45 = 0 ∨ fld x.toNat 46 45 = 1 ∨ fld x.toNat 46 45 = 2 ∨ fld x.toNat 46 45 = 3 := by
  have := fld_lt x.toNat 46 45
  omega

/-- Whatever its class, a word's value has the word's SIGN. -/
theorem fwVal_neg (x : FW) : (fwVal x).neg = bit x.toNat 47 := by
  obtain h | h | h | h := fwClass_cases x
  · rw [fwVal_class0 h, FVal.neg]
  · rw [fwVal_class1 h]
    split <;> rfl
  · rw [fwVal_class2 h, FVal.neg]
  · rw [fwVal_class3 h, FVal.neg]

/-- A finite value is that of a word of class 01 whose significand is not 0. -/
theorem fwVal_eq_fin {n : Bool} {m : Nat} {e : Int} (hx : fwVal x = .fin n m e) :
    fld x.toNat 31 0 = m ∧ m ≠ 0 ∧ sx 13 (fld x.toNat 44 32) - 31 = e := by
  obtain h | h | h | h := fwClass_cases x
  · simp [fwVal_class0 h] at hx
  · rw [fwVal_class1 h] at hx
    split at hx
    · cases hx
    next hs =>
      obtain ⟨-, rfl, rfl⟩ := FVal.fin.inj hx
      exact ⟨rfl, hs, rfl⟩
  · simp [fwVal_class2 h] at hx
  · simp [fwVal_class3 h] at hx

theorem fwVal_fin_bounds {n : Bool} {m : Nat} {e : Int} (hx : fwVal x = .fin n m e) :
    0 < m ∧ m < 2 ^ 32 ∧ -4127 ≤ e ∧ e ≤ 4064 := by
  obtain ⟨rfl, hm, rfl⟩ := fwVal_eq_fin hx
  have hs := fld_lt x.toNat 31 0
  have he := sx_13_bounds (fld x.toNat 44 32)
  refine ⟨by omega, hs, ?_, ?_⟩ <;> omega

end Classes

section PackedValues

variable (neg : Bool) (e : Int) (s : Nat)

@[simp] theorem fwVal_packFW_zero : fwVal (packFW neg 0 e s) = .zero neg := by
  rw [fwVal_class0 (class_packFW neg e s (by decide)), sign_packFW neg e s (by decide)]

@[simp] theorem fwVal_packFW_inf : fwVal (packFW neg 2 e s) = .inf neg := by
  rw [fwVal_class2 (class_packFW neg e s (by decide)), sign_packFW neg e s (by decide)]

theorem fwVal_packFW_finite {e : Int} {s : Nat} (hlo : -4096 ≤ e) (hhi : e ≤ 4095) (hs : s < 2 ^ 32) :
    fwVal (packFW neg 1 e s) = if s = 0 then .zero neg else .fin neg s (e - 31) := by
  rw [fwVal_class1 (class_packFW neg e s (by decide)), sign_packFW neg e s (by decide),
    significand_packFW neg e s (by decide), exponent_packFW neg e s (by decide), sx_exponent hlo hhi,
    Nat.mod_eq_of_lt hs]

end PackedValues

/-! ### Float operations see the value alone (R55)

Each operation of one lane reads its operands through `fwVal`; VCPS alone reads a bit of the word, its SIGN, which
is that of the value. -/

section ByValue

variable {a b c a' b' c' : FW} (r : Rnd)

theorem fwCps_congr (ha : fwVal a = fwVal a') (hb : fwVal b = fwVal b') : fwCps a b = fwCps a' b' := by
  have hsign : bit b.toNat 47 = bit b'.toNat 47 := by rw [← fwVal_neg, ← fwVal_neg, hb]
  rw [fwCps, fwCps, ha, hsign]

theorem fwUnary_congr (ha : fwVal a = fwVal a') :
    fwAbs a = fwAbs a' ∧ fwNeg a = fwNeg a' ∧ fwExp2 r a = fwExp2 r a' ∧ fwLog2 r a = fwLog2 r a' ∧
      fwRcp r a = fwRcp r a' ∧ fwRsq r a = fwRsq r a' ∧ fwToInt r a = fwToInt r a' := by
  refine ⟨?abs, ?neg, ?exp2, ?log2, ?rcp, ?rsq, ?toInt⟩
  case abs => rw [fwAbs, fwAbs, ha]
  case neg => rw [fwNeg, fwNeg, ha]
  case exp2 => rw [fwExp2, fwExp2, ha]
  case log2 => rw [fwLog2, fwLog2, ha]
  case rcp => rw [fwRcp, fwRcp, ha]
  case rsq => rw [fwRsq, fwRsq, ha]
  case toInt => rw [fwToInt, fwToInt, ha]

theorem fwBinary_congr (ha : fwVal a = fwVal a') (hb : fwVal b = fwVal b') :
    fwAdd r a b = fwAdd r a' b' ∧ fwSub r a b = fwSub r a' b' ∧ fwMul r a b = fwMul r a' b' ∧
      fwMax a b = fwMax a' b' ∧ fwMin a b = fwMin a' b' := by
  refine ⟨?add, ?sub, ?mul, ?max, ?min⟩
  case add => rw [fwAdd, fwAdd, ha, hb]
  case sub => rw [fwSub, fwSub, ha, hb]
  case mul => rw [fwMul, fwMul, ha, hb]
  case max => rw [fwMax, fwMax, ha, hb]
  case min => rw [fwMin, fwMin, ha, hb]

theorem fwFma_congr (sub : Bool) (ha : fwVal a = fwVal a') (hb : fwVal b = fwVal b') (hc : fwVal c = fwVal c') :
    fwFma r sub a b c = fwFma r sub a' b' c' := by
  rw [fwFma, fwFma, ha, hb, hc]

end ByValue

/-! ### RoundInt of R58, by the direction it rounds in -/

/-- The modes and signs that round a magnitude toward zero. -/
abbrev RoundsDown (m : Rnd) (neg : Bool) : Prop := m = .rz ∨ (m = .rd ∧ neg = false) ∨ (m = .ru ∧ neg = true)

/-- The modes and signs that round a magnitude away from zero. -/
abbrev RoundsUp (m : Rnd) (neg : Bool) : Prop := (m = .rd ∧ neg = true) ∨ (m = .ru ∧ neg = false)

section RoundInt

variable {m : Rnd} {neg : Bool} (mag k : Nat)

theorem roundShift_rne (neg : Bool) : roundShift .rne neg mag k false =
    if 0 < k ∧ (2 ^ k < 2 * (mag % 2 ^ k) ∨ 2 * (mag % 2 ^ k) = 2 ^ k ∧ mag / 2 ^ k % 2 = 1) then mag / 2 ^ k + 1
    else mag / 2 ^ k := by
  simp [roundShift]

theorem roundShift_of_roundsDown (h : RoundsDown m neg) : roundShift m neg mag k false = mag / 2 ^ k := by
  obtain rfl | ⟨rfl, rfl⟩ | ⟨rfl, rfl⟩ := h <;> simp [roundShift]

theorem roundShift_of_roundsUp (h : RoundsUp m neg) :
    roundShift m neg mag k false = if mag % 2 ^ k ≠ 0 then mag / 2 ^ k + 1 else mag / 2 ^ k := by
  obtain ⟨rfl, rfl⟩ | ⟨rfl, rfl⟩ := h <;> simp [roundShift]

/-- RNE: no integer is nearer than the result, and the result of a tie is even. -/
theorem roundShift_rne_nearest {k : Nat} (hk : 0 < k) (neg : Bool) :
    let S := roundShift .rne neg mag k false
    2 * mag ≤ (2 * S + 1) * 2 ^ k ∧ 2 * S * 2 ^ k ≤ 2 * mag + 2 ^ k ∧
      (2 * mag = (2 * S + 1) * 2 ^ k ∨ 2 * mag + 2 ^ k = 2 * S * 2 ^ k → S % 2 = 0) := by
  have hdiv := Nat.div_add_mod' mag (2 ^ k)
  have hmod := Nat.mod_lt mag (Nat.two_pow_pos k)
  rw [roundShift_rne]
  generalize mag / 2 ^ k = q at *
  generalize mag % 2 ^ k = r at *
  generalize 2 ^ k = u at *
  -- the products with u that the bounds speak of, as multiples of q * u and u
  have hq : 2 * q * u = 2 * (q * u) := Nat.mul_assoc 2 q u
  have hup : 2 * (q + 1) * u = 2 * (q * u) + 2 * u := by rw [Nat.mul_add, Nat.add_mul, hq]
  dsimp only
  split
  case isTrue h =>
    have hr : u ≤ 2 * r := by omega
    rw [Nat.add_mul _ 1 u, hup]
    refine ⟨by omega, by omega, fun ht => ?_⟩
    have : 2 * r = u := by omega
    omega
  case isFalse h =>
    have hr : 2 * r ≤ u := by omega
    rw [Nat.add_mul _ 1 u, hq]
    refine ⟨by omega, by omega, fun ht => ?_⟩
    have : 2 * r = u := by omega
    omega

/-- Toward zero: the result is the integer at or below the magnitude. -/
theorem roundShift_floor (h : RoundsDown m neg) :
    let S := roundShift m neg mag k false
    S * 2 ^ k ≤ mag ∧ mag < (S + 1) * 2 ^ k := by
  rw [roundShift_of_roundsDown mag k h]
  exact ⟨Nat.div_mul_le_self mag _, Nat.lt_mul_of_div_lt (Nat.lt_succ_self _) (Nat.two_pow_pos k)⟩

/-- Away from zero: the result is the integer at or above the magnitude. -/
theorem roundShift_ceil (h : RoundsUp m neg) :
    let S := roundShift m neg mag k false
    mag ≤ S * 2 ^ k ∧ S * 2 ^ k < mag + 2 ^ k := by
  have hdiv := Nat.div_add_mod' mag (2 ^ k)
  have hmod := Nat.mod_lt mag (Nat.two_pow_pos k)
  rw [roundShift_of_roundsUp mag k h]
  dsimp only
  split
  · rw [Nat.add_mul]
    omega
  · omega

end RoundInt

/-! ### Round of R58 -/

theorem overflowFW_eq (m : Rnd) (neg : Bool) :
    overflowFW m neg = if m = .rne ∨ RoundsUp m neg then packFW neg 2 0 0 else packFW neg 1 4095 (2 ^ 32 - 1) := by
  cases m <;> cases neg <;> rfl

/-- The significand of R58 after RoundInt, before its carry. -/
def roundedSig (m : Rnd) (neg : Bool) (mag : Nat) : Nat :=
  if Nat.log2 mag ≤ 31 then mag * 2 ^ (31 - Nat.log2 mag) else roundShift m neg mag (Nat.log2 mag - 31) false

theorem roundFW_zero (m : Rnd) (neg : Bool) (exp : Int) : roundFW m neg 0 exp = packFW neg 0 0 0 := rfl

/-- The rule of R58 after RoundInt: the carry, then overflow and flush. -/
theorem roundFW_eq {mag : Nat} (h : mag ≠ 0) (m : Rnd) (neg : Bool) (exp : Int) :
    let S := roundedSig m neg mag
    let S' := if S = 2 ^ 32 then 2 ^ 31 else S
    let E : Int := if S = 2 ^ 32 then (Nat.log2 mag : Int) + exp + 1 else (Nat.log2 mag : Int) + exp
    roundFW m neg mag exp =
      if 4095 < E then overflowFW m neg else if E < -4096 then packFW neg 0 0 0 else packFW neg 1 E S' := by
  simp only [roundFW, h, if_false, ← roundedSig.eq_1]
  by_cases hS : roundedSig m neg mag = 2 ^ 32 <;> simp only [hS, if_true, if_false] <;> rfl

end Sys2Proof.Machine

namespace Sys2Proof.Proofs
open Sys2Proof Sys2Proof.Machine

/-- Settles O58: the fields of an assembled word give the value of each class, and each operation reads its operands
through that value. -/
theorem fabricWordsAreReadByTheirValue : Obligations.FabricWordsAreReadByTheirValue := by
  unfold Obligations.FabricWordsAreReadByTheirValue
  refine ⟨fun neg e s hlo hhi hs => ⟨fwVal_packFW_finite neg hlo hhi hs, fwVal_packFW_zero neg e s, fwVal_packFW_inf neg e s⟩,
    fun x n m e => fwVal_fin_bounds, fwVal_packFW_finite false (by decide) (by decide) (by decide), ?_⟩
  intro r sub a b c a' b' c' ha hb hc
  obtain ⟨hadd, hsub, hmul, hmax, hmin⟩ := fwBinary_congr r ha hb
  obtain ⟨habs, hneg, hexp2, hlog2, hrcp, hrsq, htoInt⟩ := fwUnary_congr r ha
  exact ⟨hadd, hsub, hmul, fwFma_congr r sub ha hb hc, hmax, hmin, habs, hneg, fwCps_congr ha hb, hexp2, hlog2, hrcp, hrsq, htoInt⟩

/-- Settles O60: the significand is that of `roundedSig`, whose three directions are the lemmas of `roundShift`. -/
theorem roundingFollowsItsRule : Obligations.RoundingFollowsItsRule := by
  unfold Obligations.RoundingFollowsItsRule
  refine fun m neg mag exp => ⟨roundFW_zero m neg exp, fun hpos => ?_⟩
  have hmag : mag ≠ 0 := by omega
  refine ⟨Nat.log2 mag, roundedSig m neg mag, Nat.log2_self_le hmag, Nat.lt_log2_self, fun hl => if_pos hl, fun hl => ?_, ?_⟩
  · have hS : roundedSig m neg mag = roundShift m neg mag (Nat.log2 mag - 31) false := if_neg (by omega)
    rw [hS]
    exact ⟨fun hm => hm ▸ roundShift_rne_nearest mag (by omega) neg, roundShift_floor mag _, roundShift_ceil mag _⟩
  · have h := roundFW_eq hmag m neg exp
    rw [overflowFW_eq] at h
    exact h

end Sys2Proof.Proofs
end
